-- ==== Sys2Proof/Word.lean ====
section
/-! DEFINITION. The word types of the Zarcel (R3, R65) and their plainest arithmetic. -/

namespace Sys2Proof

/-- A general register, an address, an instant (R65). -/
abbrev Word := BitVec 64
/-- One word of an instruction unit (R51). -/
abbrev Half := BitVec 32
abbrev Byte := BitVec 8
/-- A vector register (R65). -/
abbrev VWord := BitVec 512

/-- 2 to the 64: the modulus of a register. -/
def two64 : Nat := 18446744073709551616

/-- `Sat(x, lo, hi)` of R7 on integers. -/
def satInt (x lo hi : Int) : Int := if x < lo then lo else if x > hi then hi else x

/-- `a div b` of R6: truncation toward zero. -/
def tdivInt (a b : Int) : Int := Int.tdiv a b

end Sys2Proof
end

