-- ==== Sys2Proof/Syntax.lean ====
section
/-! DEFINITION. The instructions of Snirvasyn 1.0 and the steps of the Zarcel, one constructor per row of the opcode
table, with their operands as decoded fields. -/

namespace Sys2Proof

/-- The type codes of R62 that are not reserved. -/
inductive Ty where
  | b | h | w | d | zb | zh | zw | f32 | bf16 | f16 | e4m3 | e5m2 | q4
  deriving DecidableEq, Repr

/-- The comparisons of `cmp` (R84). -/
inductive Cc where
  | eq | ne | lt | le | gt | ge
  deriving DecidableEq, Repr

/-- The comparisons of `fcmp` and `vcmp` (R85, R146). -/
inductive FCc where
  | eq | ne | lt | le | gt | ge | uo | ord
  deriving DecidableEq, Repr

/-- Scopes (R63). -/
inductive Scope where
  | core | clu | dev | sys
  deriving DecidableEq, Repr

/-- Deadline selectors (R63). -/
inductive Sel where
  | dla | dlb | cap | poll
  deriving DecidableEq, Repr

/-- Typed buffers as BUF codes them (R61). -/
inductive Buf where
  | w | a | c | m
  deriving DecidableEq, Repr

/-- Copy endpoint kinds (R212). -/
inductive EndKind where
  | dev | w | a | arr
  deriving DecidableEq, Repr

/-- Operations of `vred` and `vscan` (R151). -/
inductive RedOp where
  | add | min | max | and | or | xor
  deriving DecidableEq, Repr

/-- Rounding selectors of `frint` and `vrint` (R85, R148). -/
inductive RMode where
  | dyn | rne | rtz | rup | rdn
  deriving DecidableEq, Repr

/-- Patterns of `vpermi` (R149). -/
inductive Pattern where
  | ilo | ihi | even | odd | rev | swap | rot | cat
  deriving DecidableEq, Repr

/-- Operations of `coll.red` (R229). -/
inductive CollOp where
  | add | min | max
  deriving DecidableEq, Repr

/-- Parent modes of `lnew` (R271). -/
inductive ParentMode where
  | own | reg | root
  deriving DecidableEq, Repr

/-- Expiry modes of `lnew` (R271). -/
inductive ExpiryMode where
  | abs | rel | inherit
  deriving DecidableEq, Repr

/-- Origins of harp operands: array buffer or device memory (R174, R178). -/
inductive Origin where
  | array | device
  deriving DecidableEq, Repr

/-- Destinations of `hdrain` (R177). -/
inductive DrainDest where
  | c | array | device
  deriving DecidableEq, Repr

/-- The address fields of the CM layout (R58, R61). -/
structure CmAddr where
  rb : Fin 16
  buf : Buf
  nb : Bool
  disp : BitVec 13
  deriving DecidableEq, Repr

/-- The address fields of the CG layout, with the selector (R58, R61). -/
structure CgAddr where
  rb : Fin 16
  ds : Sel
  disp : BitVec 12
  deriving DecidableEq, Repr

/-- The address fields of the CQ layout, with selector and scope (R58, R61). -/
structure CqAddr where
  rb : Fin 16
  nb : Bool
  ds : Sel
  scope : Scope
  disp : BitVec 11
  deriving DecidableEq, Repr

/-- The mask fields of the AV layout (R64). -/
structure VMask where
  mi : Fin 8
  um : Bool
  deriving DecidableEq, Repr

/-- The fields of the copy instructions (R212). -/
structure CopyFields where
  ch : Fin 8
  dk : EndKind
  sk : EndKind
  rd : Fin 16
  rs : Fin 16
  rl : Fin 16
  nd : Bool
  nl : Bool
  ds : Sel
  bnd : Bool
  ddisp : BitVec 7
  leni : BitVec 7
  nte : Bool
  ctag : BitVec 8
  boff : BitVec 9
  deriving DecidableEq, Repr

/-- The fields the collectives share (R229). -/
structure CollFields where
  rd : Fin 16
  rs : Fin 16
  rk : Fin 16
  ds : Sel
  nte : Bool
  lenm1 : BitVec 6
  ctag : BitVec 8
  boff : BitVec 9
  deriving DecidableEq, Repr

/-- The fields the matrix engine instructions share (R165); `ntf` bit 0 is the completion entry, bit 1 the arrival. -/
structure MwFields where
  ra : Fin 16
  rb : Fin 16
  rc : Fin 16
  ds : Sel
  ntf : BitVec 2
  ctag : BitVec 8
  boff : BitVec 9
  deriving DecidableEq, Repr

/-- What a peer answers when the head of a link queue reaches it (R193): done, done with an old value, or refused. -/
inductive PeerVerdict where
  | ack
  | value (v : Word)
  | refused
  deriving DecidableEq, Repr

/-- What a packet from a peer asks of this chip (R193, R230, R221, R209). -/
inductive PeerItem where
  /-- A store of bytes at a physical address of this chip. -/
  | store (pa : Nat) (bytes : List Byte)
  /-- A message: source lineage, carried expiry, target core, the header's source core and chip, LEN and TAG, payload, and how often stubs have
  forwarded it (R343). -/
  | message (lid : BitVec 20) (expiry : Word) (core : BitVec 13) (score : BitVec 13) (schip : BitVec 16) (len tag : BitVec 8) (payload : BitVec 384)
    (hops : Nat)
  /-- A `.sys` atomic: opcode 0x32 + op, type, operand, compare value. -/
  | atomic (op : Fin 9) (ty : Ty) (pa : Nat) (b cmp : Word)
  /-- A `.sys` barrier step: 0 arrive, 1 abort, 2 expect with a byte count, 3 withdraw from a phase, or from 2^16 on arrive
  and withdraw at once, 4 byte count. -/
  | barrier (kind : Fin 5) (pa : Nat) (arg : Nat)
  /-- A member of a collective at an object of this chip (R229): its object, rank, operation and contribution. -/
  | member (pa rank len : Nat) (isRed : Bool) (op : CollOp) (ty : Ty) (bytes : BitVec 32768)
  /-- The withdrawal of an accepted member whose operation is cancelled (R229): its object and rank. -/
  | memberGone (pa rank : Nat)
  /-- The notice that a granule which the peer homes has been written: what has read it is aborted (R194). -/
  | abort (gran : Nat)
  deriving DecidableEq, Repr

/-- An item crossing a link: an item of this chip reaching a peer, or an item of a peer reaching this chip (R193). -/
inductive Arrival where
  | outgoing (c : Nat) (t : Fin 4) (peer : Nat) (verdict : PeerVerdict)
  /-- From a context of a chip, for a context of this one. -/
  | incoming (chip : Nat) (ctx : Nat) (pctx : Nat) (item : PeerItem)
  deriving DecidableEq, Repr

/-- A proxy absence token (R253): sender chip (`none` is this chip), its thread, and the object's physical address. -/
structure Token where
  chip : Option Nat
  thread : Word
  obj : Nat
  deriving DecidableEq, Repr

/-- Where a timing error is found (R183, R310). -/
inductive ErrorPlace where
  | unit (c : Nat) (t : Fin 4)
  | cmu (c : Nat)
  | harp (k : Nat)
  deriving DecidableEq, Repr

/-- Where an uncorrectable soft error is found (R312). -/
inductive SoftPlace where
  | threadRead (c : Nat) (t : Fin 4) (va : Word)
  | engineRead (c : Nat) (ch : Fin 8)
  | buffer (c : Nat) (t : Fin 4)
  /-- The operand bytes that a cluster's running harp command reads next, at an offset in them. -/
  | harp (k off : Nat)
  | dict (c : Nat) (t : Fin 4) (idx : BitVec 8)
  | lineage (k : Nat) (l : BitVec 20)
  | node (die i : Nat)
  deriving DecidableEq, Repr

/-- A locked range whose reading ends (R169): of a core's buffers or of a cluster's array buffer, by lock number. -/
inductive LockPlace where
  | core (c : Nat) (n : Nat)
  | cluster (k : Nat) (n : Nat)
  deriving DecidableEq, Repr

/-- Every row of the opcode table: the C-slot instructions, the A-slot instructions, then the steps and commands. -/
inductive Instr where
  -- C slot
  | nopC  -- NOP_C, R88
  | b (d : BitVec 24) -- B, R89
  | bc (p : Fin 4) (d : BitVec 22) -- BC, R89
  | bnc (p : Fin 4) (d : BitVec 22) -- BNC, R89
  | bok (d : BitVec 24) -- BOK, R89
  | bfail (d : BitVec 24) -- BFAIL, R89
  | call (d : BitVec 24) -- CALL, R89
  | callReg (a : Fin 16) -- CALL_REG, R90
  | j (a : Fin 16) -- J, R90
  | ret  -- RET, R90
  | loop (ri : Fin 16) (rb : Fin 16) (nb : Bool) (disp : BitVec 13) (dist : BitVec 24) -- LOOP, R97
  | lend (d : BitVec 24) -- LEND, R98
  | lendPop  -- LEND_POP, R98
  | cmp (d : Fin 4) (a : Fin 16) (b : Fin 16) (cc : Cc) (ty : Ty) -- CMP, R91
  | sel (d : Fin 16) (a : Fin 16) (b : Fin 16) (q : Fin 4) -- SEL, R92
  | pset (d : Fin 4) (a : Fin 16) -- PSET, R93
  | psetAnd (d : Fin 4) (a : Fin 4) (b : Fin 4) -- PSET_AND, R93
  | psetOr (d : Fin 4) (a : Fin 4) (b : Fin 4) -- PSET_OR, R93
  | psetXor (d : Fin 4) (a : Fin 4) (b : Fin 4) -- PSET_XOR, R93
  | psetNot (d : Fin 4) (a : Fin 4) -- PSET_NOT, R93
  | ldi (d : Fin 16) (lit : BitVec 32) -- LDI, R94
  | ldiHi (d : Fin 16) (lit : BitVec 32) -- LDI_HI, R94
  | addiC (d : Fin 16) (a : Fin 16) (imm : BitVec 16) -- ADDI_C, R132
  | moviC (d : Fin 16) (imm : BitVec 16) -- MOVI_C, R132
  | getc (d : Fin 16) (n : BitVec 12) -- GETC, R67
  | setc (a : Fin 16) (n : BitVec 12) -- SETC, R67
  | trap (a : Fin 16) (n : BitVec 5) -- TRAP, R316
  | brk (imm : BitVec 16) -- BRK, R317
  | udf  -- UDF, R83
  | ldB (t : Fin 16) (m : CmAddr) -- LD_B, R103
  | ldH (t : Fin 16) (m : CmAddr) -- LD_H, R103
  | ldW (t : Fin 16) (m : CmAddr) -- LD_W, R103
  | ldD (t : Fin 16) (m : CmAddr) -- LD_D, R103
  | ldZb (t : Fin 16) (m : CmAddr) -- LD_ZB, R103
  | ldZh (t : Fin 16) (m : CmAddr) -- LD_ZH, R103
  | ldZw (t : Fin 16) (m : CmAddr) -- LD_ZW, R103
  | stB (t : Fin 16) (m : CmAddr) -- ST_B, R103
  | stH (t : Fin 16) (m : CmAddr) -- ST_H, R103
  | stW (t : Fin 16) (m : CmAddr) -- ST_W, R103
  | stD (t : Fin 16) (m : CmAddr) -- ST_D, R103
  | vld (t : Fin 16) (m : CmAddr) -- VLD, R104
  | vst (t : Fin 16) (m : CmAddr) -- VST, R104
  | vldx (d : Fin 16) (a : Fin 16) (b : Fin 16) (bu : Buf) (ty : Ty) (q : Fin 4) -- VLDX, R105
  | vstx (d : Fin 16) (a : Fin 16) (b : Fin 16) (bu : Buf) (ty : Ty) (q : Fin 4) -- VSTX, R105
  | ldgB (t : Fin 16) (m : CgAddr) -- LDG_B, R205
  | ldgH (t : Fin 16) (m : CgAddr) -- LDG_H, R205
  | ldgW (t : Fin 16) (m : CgAddr) -- LDG_W, R205
  | ldgD (t : Fin 16) (m : CgAddr) -- LDG_D, R205
  | ldgZb (t : Fin 16) (m : CgAddr) -- LDG_ZB, R205
  | ldgZh (t : Fin 16) (m : CgAddr) -- LDG_ZH, R205
  | ldgZw (t : Fin 16) (m : CgAddr) -- LDG_ZW, R205
  | stgB (t : Fin 16) (m : CgAddr) -- STG_B, R206
  | stgH (t : Fin 16) (m : CgAddr) -- STG_H, R206
  | stgW (t : Fin 16) (m : CgAddr) -- STG_W, R206
  | stgD (t : Fin 16) (m : CgAddr) -- STG_D, R206
  | amoAdd (d : Fin 16) (a : Fin 16) (b : Fin 16) (ty : Ty) (sc : Scope) (ds : Sel) -- AMO_ADD, R207, R208
  | amoMin (d : Fin 16) (a : Fin 16) (b : Fin 16) (ty : Ty) (sc : Scope) (ds : Sel) -- AMO_MIN, R207, R208
  | amoMax (d : Fin 16) (a : Fin 16) (b : Fin 16) (ty : Ty) (sc : Scope) (ds : Sel) -- AMO_MAX, R207, R208
  | amoAnd (d : Fin 16) (a : Fin 16) (b : Fin 16) (ty : Ty) (sc : Scope) (ds : Sel) -- AMO_AND, R207, R208
  | amoOr (d : Fin 16) (a : Fin 16) (b : Fin 16) (ty : Ty) (sc : Scope) (ds : Sel) -- AMO_OR, R207, R208
  | amoXor (d : Fin 16) (a : Fin 16) (b : Fin 16) (ty : Ty) (sc : Scope) (ds : Sel) -- AMO_XOR, R207, R208
  | amoSwap (d : Fin 16) (a : Fin 16) (b : Fin 16) (ty : Ty) (sc : Scope) (ds : Sel) -- AMO_SWAP, R207, R208
  | amoCas (d : Fin 16) (a : Fin 16) (b : Fin 16) (ty : Ty) (sc : Scope) (ds : Sel) -- AMO_CAS, R207, R208
  | fence (d : Fin 16) (sc : Scope) (ds : Sel) -- FENCE, R200, R210
  | cp (f : CopyFields) -- CP, R215
  | cpDeal (f : CopyFields) -- CP_DEAL, R216
  | cpGath (f : CopyFields) -- CP_GATH, R217
  | cpRot (f : CopyFields) -- CP_ROT, R218
  | collRed (f : CollFields) (op : CollOp) (ty : Ty) -- COLL_RED, R229
  | collGath (f : CollFields) -- COLL_GATH, R229
  | barInit (t : Fin 16) (o : CqAddr) (count : BitVec 16) (attach : Bool) -- BAR_INIT, R223
  | barExpect (t : Fin 16) (o : CqAddr) (bytes : BitVec 32) -- BAR_EXPECT, R223
  | barArrive (t : Fin 16) (o : CqAddr) -- BAR_ARRIVE, R224
  | barWait (t : Fin 16) (o : CqAddr) -- BAR_WAIT, R225
  | barSync (t : Fin 16) (o : CqAddr) -- BAR_SYNC, R226
  | barAbort (o : CqAddr) -- BAR_ABORT, R227
  | send (rc : Fin 16) (rs : Fin 16) (ds : Sel) (len : BitVec 6) (tag : BitVec 8) -- SEND, R230
  | recv (d : Fin 16) (a : Fin 16) (b : Fin 16) (ds : Sel) -- RECV, R231
  | poll (d : Fin 16) (b : Fin 16) -- POLL, R232
  | deleg (rc : Fin 16) (ra : Fin 16) (rr : Fin 16) (ds : Sel) (nte : Bool) (ctag : BitVec 8) -- DELEG, R233
  | delegOn (ds : Sel) -- DELEG_ON, R233
  | delegOff  -- DELEG_OFF, R233
  | home (d : Fin 16) (a : Fin 16) (b : Fin 16) (ds : Sel) -- HOME, R234
  | fork (d : BitVec 24) -- FORK, R256
  | join (ds : Sel) -- JOIN, R259
  | done  -- DONE, R260
  | yield (ds : Sel) -- YIELD, R261
  | irrev (ds : Sel) -- IRREV, R262
  | migrate (a : Fin 16) (ds : Sel) -- MIGRATE, R263
  | gang (d : Fin 16) (a : Fin 16) (ds : Sel) -- GANG, R264
  | rejoin (d : Fin 16) (ds : Sel) -- REJOIN, R266
  | nodeNew (d : Fin 16) (a : Fin 16) (t : Fin 16) (ds : Sel) (count : BitVec 16) -- NODE_NEW, R268
  | nodeDec (a : Fin 16) (ds : Sel) -- NODE_DEC, R269
  | tagEn (a : Fin 16) -- TAG_EN, R270
  | tagDis (a : Fin 16) -- TAG_DIS, R270
  | tagPend (d : Fin 16) (a : Fin 16) -- TAG_PEND, R270
  | tagClr (d : Fin 16) (a : Fin 16) -- TAG_CLR, R270
  | lnew (d : Fin 16) (e : Fin 16) (rp : Fin 16) (pm : ParentMode) (cl : BitVec 2) (em : ExpiryMode) (adopt : Bool) -- LNEW, R271
  | lext (d : Fin 16) (a : Fin 16) (b : Fin 16) -- LEXT, R272
  | lannul (a : Fin 16) -- LANNUL, R273
  | mma (f : MwFields) (kt : BitVec 7) -- MMA, R166
  | mzero (a : Fin 16) (ds : Sel) -- MZERO, R167
  | mdrain (f : MwFields) (dty : Ty) (sat : Bool) -- MDRAIN, R168
  | hlease (ds : Sel) -- HLEASE, R173
  | hrelease  -- HRELEASE, R173
  | hldw (f : MwFields) (org : Origin) (stg : Bool) -- HLDW, R174
  | hswap (ds : Sel) -- HSWAP, R175
  | hstream (f : MwFields) (org : Origin) (m1 : BitVec 6) (acc0 : BitVec 6) (za : Bool) -- HSTREAM, R176
  | hdrain (f : MwFields) (dest : DrainDest) (n1 : BitVec 6) (acc0 : BitVec 6) (z : Bool) -- HDRAIN, R177
  | hsave (f : MwFields) (loc : Origin) (n1 : BitVec 6) (acc0 : BitVec 6) -- HSAVE, R178
  | hrestore (f : MwFields) (loc : Origin) (n1 : BitVec 6) (acc0 : BitVec 6) -- HRESTORE, R178
  | boost875 (d : Fin 16) (ds : Sel) -- BOOST_875, R352
  | boost1050 (d : Fin 16) (ds : Sel) -- BOOST_1050, R352
  | boostOff (d : Fin 16) -- BOOST_OFF, R352
  | dload (t : Fin 16) (m : CgAddr) -- DLOAD, R75
  | dset (a : Fin 16) -- DSET, R76
  | dfence  -- DFENCE, R76
  | dx (idx : BitVec 8) (h0 : BitVec 6) (h1 : BitVec 6) (h2 : BitVec 4) -- DX, R71
  -- A slot
  | nopA  -- NOP_A, R88
  | add (d : Fin 16) (a : Fin 16) (b : Fin 16) (ty : Ty) -- ADD, R127
  | sub (d : Fin 16) (a : Fin 16) (b : Fin 16) (ty : Ty) -- SUB, R127
  | mul (d : Fin 16) (a : Fin 16) (b : Fin 16) (ty : Ty) -- MUL, R127
  | mulh (d : Fin 16) (a : Fin 16) (b : Fin 16) (ty : Ty) -- MULH, R127
  | mulhz (d : Fin 16) (a : Fin 16) (b : Fin 16) (ty : Ty) -- MULHZ, R127
  | div (d : Fin 16) (a : Fin 16) (b : Fin 16) (ty : Ty) -- DIV, R127
  | divz (d : Fin 16) (a : Fin 16) (b : Fin 16) (ty : Ty) -- DIVZ, R127
  | rem (d : Fin 16) (a : Fin 16) (b : Fin 16) (ty : Ty) -- REM, R127
  | remz (d : Fin 16) (a : Fin 16) (b : Fin 16) (ty : Ty) -- REMZ, R127
  | and (d : Fin 16) (a : Fin 16) (b : Fin 16) (ty : Ty) -- AND, R127
  | or (d : Fin 16) (a : Fin 16) (b : Fin 16) (ty : Ty) -- OR, R127
  | xor (d : Fin 16) (a : Fin 16) (b : Fin 16) (ty : Ty) -- XOR, R127
  | andn (d : Fin 16) (a : Fin 16) (b : Fin 16) (ty : Ty) -- ANDN, R127
  | shl (d : Fin 16) (a : Fin 16) (b : Fin 16) (ty : Ty) -- SHL, R127
  | shr (d : Fin 16) (a : Fin 16) (b : Fin 16) (ty : Ty) -- SHR, R127
  | sra (d : Fin 16) (a : Fin 16) (b : Fin 16) (ty : Ty) -- SRA, R127
  | rotl (d : Fin 16) (a : Fin 16) (b : Fin 16) (ty : Ty) -- ROTL, R127
  | clz (d : Fin 16) (a : Fin 16) (ty : Ty) -- CLZ, R127
  | ctz (d : Fin 16) (a : Fin 16) (ty : Ty) -- CTZ, R127
  | popc (d : Fin 16) (a : Fin 16) (ty : Ty) -- POPC, R127
  | min (d : Fin 16) (a : Fin 16) (b : Fin 16) (ty : Ty) -- MIN, R127
  | max (d : Fin 16) (a : Fin 16) (b : Fin 16) (ty : Ty) -- MAX, R127
  | minz (d : Fin 16) (a : Fin 16) (b : Fin 16) (ty : Ty) -- MINZ, R127
  | maxz (d : Fin 16) (a : Fin 16) (b : Fin 16) (ty : Ty) -- MAXZ, R127
  | bfx (d : Fin 16) (a : Fin 16) (b : Fin 16) -- BFX, R130
  | bfi (d : Fin 16) (a : Fin 16) (b : Fin 16) -- BFI, R130
  | lea (d : Fin 16) (a : Fin 16) (b : Fin 16) (s : Fin 4) -- LEA, R131
  | addiA (d : Fin 16) (a : Fin 16) (imm : BitVec 17) -- ADDI_A, R132
  | moviA (d : Fin 16) (imm : BitVec 17) -- MOVI_A, R132
  | mulImm (d : Fin 16) (a : Fin 16) (imm : BitVec 17) -- MUL_IMM, R132
  | andImm (d : Fin 16) (a : Fin 16) (imm : BitVec 17) -- AND_IMM, R132
  | orImm (d : Fin 16) (a : Fin 16) (imm : BitVec 17) -- OR_IMM, R132
  | xorImm (d : Fin 16) (a : Fin 16) (imm : BitVec 17) -- XOR_IMM, R132
  | shlImm (d : Fin 16) (a : Fin 16) (k : BitVec 6) -- SHL_IMM, R132
  | shrImm (d : Fin 16) (a : Fin 16) (k : BitVec 6) -- SHR_IMM, R132
  | sraImm (d : Fin 16) (a : Fin 16) (k : BitVec 6) -- SRA_IMM, R132
  | rotlImm (d : Fin 16) (a : Fin 16) (k : BitVec 6) -- ROTL_IMM, R132
  | minImm (d : Fin 16) (a : Fin 16) (imm : BitVec 17) -- MIN_IMM, R132
  | maxImm (d : Fin 16) (a : Fin 16) (imm : BitVec 17) -- MAX_IMM, R132
  | minzImm (d : Fin 16) (a : Fin 16) (imm : BitVec 17) -- MINZ_IMM, R132
  | maxzImm (d : Fin 16) (a : Fin 16) (imm : BitVec 17) -- MAXZ_IMM, R132
  | bfxImm (d : Fin 16) (a : Fin 16) (desc : BitVec 13) -- BFX_IMM, R130
  | bfiImm (d : Fin 16) (a : Fin 16) (desc : BitVec 13) -- BFI_IMM, R130
  | fadd (d : Fin 16) (a : Fin 16) (b : Fin 16) (ty : Ty) -- FADD, R134
  | fsub (d : Fin 16) (a : Fin 16) (b : Fin 16) (ty : Ty) -- FSUB, R134
  | fmul (d : Fin 16) (a : Fin 16) (b : Fin 16) (ty : Ty) -- FMUL, R134
  | ffma (d : Fin 16) (a : Fin 16) (b : Fin 16) (c : Fin 16) (ty : Ty) -- FFMA, R134
  | fmin (d : Fin 16) (a : Fin 16) (b : Fin 16) (ty : Ty) -- FMIN, R135
  | fmax (d : Fin 16) (a : Fin 16) (b : Fin 16) (ty : Ty) -- FMAX, R135
  | fsgn (d : Fin 16) (a : Fin 16) (b : Fin 16) (ty : Ty) -- FSGN, R136
  | fsgnN (d : Fin 16) (a : Fin 16) (b : Fin 16) (ty : Ty) -- FSGN_N, R136
  | fsgnX (d : Fin 16) (a : Fin 16) (b : Fin 16) (ty : Ty) -- FSGN_X, R136
  | fcmp (d : Fin 4) (a : Fin 16) (b : Fin 16) (ty : Ty) (cc : FCc) -- FCMP, R137
  | fcvt (d : Fin 16) (a : Fin 16) (ty : Ty) (sat : Bool) (src : Ty) -- FCVT, R141
  | frint (d : Fin 16) (a : Fin 16) (ty : Ty) (md : RMode) -- FRINT, R140
  | fexp2f (d : Fin 16) (a : Fin 16) -- FEXP2F, R142
  | fscaleb (d : Fin 16) (a : Fin 16) (b : Fin 16) (ty : Ty) -- FSCALEB, R143
  | fclass (d : Fin 16) (a : Fin 16) (ty : Ty) -- FCLASS, R138
  | frcp (d : Fin 16) (a : Fin 16) (ty : Ty) -- FRCP, R139
  | frsq (d : Fin 16) (a : Fin 16) (ty : Ty) -- FRSQ, R139
  | fsqrt (d : Fin 16) (a : Fin 16) (ty : Ty) -- FSQRT, R139
  | vadd (d : Fin 16) (a : Fin 16) (b : Fin 16) (k : VMask) (ty : Ty) (fn : Bool) -- VADD, R145
  | vsub (d : Fin 16) (a : Fin 16) (b : Fin 16) (k : VMask) (ty : Ty) (fn : Bool) -- VSUB, R145
  | vmul (d : Fin 16) (a : Fin 16) (b : Fin 16) (k : VMask) (ty : Ty) -- VMUL, R145
  | vfma (d : Fin 16) (a : Fin 16) (b : Fin 16) (c : Fin 16) (k : VMask) (ty : Ty) -- VFMA, R145
  | vmin (d : Fin 16) (a : Fin 16) (b : Fin 16) (k : VMask) (ty : Ty) (fn : Bool) -- VMIN, R145
  | vmax (d : Fin 16) (a : Fin 16) (b : Fin 16) (k : VMask) (ty : Ty) (fn : Bool) -- VMAX, R145
  | vand (d : Fin 16) (a : Fin 16) (b : Fin 16) (k : VMask) (ty : Ty) -- VAND, R145
  | vor (d : Fin 16) (a : Fin 16) (b : Fin 16) (k : VMask) (ty : Ty) -- VOR, R145
  | vxor (d : Fin 16) (a : Fin 16) (b : Fin 16) (k : VMask) (ty : Ty) -- VXOR, R145
  | vshl (d : Fin 16) (a : Fin 16) (b : Fin 16) (k : VMask) (ty : Ty) -- VSHL, R145
  | vshr (d : Fin 16) (a : Fin 16) (b : Fin 16) (k : VMask) (ty : Ty) -- VSHR, R145
  | vsra (d : Fin 16) (a : Fin 16) (b : Fin 16) (k : VMask) (ty : Ty) -- VSRA, R145
  | vcmp (d : Fin 8) (a : Fin 16) (b : Fin 16) (cc : FCc) (k : VMask) (ty : Ty) -- VCMP, R146
  | vsel (d : Fin 16) (a : Fin 16) (b : Fin 16) (c : Fin 8) (k : VMask) (ty : Ty) -- VSEL, R146
  | vcvt (d : Fin 16) (a : Fin 16) (src : Ty) (k : VMask) (ty : Ty) (fn : Bool) -- VCVT, R147
  | vrint (d : Fin 16) (a : Fin 16) (md : RMode) (k : VMask) (ty : Ty) -- VRINT, R148
  | vexp2f (d : Fin 16) (a : Fin 16) (k : VMask) -- VEXP2F, R148
  | vscaleb (d : Fin 16) (a : Fin 16) (b : Fin 16) (k : VMask) (ty : Ty) -- VSCALEB, R148
  | vperm (d : Fin 16) (a : Fin 16) (b : Fin 16) (c : Fin 16) (k : VMask) (ty : Ty) (fn : Bool) -- VPERM, R149
  | vpermi (d : Fin 16) (a : Fin 16) (b : Fin 16) (pat : Pattern) (k : VMask) (ty : Ty) -- VPERMI, R149
  | vbcast (d : Fin 16) (b : Fin 16) (k : VMask) (ty : Ty) -- VBCAST, R150
  | vred (d : Fin 16) (a : Fin 16) (op : RedOp) (k : VMask) (ty : Ty) -- VRED, R151
  | vscan (d : Fin 16) (a : Fin 16) (op : RedOp) (k : VMask) (ty : Ty) (fn : Bool) -- VSCAN, R151
  | vpopc (d : Fin 16) (a : Fin 16) (k : VMask) (ty : Ty) -- VPOPC, R152
  | vbin (d : Fin 16) (a : Fin 16) (b : Fin 16) (k : VMask) (ty : Ty) -- VBIN, R152
  | vext (d : Fin 16) (a : Fin 16) (b : Fin 16) (ty : Ty) -- VEXT, R150
  | vins (d : Fin 16) (a : Fin 16) (b : Fin 16) (ty : Ty) -- VINS, R150
  | vnarrow (d : Fin 16) (a : Fin 16) (b : Fin 16) (src : Ty) (k : VMask) (ty : Ty) (fn : Bool) -- VNARROW, R147
  | vwiden (d : Fin 16) (a : Fin 16) (h : Bool) (src : Ty) (k : VMask) (ty : Ty) -- VWIDEN, R147
  | vdot4 (d : Fin 16) (a : Fin 16) (b : Fin 16) (k : VMask) (ty : Ty) -- VDOT4, R153
  | vaddS (d : Fin 16) (a : Fin 16) (b : Fin 16) (k : VMask) (ty : Ty) (fn : Bool) -- VADD_SCALAR, R145
  | vsubS (d : Fin 16) (a : Fin 16) (b : Fin 16) (k : VMask) (ty : Ty) (fn : Bool) -- VSUB_SCALAR, R145
  | vmulS (d : Fin 16) (a : Fin 16) (b : Fin 16) (k : VMask) (ty : Ty) -- VMUL_SCALAR, R145
  | vfmaS (d : Fin 16) (a : Fin 16) (b : Fin 16) (c : Fin 16) (k : VMask) (ty : Ty) -- VFMA_SCALAR, R145
  | vminS (d : Fin 16) (a : Fin 16) (b : Fin 16) (k : VMask) (ty : Ty) (fn : Bool) -- VMIN_SCALAR, R145
  | vmaxS (d : Fin 16) (a : Fin 16) (b : Fin 16) (k : VMask) (ty : Ty) (fn : Bool) -- VMAX_SCALAR, R145
  | vshlS (d : Fin 16) (a : Fin 16) (b : Fin 16) (k : VMask) (ty : Ty) -- VSHL_SCALAR, R145
  | vshrS (d : Fin 16) (a : Fin 16) (b : Fin 16) (k : VMask) (ty : Ty) -- VSHR_SCALAR, R145
  | vsraS (d : Fin 16) (a : Fin 16) (b : Fin 16) (k : VMask) (ty : Ty) -- VSRA_SCALAR, R145
  | udfa  -- UDFA, R83
  | dxa (idx : BitVec 8) (h0 : BitVec 6) (h1 : BitVec 6) (h2 : BitVec 5) -- DXA, R71
  -- steps, commands and events
  | apply (c : Nat) (t : Fin 4) (i : Nat) -- APPLY. R193: entry i of the store path of slot t of core c is applied
  | ship (c : Nat) (t : Fin 4) (i : Nat) -- SHIP. R193: entry i of the store path moves to its link queue
  | arrive (a : Arrival) -- ARRIVE. R193: an item reaches the far end of a link
  | confirm (c : Nat) (t : Fin 4) (i : Nat) -- CONFIRM. R193: the answer to entry i of the fence tracker returns
  | linkLoss (chip : Nat) -- LINK_LOSS. R193: the link to a chip is declared dead
  | atomic (c : Nat) (t : Fin 4) (i : Nat) -- ATOMIC. R193: the atomic in entry i of the store path is performed
  | directSend (c : Nat) (t : Fin 4) (i : Nat) -- DIRECT_SEND. R193: the message in entry i of the store path is appended
  | commit (c : Nat) (t : Fin 4) -- COMMIT. R197: the tailpiece commits the task
  | lineageExpiry (k : Nat) (l : BitVec 20) -- LINEAGE_EXPIRY. R24: the local instant reaches the effective expiry
  | taskStart (c : Nat) (t : Fin 4) -- TASK_START. R248, R33: the free slot starts its best candidate
  | steal (c : Nat) (t : Fin 4) (victim : Nat) -- STEAL. R249: the free slot examines a victim core
  | deadlineStep (c : Nat) (t : Fin 4) -- DEADLINE_STEP. R243: the wait of the slot ends at its deadline
  | budgetOverrun (c : Nat) (t : Fin 4) -- BUDGET_OVERRUN. R252: REMAIN is 0
  | parkTimeExpiry (item : Word) -- PARK_TIME_EXPIRY. R300: PTIME has passed
  | replayTimer (item : Word) -- REPLAY_TIMER. R301: EVT 0b10 replays
  | timingError (p : ErrorPlace) -- TIMING_ERROR. R310, R183
  | stepdownExpiry (c : Nat) -- STEPDOWN_EXPIRY. R310
  | harpStepdownExpiry (k : Nat) -- HARP_STEPDOWN_EXPIRY. R183
  | uncorrectableData (p : SoftPlace) -- UNCORRECTABLE_DATA. R312
  | copyDeliver (c : Nat) (ch : Fin 8) (n : Nat) -- COPY_DELIVER. R213: up to n bytes of the delivering copy land
  | copyComplete (c : Nat) (ch : Fin 8) -- COPY_COMPLETE. R213
  | copyFault (c : Nat) (ch : Fin 8) -- COPY_FAULT. R219
  | engineCompletion (c : Nat) -- ENGINE_COMPLETION. R199, R247: a waiting completion enters the inbox
  | cmuComplete (c : Nat) (droop : Bool) -- CMU_OPERATION_COMPLETE. R164: the oldest operation completes; droop raises its knob (R182)
  | hstreamRow (k : Nat) (droop : Bool) -- HSTREAM_ROW_WRITE. R176: one row is written; droop raises its knob (R182)
  | harpSwap (k : Nat) -- HARP_PLANE_SWAP. R175
  | harpComplete (k : Nat) -- HARP_COMMAND_COMPLETE. R171
  | harpGrant (k : Nat) -- HARP_LEASE_GRANT. R173
  | leaseLimit (k : Nat) -- LEASE_CYCLE_LIMIT. R46
  | collectiveRun (i : Nat) -- COLLECTIVE_RUN. R229: the i-th waiting group runs
  | barrierStep (c : Nat) (t : Fin 4) -- BARRIER_ARRIVAL_STEP. R221: the delayed step of the slot is taken at its object
  | nodeStep (c : Nat) (t : Fin 4) -- NODE_DECREMENT_STEP. R269
  | nodePlace (die : Nat) -- NODE_RECORD_PLACE. R267, R247
  | migrationArrive (i : Nat) -- MIGRATION_MESSAGE. R45: the i-th package in flight arrives
  | portRelease (i : Nat) -- PORT_MESSAGE_RELEASE. R341: the i-th held message is bound
  | annulNotice (chip ctx : Nat) (l : BitVec 20) -- ANNUL_NOTICE. R342
  | resetNotice (chip ctx : Nat) (ls : List (BitVec 20)) -- RESET_NOTICE. R313
  | resetAck (die q peer : Nat) -- RESET_ACK. R313
  | resetTimeout (die q peer : Nat) -- RESET_PEER_TIMEOUT. R313
  | absenceToken (tk : Token) -- PROXY_ABSENCE_TOKEN. R253
  | tokenRemoval (tk : Token) -- TOKEN_REMOVAL. R253
  | suspendNotice (obj : Nat) -- SUSPENSION_NOTICE. R253, R246
  | resumeNotice (obj : Nat) -- RESUMPTION_NOTICE. R253, R246
  | peerDead (chip : Nat) -- PEER_DEAD_TIMEOUT. R331
  | intervalEnd (die : Nat) -- INTERVAL_END. R350
  | boostGrant (die : Nat) -- BOOST_GRANT. R352
  | clockRise (course : Nat) -- COURSE_CLOCK_RISE. R347
  | droop (course : Nat) -- DROOP. R347
  | thermalMigration (hot : Nat) (temps : List (Nat × Nat)) -- THERMAL_MIGRATION. R356: temperatures by core, in units of 0.25 °C
  | coreMapOut (c : Nat) (temps : List (Nat × Nat)) -- CORE_MAP_OUT. R314, R356
  | harpRowRemap (k row : Nat) -- HARP_ROW_REMAP. R181
  | laneRetire (port : Nat) -- LANE_RETIRE. R314
  | firewallDrop (phys : Nat) -- FIREWALL_DROP. R290
  | monitorSample (die u : Nat) (v : Nat) -- MONITOR_SAMPLE. R358
  | monitorEpoch (die u : Nat) -- MONITOR_EPOCH_END. R357
  | ptpMeasurement (offs : Int) (port : Nat) -- PTP_MEASUREMENT. R241, R332
  | ptpHold  -- PTP_HOLD_TIMEOUT. R332
  | ptpFirstTimeout  -- PTP_FIRST_TIMEOUT. R380
  | deviceReset (bad : List Nat) (rows : List (Nat × Nat)) -- DEVICE_RESET. R380: bad physical cores and harp rows found by the tests
  | ctxNew (k pa : Nat) -- CTXNEW. R333
  | ctxDel (k : Nat) -- CTXDEL. R333
  | peers (k : Nat) -- PEERS. R333
  | switch (n : Nat) (k : Option Nat) -- SWITCH. R291, R292
  | mapq (die q pa : Nat) -- MAPQ. R334
  | unmapq (die q : Nat) -- UNMAPQ. R333
  | kick (die q : Nat) -- KICK. R335
  | reload (k : Nat) -- RELOAD. R333
  | hread (pa : Nat) -- HREAD. R333
  | quote (nonce : BitVec 512) -- QUOTE. R386
  | qcert  -- QCERT. R386
  | slotWrite (table : Bool) (off : Nat) (bytes : List Byte) -- SLOT_WRITE. R380
  | queueScan (die q : Nat) -- QUEUE_SCAN. R335
  | noOp (die q : Nat) -- NO_OP. R336
  | submit (die q : Nat) -- SUBMIT. R337
  | submitRecord (die q : Nat) -- SUBMIT_RECORD_WRITE. R337
  | annul (die q : Nat) -- ANNUL. R337
  | queueReset (die q : Nat) -- RESET. R313, R337
  | eventWrite (die q : Nat) -- EVENT_WRITE. R339
  | kload (k : Nat) (v : Word) -- KLOAD. R289
  | kernelDone (k : Nat) -- KERNEL_LOAD_DONE. R279
  | invalidate (k : Nat) (v : Word) -- INVALIDATE. R289
  | shareWrite (k : Nat) (v : Word) -- SHARE_WRITE. R289
  | invalidationDone (k : Nat) -- INVALIDATION_COMPLETE. R289
  | energyLoRead (core : Option Nat) (acc : Nat) -- ENERGY_LO_READ. R359: by the host (none) or by a firmware core
  | registerWrite (pa : Nat) (v : Word) (k : Nat) (level : BitVec 2) -- REGISTER_WRITE. R5
  | dispNone (k : Nat) -- NONE. R303
  | dispResume (k : Nat) (item : Word) -- RESUME. R303
  | dispContinue (k : Nat) (item : Word) -- CONTINUE. R303
  | dispKill (k : Nat) (item : Word) -- KILL. R303, R305
  | dispMapped (k : Nat) (page size : Word) -- MAPPED. R303
  | dispPark (k : Nat) (item : Word) -- PARK. R303
  | dispReload (k : Nat) -- DISPOSITION_RELOAD. R303
  | dbgClaim (k : Nat) -- DBGCLAIM. R364
  | dbgRel (k : Nat) -- DBGREL. R364
  | dbgHalt (n : Nat) (t : Fin 4) -- DBGHALT. R364
  | dbgRun (n : Nat) (t : Fin 4) -- DBGRUN. R364
  | dbgStep (n : Nat) (t : Fin 4) -- DBGSTEP. R368
  | dbgRd (pa : Nat) -- DBGRD. R364
  | dbgWr (pa : Nat) (v : Word) -- DBGWR. R364
  | stepReply (c : Nat) (t : Fin 4) -- STEP_REPLY. R224: the reply completes the waiting unit
  | memoryRemap (frames : Nat) -- MEMORY_CHANNEL_REMAP. R314
  | droopEnd (course : Nat) -- DROOP_END. R347
  | energyCount (acc n : Nat) -- ENERGY_ACCUMULATION. R359
  | hostWrite (pa : Nat) (bytes : List Byte) -- HOST_WRITE. R338
  | frameOwner (f : Nat) (owner : Option Nat) -- FRAME_OWNERSHIP_CHANGE. R287
  | rangeRead (p : LockPlace) -- OPERAND_RANGE_READ. R169
  | heldExpiry (i : Nat) -- PORT_HELD_MESSAGE_EXPIRY. R341
  | correctedError  -- CORRECTED_SOFT_ERROR. R312
  deriving DecidableEq, Repr

end Sys2Proof
end

