-- ==== Sys2Proof/WellFormed.lean ====
section
/-! DEFINITION. The checks that make an encoding an instruction beyond its opcode: the type classes of R125 and R144 to R154,
and the field values that entries assign. -/

namespace Sys2Proof

/-- Element width in bytes (R62, R64); `.q4` counts as 8-bit lanes. -/
def Ty.size : Ty → Nat
  | .b | .zb | .e4m3 | .e5m2 | .q4 => 1
  | .h | .zh | .bf16 | .f16 => 2
  | .w | .zw | .f32 => 4
  | .d => 8
/-- Element width in bits. -/
def Ty.bits (t : Ty) : Nat := 8 * t.size
/-- Lanes of a 512-bit vector (R64). -/
def Ty.lanes (t : Ty) : Nat := 64 / t.size
/-- The integer formats of R111: class IA, and the types of `cmp` (R91). -/
def Ty.isInt : Ty → Bool
  | .b | .h | .w | .d | .zb | .zh | .zw => true
  | _ => false
/-- The types with a `z`: read unsigned. -/
def Ty.isZ : Ty → Bool
  | .zb | .zh | .zw => true
  | _ => false
/-- Class IS. -/
def Ty.isSigned : Ty → Bool
  | .b | .h | .w | .d => true
  | _ => false
/-- Class IU. -/
def Ty.isUnsignedClass : Ty → Bool
  | .zb | .zh | .zw | .d => true
  | _ => false
/-- Class FS. -/
def Ty.isFs : Ty → Bool
  | .f32 | .bf16 | .f16 => true
  | _ => false
/-- Every floating-point type. -/
def Ty.isFloat : Ty → Bool
  | .f32 | .bf16 | .f16 | .e4m3 | .e5m2 => true
  | _ => false
/-- Class VI. -/
def Ty.isVi : Ty → Bool
  | .b | .h | .w | .zb | .zh | .zw => true
  | _ => false
/-- The lane types of `vldx` and `vstx` (R105): all but `.d` and `.q4`. -/
def Ty.isLane : Ty → Bool
  | .d | .q4 => false
  | _ => true
/-- The types of `vperm` (R149). -/
def Ty.isPerm : Ty → Bool
  | .b | .zb | .q4 => true
  | _ => false
/-- The types of the atomics (R207). -/
def Ty.isAtomic : Ty → Bool
  | .w | .zw | .d => true
  | _ => false
/-- The types of `coll.red` (R229). -/
def Ty.isColl : Ty → Bool
  | .f32 | .bf16 | .w | .zw => true
  | _ => false
/-- Comparison codes assigned for integer lanes (R146). -/
def FCc.isOrdered : FCc → Bool
  | .uo | .ord => false
  | _ => true
/-- Pairs of `fcvt` (R141): destination, source. -/
def cvtPair (dst src : Ty) : Bool := (dst.isFloat && (src.isFloat || src.isInt)) || (dst.isInt && src.isFloat)
/-- Pairs of `vcvt` (R147): those of `fcvt` at one width, without `.d`. -/
def vcvtPair (dst src : Ty) : Bool := cvtPair dst src && dst.size == src.size && dst != .d && src != .d
/-- Pairs of `vnarrow` (R147). -/
def vnarrowPair (dst src : Ty) : Bool := (cvtPair dst src || (dst.isInt && src.isInt)) && 2 * dst.size == src.size && dst != .d && src != .d
/-- Pairs of `vwiden` (R147). -/
def vwidenPair (dst src : Ty) : Bool := (cvtPair dst src || (dst.isInt && src.isInt)) && dst.size == 2 * src.size && dst != .d && src != .d
/-- Operations and types of `vred` and `vscan` (R151). -/
def redOk (op : RedOp) (t : Ty) : Bool :=
  match op with
  | .add | .min | .max => t.isVi || t.isFs
  | .and | .or | .xor => t.isVi

/-- An instruction that its entry admits (R57 row 3, R62, R84 to R87, R97, R125, R144 to R154, R166). Values that the
types of `Instr` already rule out need no check. -/
def Instr.wf : Instr → Bool
  | .nopC => true
  | .b .. => true
  | .bc .. => true
  | .bnc .. => true
  | .bok .. => true
  | .bfail .. => true
  | .call .. => true
  | .callReg .. => true
  | .j .. => true
  | .ret => true
  | .loop _ _ _ _ dist => dist != 0
  | .lend d => d != 0
  | .lendPop => true
  | .cmp _ _ _ _ ty => ty.isInt
  | .sel .. => true
  | .pset .. => true
  | .psetAnd .. => true
  | .psetOr .. => true
  | .psetXor .. => true
  | .psetNot .. => true
  | .ldi .. => true
  | .ldiHi .. => true
  | .addiC .. => true
  | .moviC .. => true
  | .getc .. => true
  | .setc .. => true
  | .trap .. => true
  | .brk .. => true
  | .udf => true
  | .ldB .. => true
  | .ldH .. => true
  | .ldW .. => true
  | .ldD .. => true
  | .ldZb .. => true
  | .ldZh .. => true
  | .ldZw .. => true
  | .stB .. => true
  | .stH .. => true
  | .stW .. => true
  | .stD .. => true
  | .vld .. => true
  | .vst .. => true
  | .vldx _ _ _ _ ty _ => ty.isLane
  | .vstx _ _ _ _ ty _ => ty.isLane
  | .ldgB .. => true
  | .ldgH .. => true
  | .ldgW .. => true
  | .ldgD .. => true
  | .ldgZb .. => true
  | .ldgZh .. => true
  | .ldgZw .. => true
  | .stgB .. => true
  | .stgH .. => true
  | .stgW .. => true
  | .stgD .. => true
  | .amoAdd _ _ _ ty _ _ => ty.isAtomic
  | .amoMin _ _ _ ty _ _ => ty.isAtomic
  | .amoMax _ _ _ ty _ _ => ty.isAtomic
  | .amoAnd _ _ _ ty _ _ => ty.isAtomic
  | .amoOr _ _ _ ty _ _ => ty.isAtomic
  | .amoXor _ _ _ ty _ _ => ty.isAtomic
  | .amoSwap _ _ _ ty _ _ => ty.isAtomic
  | .amoCas _ _ _ ty _ _ => ty.isAtomic
  | .fence .. => true
  | .cp .. => true
  | .cpDeal .. => true
  | .cpGath .. => true
  | .cpRot .. => true
  | .collRed _ _ ty => ty.isColl
  | .collGath .. => true
  | .barInit .. => true
  | .barExpect .. => true
  | .barArrive .. => true
  | .barWait .. => true
  | .barSync .. => true
  | .barAbort .. => true
  | .send .. => true
  | .recv .. => true
  | .poll .. => true
  | .deleg .. => true
  | .delegOn .. => true
  | .delegOff => true
  | .home .. => true
  | .fork .. => true
  | .join .. => true
  | .done => true
  | .yield .. => true
  | .irrev .. => true
  | .migrate .. => true
  | .gang .. => true
  | .rejoin .. => true
  | .nodeNew .. => true
  | .nodeDec .. => true
  | .tagEn .. => true
  | .tagDis .. => true
  | .tagPend .. => true
  | .tagClr .. => true
  | .lnew .. => true
  | .lext .. => true
  | .lannul .. => true
  | .mma _ kt => kt != 0 && kt.toNat ≤ 64
  | .mzero .. => true
  | .mdrain .. => true
  | .hlease .. => true
  | .hrelease => true
  | .hldw .. => true
  | .hswap .. => true
  | .hstream .. => true
  | .hdrain .. => true
  | .hsave .. => true
  | .hrestore .. => true
  | .boost875 .. => true
  | .boost1050 .. => true
  | .boostOff .. => true
  | .dload .. => true
  | .dset .. => true
  | .dfence => true
  | .dx .. => true
  | .nopA => true
  | .add _ _ _ ty => ty.isInt
  | .sub _ _ _ ty => ty.isInt
  | .mul _ _ _ ty => ty.isInt
  | .mulh _ _ _ ty => ty.isSigned
  | .mulhz _ _ _ ty => ty.isUnsignedClass
  | .div _ _ _ ty => ty.isSigned
  | .divz _ _ _ ty => ty.isUnsignedClass
  | .rem _ _ _ ty => ty.isSigned
  | .remz _ _ _ ty => ty.isUnsignedClass
  | .and _ _ _ ty => ty.isInt
  | .or _ _ _ ty => ty.isInt
  | .xor _ _ _ ty => ty.isInt
  | .andn _ _ _ ty => ty.isInt
  | .shl _ _ _ ty => ty.isInt
  | .shr _ _ _ ty => ty.isInt
  | .sra _ _ _ ty => ty.isInt
  | .rotl _ _ _ ty => ty.isInt
  | .clz _ _ ty => ty.isInt
  | .ctz _ _ ty => ty.isInt
  | .popc _ _ ty => ty.isInt
  | .min _ _ _ ty => ty.isSigned
  | .max _ _ _ ty => ty.isSigned
  | .minz _ _ _ ty => ty.isUnsignedClass
  | .maxz _ _ _ ty => ty.isUnsignedClass
  | .bfx .. => true
  | .bfi .. => true
  | .lea .. => true
  | .addiA .. => true
  | .moviA .. => true
  | .mulImm .. => true
  | .andImm .. => true
  | .orImm .. => true
  | .xorImm .. => true
  | .shlImm .. => true
  | .shrImm .. => true
  | .sraImm .. => true
  | .rotlImm .. => true
  | .minImm .. => true
  | .maxImm .. => true
  | .minzImm .. => true
  | .maxzImm .. => true
  | .bfxImm .. => true
  | .bfiImm .. => true
  | .fadd _ _ _ ty => ty.isFs
  | .fsub _ _ _ ty => ty.isFs
  | .fmul _ _ _ ty => ty.isFs
  | .ffma _ _ _ _ ty => ty.isFs
  | .fmin _ _ _ ty => ty.isFs
  | .fmax _ _ _ ty => ty.isFs
  | .fsgn _ _ _ ty => ty.isFloat
  | .fsgnN _ _ _ ty => ty.isFloat
  | .fsgnX _ _ _ ty => ty.isFloat
  | .fcmp _ _ _ ty _ => ty.isFs
  | .fcvt _ _ ty _ src => cvtPair ty src
  | .frint _ _ ty _ => ty.isFs
  | .fexp2f .. => true
  | .fscaleb _ _ _ ty => ty.isFs
  | .fclass _ _ ty => ty.isFloat
  | .frcp _ _ ty => ty.isFs
  | .frsq _ _ ty => ty.isFs
  | .fsqrt _ _ ty => ty.isFs
  | .vadd _ _ _ _ ty fn => (ty.isVi || ty.isFs) && (!fn || ty.isVi)
  | .vsub _ _ _ _ ty fn => (ty.isVi || ty.isFs) && (!fn || ty.isVi)
  | .vmul _ _ _ _ ty => (ty.isVi || ty.isFs)
  | .vfma _ _ _ _ _ ty => (ty.isVi || ty.isFs)
  | .vmin _ _ _ _ ty fn => (ty.isVi || ty.isFs) && (!fn || ty.isFs)
  | .vmax _ _ _ _ ty fn => (ty.isVi || ty.isFs) && (!fn || ty.isFs)
  | .vand _ _ _ _ ty => ty != .d
  | .vor _ _ _ _ ty => ty != .d
  | .vxor _ _ _ _ ty => ty != .d
  | .vshl _ _ _ _ ty => ty.isVi
  | .vshr _ _ _ _ ty => ty.isVi
  | .vsra _ _ _ _ ty => ty.isVi
  | .vcmp _ _ _ cc _ ty => (ty.isVi && cc.isOrdered || ty.isFs)
  | .vsel _ _ _ _ _ ty => ty != .d
  | .vcvt _ _ src _ ty _ => vcvtPair ty src
  | .vrint _ _ _ _ ty => ty.isFs
  | .vexp2f .. => true
  | .vscaleb _ _ _ _ ty => ty.isFs
  | .vperm _ _ _ _ _ ty _ => ty.isPerm
  | .vpermi _ _ _ _ _ ty => ty != .d
  | .vbcast _ _ _ ty => ty != .d
  | .vred _ _ op _ ty => redOk op ty
  | .vscan _ _ op _ ty _ => redOk op ty
  | .vpopc _ _ _ ty => ty.isVi
  | .vbin _ _ _ _ ty => ty.isVi
  | .vext _ _ _ ty => ty != .d
  | .vins _ _ _ ty => ty != .d
  | .vnarrow _ _ _ src _ ty _ => vnarrowPair ty src
  | .vwiden _ _ _ src _ ty => vwidenPair ty src
  | .vdot4 _ _ _ _ ty => (ty == .b || ty == .zb)
  | .vaddS _ _ _ _ ty fn => (ty.isVi || ty.isFs) && (!fn || ty.isVi)
  | .vsubS _ _ _ _ ty fn => (ty.isVi || ty.isFs) && (!fn || ty.isVi)
  | .vmulS _ _ _ _ ty => (ty.isVi || ty.isFs)
  | .vfmaS _ _ _ _ _ ty => (ty.isVi || ty.isFs)
  | .vminS _ _ _ _ ty fn => (ty.isVi || ty.isFs) && (!fn || ty.isFs)
  | .vmaxS _ _ _ _ ty fn => (ty.isVi || ty.isFs) && (!fn || ty.isFs)
  | .vshlS _ _ _ _ ty => ty.isVi
  | .vshrS _ _ _ _ ty => ty.isVi
  | .vsraS _ _ _ _ ty => ty.isVi
  | .udfa => true
  | .dxa .. => true
  | .apply .. => true
  | .ship .. => true
  | .arrive .. => true
  | .confirm .. => true
  | .linkLoss .. => true
  | .atomic .. => true
  | .directSend .. => true
  | .commit .. => true
  | .lineageExpiry .. => true
  | .taskStart .. => true
  | .steal .. => true
  | .deadlineStep .. => true
  | .budgetOverrun .. => true
  | .parkTimeExpiry .. => true
  | .replayTimer .. => true
  | .timingError .. => true
  | .stepdownExpiry .. => true
  | .harpStepdownExpiry .. => true
  | .uncorrectableData .. => true
  | .copyDeliver .. => true
  | .copyComplete .. => true
  | .copyFault .. => true
  | .engineCompletion .. => true
  | .cmuComplete .. => true
  | .hstreamRow .. => true
  | .harpSwap .. => true
  | .harpComplete .. => true
  | .harpGrant .. => true
  | .leaseLimit .. => true
  | .collectiveRun .. => true
  | .barrierStep .. => true
  | .nodeStep .. => true
  | .nodePlace .. => true
  | .migrationArrive .. => true
  | .portRelease .. => true
  | .annulNotice .. => true
  | .resetNotice .. => true
  | .resetAck .. => true
  | .resetTimeout .. => true
  | .absenceToken .. => true
  | .tokenRemoval .. => true
  | .suspendNotice .. => true
  | .resumeNotice .. => true
  | .peerDead .. => true
  | .intervalEnd .. => true
  | .boostGrant .. => true
  | .clockRise .. => true
  | .droop .. => true
  | .thermalMigration .. => true
  | .coreMapOut .. => true
  | .harpRowRemap .. => true
  | .laneRetire .. => true
  | .firewallDrop .. => true
  | .monitorSample .. => true
  | .monitorEpoch .. => true
  | .ptpMeasurement .. => true
  | .ptpHold => true
  | .ptpFirstTimeout => true
  | .deviceReset .. => true
  | .ctxNew .. => true
  | .ctxDel .. => true
  | .peers .. => true
  | .switch .. => true
  | .mapq .. => true
  | .unmapq .. => true
  | .kick .. => true
  | .reload .. => true
  | .hread .. => true
  | .quote .. => true
  | .qcert => true
  | .slotWrite .. => true
  | .queueScan .. => true
  | .noOp .. => true
  | .submit .. => true
  | .submitRecord .. => true
  | .annul .. => true
  | .queueReset .. => true
  | .eventWrite .. => true
  | .kload .. => true
  | .kernelDone .. => true
  | .invalidate .. => true
  | .shareWrite .. => true
  | .invalidationDone .. => true
  | .energyLoRead .. => true
  | .registerWrite .. => true
  | .dispNone .. => true
  | .dispResume .. => true
  | .dispContinue .. => true
  | .dispKill .. => true
  | .dispMapped .. => true
  | .dispPark .. => true
  | .dispReload .. => true
  | .dbgClaim .. => true
  | .dbgRel .. => true
  | .dbgHalt .. => true
  | .dbgRun .. => true
  | .dbgStep .. => true
  | .dbgRd .. => true
  | .dbgWr .. => true
  | .stepReply .. => true
  | .memoryRemap .. => true
  | .droopEnd .. => true
  | .energyCount .. => true
  | .hostWrite .. => true
  | .frameOwner .. => true
  | .rangeRead .. => true
  | .heldExpiry .. => true
  | .correctedError => true

end Sys2Proof
end

