-- ==== Sys2Proof/Decode.lean ====
section
/-! DEFINITION. Decoding of instruction words (R51 to R63, R80 to R87) and, after it, the encoder written from the same
tables. Words are read as natural numbers: word 0 and word 1 of a unit, each below 2^32. -/

namespace Sys2Proof

/-- Bits [lo + n − 1 : lo] of a word (R3). -/
def fld (w lo n : Nat) : Nat := w / 2 ^ lo % 2 ^ n

def gReg (w lo : Nat) : Fin 16 := Fin.ofNat 16 (fld w lo 4)
def pReg (w lo : Nat) : Fin 4 := Fin.ofNat 4 (fld w lo 2)
def fin4 (w lo : Nat) : Fin 4 := Fin.ofNat 4 (fld w lo 2)
def mReg (w lo : Nat) : Fin 8 := Fin.ofNat 8 (fld w lo 3)
def bitAt (w lo : Nat) : Bool := fld w lo 1 == 1
/-- The FN of `lea` (R85): only 0 to 3 are assigned. -/
def fin4OfCode (n : Nat) : Option (Fin 4) := if h : n < 4 then some ⟨n, h⟩ else none

/-- TY (R62); the reserved codes are refused. -/
def Ty.ofCode : Nat → Option Ty
  | 0 => some .b | 1 => some .h | 2 => some .w | 3 => some .d | 4 => some .zb | 5 => some .zh | 6 => some .zw
  | 8 => some .f32 | 9 => some .bf16 | 10 => some .f16 | 11 => some .e4m3 | 12 => some .e5m2 | 13 => some .q4
  | _ => none
def Ty.code : Ty → Nat
  | .b => 0 | .h => 1 | .w => 2 | .d => 3 | .zb => 4 | .zh => 5 | .zw => 6
  | .f32 => 8 | .bf16 => 9 | .f16 => 10 | .e4m3 => 11 | .e5m2 => 12 | .q4 => 13
/-- FN of `cmp` (R84). -/
def Cc.ofCode : Nat → Option Cc
  | 0 => some .eq | 1 => some .ne | 2 => some .lt | 3 => some .le | 4 => some .gt | 5 => some .ge | _ => none
def Cc.code : Cc → Nat
  | .eq => 0 | .ne => 1 | .lt => 2 | .le => 3 | .gt => 4 | .ge => 5
/-- FN of `fcmp` (R85), VC of `vcmp` (R146). -/
def FCc.ofCode : Nat → Option FCc
  | 0 => some .eq | 1 => some .ne | 2 => some .lt | 3 => some .le | 4 => some .gt | 5 => some .ge | 6 => some .uo
  | 7 => some .ord | _ => none
def FCc.code : FCc → Nat
  | .eq => 0 | .ne => 1 | .lt => 2 | .le => 3 | .gt => 4 | .ge => 5 | .uo => 6 | .ord => 7
/-- Scope codes (R63). -/
def Scope.ofCode : Nat → Scope
  | 0 => .core | 1 => .clu | 2 => .dev | _ => .sys
def Scope.code : Scope → Nat
  | .core => 0 | .clu => 1 | .dev => 2 | .sys => 3
def scopeAt (w lo : Nat) : Scope := Scope.ofCode (fld w lo 2)
/-- Selector codes (R63). -/
def Sel.ofCode : Nat → Sel
  | 0 => .dla | 1 => .dlb | 2 => .cap | _ => .poll
def Sel.code : Sel → Nat
  | .dla => 0 | .dlb => 1 | .cap => 2 | .poll => 3
def selAt (w lo : Nat) : Sel := Sel.ofCode (fld w lo 2)
/-- BUF codes (R61), also the FN of `vldx` and `vstx` (R84), where codes above 3 are reserved. -/
def Buf.ofCode : Nat → Option Buf
  | 0 => some .w | 1 => some .a | 2 => some .c | 3 => some .m | _ => none
def Buf.code : Buf → Nat
  | .w => 0 | .a => 1 | .c => 2 | .m => 3
def Buf.ofCode2 : Nat → Buf
  | 0 => .w | 1 => .a | 2 => .c | _ => .m
/-- Endpoint kinds (R212). -/
def EndKind.ofCode : Nat → EndKind
  | 0 => .dev | 1 => .w | 2 => .a | _ => .arr
def EndKind.code : EndKind → Nat
  | .dev => 0 | .w => 1 | .a => 2 | .arr => 3
def RedOp.ofCode : Nat → Option RedOp
  | 0 => some .add | 1 => some .min | 2 => some .max | 3 => some .and | 4 => some .or | 5 => some .xor | _ => none
def RedOp.code : RedOp → Nat
  | .add => 0 | .min => 1 | .max => 2 | .and => 3 | .or => 4 | .xor => 5
def RMode.ofCode : Nat → Option RMode
  | 0 => some .dyn | 1 => some .rne | 2 => some .rtz | 3 => some .rup | 4 => some .rdn | _ => none
def RMode.code : RMode → Nat
  | .dyn => 0 | .rne => 1 | .rtz => 2 | .rup => 3 | .rdn => 4
def Pattern.ofCode : Nat → Option Pattern
  | 0 => some .ilo | 1 => some .ihi | 2 => some .even | 3 => some .odd | 4 => some .rev | 5 => some .swap
  | 6 => some .rot | 7 => some .cat | _ => none
def Pattern.code : Pattern → Nat
  | .ilo => 0 | .ihi => 1 | .even => 2 | .odd => 3 | .rev => 4 | .swap => 5 | .rot => 6 | .cat => 7
def CollOp.ofCode : Nat → Option CollOp
  | 0 => some .add | 1 => some .min | 2 => some .max | _ => none
def CollOp.code : CollOp → Nat
  | .add => 0 | .min => 1 | .max => 2
def ParentMode.ofCode : Nat → Option ParentMode
  | 0 => some .own | 1 => some .reg | 2 => some .root | _ => none
def ParentMode.code : ParentMode → Nat
  | .own => 0 | .reg => 1 | .root => 2
def ExpiryMode.ofCode : Nat → Option ExpiryMode
  | 0 => some .abs | 1 => some .rel | 2 => some .inherit | _ => none
def ExpiryMode.code : ExpiryMode → Nat
  | .abs => 0 | .rel => 1 | .inherit => 2
/-- ORG and LOC (R174, R178): 0b01 array buffer, 0b10 device memory. -/
def Origin.ofCode : Nat → Option Origin
  | 1 => some .array | 2 => some .device | _ => none
def Origin.code : Origin → Nat
  | .array => 1 | .device => 2
/-- DEST of `hdrain` (R177). -/
def DrainDest.ofCode : Nat → Option DrainDest
  | 0 => some .c | 1 => some .array | 2 => some .device | _ => none
def DrainDest.code : DrainDest → Nat
  | .c => 0 | .array => 1 | .device => 2

/-- CM layout (R58): RB [19:16], BUF [15:14], NB [13], DISP13 [12:0]. -/
def CmAddr.ofWord (w : Nat) : CmAddr :=
  ⟨gReg w 16, Buf.ofCode2 (fld w 14 2), bitAt w 13, BitVec.ofNat 13 (fld w 0 13)⟩
def CmAddr.bits (a : CmAddr) : Nat := a.rb.val * 65536 + a.buf.code * 16384 + a.nb.toNat * 8192 + a.disp.toNat
/-- CG layout (R58): RB [19:16], DS [15:14], DISP12 [11:0]; Q is not used by any CG entry. -/
def CgAddr.ofWord (w : Nat) : CgAddr := ⟨gReg w 16, selAt w 14, BitVec.ofNat 12 (fld w 0 12)⟩
def CgAddr.bits (a : CgAddr) : Nat := a.rb.val * 65536 + a.ds.code * 16384 + a.disp.toNat
/-- CQ layout (R58): RB [19:16], NB [15], DS [14:13], Q [12:11], DISP11 [10:0]. -/
def CqAddr.ofWord (w : Nat) : CqAddr :=
  ⟨gReg w 16, bitAt w 15, selAt w 13, scopeAt w 11, BitVec.ofNat 11 (fld w 0 11)⟩
def CqAddr.bits (a : CqAddr) : Nat :=
  a.rb.val * 65536 + a.nb.toNat * 32768 + a.ds.code * 8192 + a.scope.code * 2048 + a.disp.toNat
/-- MK [8:6] and UM [5] (R59, R64). -/
def VMask.ofWord (w : Nat) : VMask := ⟨mReg w 6, bitAt w 5⟩
def VMask.bits (m : VMask) : Nat := m.mi.val * 64 + m.um.toNat * 32
/-- The copy words (R212). -/
def CopyFields.ofWords (w0 w1 : Nat) : CopyFields :=
  { ch := mReg w0 21, dk := EndKind.ofCode (fld w0 19 2), sk := EndKind.ofCode (fld w0 17 2), rd := gReg w0 13
    rs := gReg w0 9, rl := gReg w0 5, nd := bitAt w0 4, nl := bitAt w0 3, ds := selAt w0 1, bnd := bitAt w0 0
    ddisp := BitVec.ofNat 7 (fld w1 25 7), leni := BitVec.ofNat 7 (fld w1 18 7), nte := bitAt w1 17
    ctag := BitVec.ofNat 8 (fld w1 9 8), boff := BitVec.ofNat 9 (fld w1 0 9) }
def CopyFields.word0 (f : CopyFields) : Nat :=
  f.ch.val * 2097152 + f.dk.code * 524288 + f.sk.code * 131072 + f.rd.val * 8192 + f.rs.val * 512 + f.rl.val * 32
    + f.nd.toNat * 16 + f.nl.toNat * 8 + f.ds.code * 2 + f.bnd.toNat
def CopyFields.word1 (f : CopyFields) : Nat :=
  f.ddisp.toNat * 33554432 + f.leni.toNat * 262144 + f.nte.toNat * 131072 + f.ctag.toNat * 512 + f.boff.toNat
/-- The collective words without OP and TY (R229). -/
def CollFields.ofWords (w0 w1 : Nat) : CollFields :=
  { rd := gReg w0 20, rs := gReg w0 16, rk := gReg w0 12, ds := selAt w0 10, nte := bitAt w0 3
    lenm1 := BitVec.ofNat 6 (fld w1 26 6), ctag := BitVec.ofNat 8 (fld w1 9 8), boff := BitVec.ofNat 9 (fld w1 0 9) }
def CollFields.word0 (f : CollFields) : Nat :=
  f.rd.val * 1048576 + f.rs.val * 65536 + f.rk.val * 4096 + f.ds.code * 1024 + f.nte.toNat * 8
def CollFields.word1 (f : CollFields) : Nat := f.lenm1.toNat * 67108864 + f.ctag.toNat * 512 + f.boff.toNat
/-- The shared MW fields (R165). -/
def MwFields.ofWords (w0 w1 : Nat) : MwFields :=
  { ra := gReg w0 20, rb := gReg w0 16, rc := gReg w0 12, ds := selAt w0 10, ntf := BitVec.ofNat 2 (fld w0 8 2)
    ctag := BitVec.ofNat 8 (fld w0 0 8), boff := BitVec.ofNat 9 (fld w1 0 9) }
def MwFields.word0 (f : MwFields) : Nat :=
  f.ra.val * 1048576 + f.rb.val * 65536 + f.rc.val * 4096 + f.ds.code * 1024 + f.ntf.toNat * 256 + f.ctag.toNat
def MwFields.word1 (f : MwFields) : Nat := f.boff.toNat

/-- The lone C opcodes: those of the CL and CW layouts (R53, R80). -/
def loneC (op : Nat) : Bool :=
  match op / 8 with
  | 1 => op == 0x0A || op == 0x0F
  | 2 => op == 0x10
  | 7 => 0x3B ≤ op
  | 8 => op ≤ 0x42 || op == 0x47
  | 9 => op == 0x4A
  | 10 => op == 0x54 || op == 0x57
  | 11 => op == 0x5A || op == 0x5C || op == 0x5F
  | 12 => 0x61 ≤ op && op ≤ 0x64
  | _ => false

/-- R80: the C space, opcodes 0x00 to 0x07. -/
def decC0 (op w0 w1 : Nat) : Option Instr :=
  match op with
  | 0 => some (.nopC)
  | 1 => some (.b (BitVec.ofNat 24 (fld w0 0 24)))
  | 2 => some (.bc (pReg w0 22) (BitVec.ofNat 22 (fld w0 0 22)))
  | 3 => some (.bnc (pReg w0 22) (BitVec.ofNat 22 (fld w0 0 22)))
  | 4 => some (.bok (BitVec.ofNat 24 (fld w0 0 24)))
  | 5 => some (.bfail (BitVec.ofNat 24 (fld w0 0 24)))
  | 6 => some (.call (BitVec.ofNat 24 (fld w0 0 24)))
  | _ => some (.callReg (gReg w0 16))

/-- R80: the C space, opcodes 0x08 to 0x0F. -/
def decC1 (op w0 w1 : Nat) : Option Instr :=
  match op with
  | 0 => some (.j (gReg w0 16))
  | 1 => some (.ret)
  | 2 => some (.loop (gReg w0 20) (gReg w0 16) (bitAt w0 13) (BitVec.ofNat 13 (fld w0 0 13)) (BitVec.ofNat 24 (fld w1 0 24)))
  | 3 => if fld w0 0 24 = 0 then some .lendPop else some (.lend (BitVec.ofNat 24 (fld w0 0 24)))
  | 4 => (Cc.ofCode (fld w0 8 4)).bind fun cc => (Ty.ofCode (fld w0 4 4)).bind fun ty => some (.cmp (pReg w0 20) (gReg w0 16) (gReg w0 12) cc ty)
  | 5 => some (.sel (gReg w0 20) (gReg w0 16) (gReg w0 12) (pReg w0 2))
  | 6 => if fld w0 8 4 = 0 then some (.pset (pReg w0 20) (gReg w0 16)) else if fld w0 8 4 = 1 then some (.psetAnd (pReg w0 20) (pReg w0 16) (pReg w0 12)) else if fld w0 8 4 = 2 then some (.psetOr (pReg w0 20) (pReg w0 16) (pReg w0 12)) else if fld w0 8 4 = 3 then some (.psetXor (pReg w0 20) (pReg w0 16) (pReg w0 12)) else if fld w0 8 4 = 4 then some (.psetNot (pReg w0 20) (pReg w0 16)) else none
  | _ => some (.ldi (gReg w0 20) (BitVec.ofNat 32 (fld w1 0 32)))

/-- R80: the C space, opcodes 0x10 to 0x17. -/
def decC2 (op w0 w1 : Nat) : Option Instr :=
  match op with
  | 0 => some (.ldiHi (gReg w0 20) (BitVec.ofNat 32 (fld w1 0 32)))
  | 1 => some (.addiC (gReg w0 20) (gReg w0 16) (BitVec.ofNat 16 (fld w0 0 16)))
  | 2 => some (.moviC (gReg w0 20) (BitVec.ofNat 16 (fld w0 0 16)))
  | 3 => some (.getc (gReg w0 20) (BitVec.ofNat 12 (fld w0 0 12)))
  | 4 => some (.setc (gReg w0 16) (BitVec.ofNat 12 (fld w0 0 12)))
  | 5 => some (.trap (gReg w0 16) (BitVec.ofNat 5 (fld w0 0 5)))
  | 6 => some (.brk (BitVec.ofNat 16 (fld w0 0 16)))
  | _ => some (.udf)

/-- R80: the C space, opcodes 0x18 to 0x1F. -/
def decC3 (op w0 w1 : Nat) : Option Instr :=
  match op with
  | 0 => some (.ldB (gReg w0 20) (CmAddr.ofWord w0))
  | 1 => some (.ldH (gReg w0 20) (CmAddr.ofWord w0))
  | 2 => some (.ldW (gReg w0 20) (CmAddr.ofWord w0))
  | 3 => some (.ldD (gReg w0 20) (CmAddr.ofWord w0))
  | 4 => some (.ldZb (gReg w0 20) (CmAddr.ofWord w0))
  | 5 => some (.ldZh (gReg w0 20) (CmAddr.ofWord w0))
  | 6 => some (.ldZw (gReg w0 20) (CmAddr.ofWord w0))
  | _ => some (.stB (gReg w0 20) (CmAddr.ofWord w0))

/-- R80: the C space, opcodes 0x20 to 0x27. -/
def decC4 (op w0 w1 : Nat) : Option Instr :=
  match op with
  | 0 => some (.stH (gReg w0 20) (CmAddr.ofWord w0))
  | 1 => some (.stW (gReg w0 20) (CmAddr.ofWord w0))
  | 2 => some (.stD (gReg w0 20) (CmAddr.ofWord w0))
  | 3 => some (.vld (gReg w0 20) (CmAddr.ofWord w0))
  | 4 => some (.vst (gReg w0 20) (CmAddr.ofWord w0))
  | 5 => (Buf.ofCode (fld w0 8 4)).bind fun bu => (Ty.ofCode (fld w0 4 4)).bind fun ty => some (.vldx (gReg w0 20) (gReg w0 16) (gReg w0 12) bu ty (fin4 w0 2))
  | 6 => (Buf.ofCode (fld w0 8 4)).bind fun bu => (Ty.ofCode (fld w0 4 4)).bind fun ty => some (.vstx (gReg w0 20) (gReg w0 16) (gReg w0 12) bu ty (fin4 w0 2))
  | _ => some (.ldgB (gReg w0 20) (CgAddr.ofWord w0))

/-- R80: the C space, opcodes 0x28 to 0x2F. -/
def decC5 (op w0 w1 : Nat) : Option Instr :=
  match op with
  | 0 => some (.ldgH (gReg w0 20) (CgAddr.ofWord w0))
  | 1 => some (.ldgW (gReg w0 20) (CgAddr.ofWord w0))
  | 2 => some (.ldgD (gReg w0 20) (CgAddr.ofWord w0))
  | 3 => some (.ldgZb (gReg w0 20) (CgAddr.ofWord w0))
  | 4 => some (.ldgZh (gReg w0 20) (CgAddr.ofWord w0))
  | 5 => some (.ldgZw (gReg w0 20) (CgAddr.ofWord w0))
  | 6 => some (.stgB (gReg w0 20) (CgAddr.ofWord w0))
  | _ => some (.stgH (gReg w0 20) (CgAddr.ofWord w0))

/-- R80: the C space, opcodes 0x30 to 0x37. -/
def decC6 (op w0 w1 : Nat) : Option Instr :=
  match op with
  | 0 => some (.stgW (gReg w0 20) (CgAddr.ofWord w0))
  | 1 => some (.stgD (gReg w0 20) (CgAddr.ofWord w0))
  | 2 => (Ty.ofCode (fld w0 4 4)).bind fun ty => some (.amoAdd (gReg w0 20) (gReg w0 16) (gReg w0 12) ty (scopeAt w0 2) (selAt w0 0))
  | 3 => (Ty.ofCode (fld w0 4 4)).bind fun ty => some (.amoMin (gReg w0 20) (gReg w0 16) (gReg w0 12) ty (scopeAt w0 2) (selAt w0 0))
  | 4 => (Ty.ofCode (fld w0 4 4)).bind fun ty => some (.amoMax (gReg w0 20) (gReg w0 16) (gReg w0 12) ty (scopeAt w0 2) (selAt w0 0))
  | 5 => (Ty.ofCode (fld w0 4 4)).bind fun ty => some (.amoAnd (gReg w0 20) (gReg w0 16) (gReg w0 12) ty (scopeAt w0 2) (selAt w0 0))
  | 6 => (Ty.ofCode (fld w0 4 4)).bind fun ty => some (.amoOr (gReg w0 20) (gReg w0 16) (gReg w0 12) ty (scopeAt w0 2) (selAt w0 0))
  | _ => (Ty.ofCode (fld w0 4 4)).bind fun ty => some (.amoXor (gReg w0 20) (gReg w0 16) (gReg w0 12) ty (scopeAt w0 2) (selAt w0 0))

/-- R80: the C space, opcodes 0x38 to 0x3F. -/
def decC7 (op w0 w1 : Nat) : Option Instr :=
  match op with
  | 0 => (Ty.ofCode (fld w0 4 4)).bind fun ty => some (.amoSwap (gReg w0 20) (gReg w0 16) (gReg w0 12) ty (scopeAt w0 2) (selAt w0 0))
  | 1 => (Ty.ofCode (fld w0 4 4)).bind fun ty => some (.amoCas (gReg w0 20) (gReg w0 16) (gReg w0 12) ty (scopeAt w0 2) (selAt w0 0))
  | 2 => some (.fence (gReg w0 20) (scopeAt w0 2) (selAt w0 0))
  | 3 => some (.cp (CopyFields.ofWords w0 w1))
  | 4 => some (.cpDeal (CopyFields.ofWords w0 w1))
  | 5 => some (.cpGath (CopyFields.ofWords w0 w1))
  | 6 => some (.cpRot (CopyFields.ofWords w0 w1))
  | _ => (CollOp.ofCode (fld w0 8 2)).bind fun op => (Ty.ofCode (fld w0 4 4)).bind fun ty => some (.collRed (CollFields.ofWords w0 w1) op ty)

/-- R80: the C space, opcodes 0x40 to 0x47. -/
def decC8 (op w0 w1 : Nat) : Option Instr :=
  match op with
  | 0 => some (.collGath (CollFields.ofWords w0 w1))
  | 1 => some (.barInit (gReg w0 20) (CqAddr.ofWord w0) (BitVec.ofNat 16 (fld w1 0 16)) (bitAt w1 31))
  | 2 => some (.barExpect (gReg w0 20) (CqAddr.ofWord w0) (BitVec.ofNat 32 (fld w1 0 32)))
  | 3 => some (.barArrive (gReg w0 20) (CqAddr.ofWord w0))
  | 4 => some (.barWait (gReg w0 20) (CqAddr.ofWord w0))
  | 5 => some (.barSync (gReg w0 20) (CqAddr.ofWord w0))
  | 6 => some (.barAbort (CqAddr.ofWord w0))
  | _ => some (.send (gReg w0 20) (gReg w0 16) (selAt w0 14) (BitVec.ofNat 6 (fld w0 8 6)) (BitVec.ofNat 8 (fld w1 0 8)))

/-- R80: the C space, opcodes 0x48 to 0x4F. -/
def decC9 (op w0 w1 : Nat) : Option Instr :=
  match op with
  | 0 => some (.recv (gReg w0 20) (gReg w0 16) (gReg w0 12) (selAt w0 0))
  | 1 => some (.poll (gReg w0 20) (gReg w0 12))
  | 2 => if fld w1 30 2 = 0 then some (.deleg (gReg w0 20) (gReg w0 16) (gReg w0 12) (selAt w0 10) (bitAt w0 9) (BitVec.ofNat 8 (fld w0 0 8))) else if fld w1 30 2 = 1 then some (.delegOn (selAt w0 10)) else if fld w1 30 2 = 2 then some (.delegOff) else none
  | 3 => some (.home (gReg w0 20) (gReg w0 16) (gReg w0 12) (selAt w0 0))
  | 4 => some (.fork (BitVec.ofNat 24 (fld w0 0 24)))
  | 5 => some (.join (selAt w0 0))
  | 6 => some (.done)
  | _ => some (.yield (selAt w0 0))

/-- R80: the C space, opcodes 0x50 to 0x57. -/
def decCA (op w0 w1 : Nat) : Option Instr :=
  match op with
  | 0 => some (.irrev (selAt w0 0))
  | 1 => some (.migrate (gReg w0 16) (selAt w0 0))
  | 2 => some (.gang (gReg w0 20) (gReg w0 16) (selAt w0 0))
  | 3 => some (.rejoin (gReg w0 20) (selAt w0 0))
  | 4 => some (.nodeNew (gReg w0 20) (gReg w0 16) (gReg w0 12) (selAt w0 10) (BitVec.ofNat 16 (fld w1 0 16)))
  | 5 => some (.nodeDec (gReg w0 16) (selAt w0 0))
  | 6 => if fld w0 8 4 = 0 then some (.tagEn (gReg w0 16)) else if fld w0 8 4 = 1 then some (.tagDis (gReg w0 16)) else if fld w0 8 4 = 2 then some (.tagPend (gReg w0 20) (gReg w0 16)) else if fld w0 8 4 = 3 then some (.tagClr (gReg w0 20) (gReg w0 16)) else none
  | _ => (ParentMode.ofCode (fld w0 10 2)).bind fun pm => (ExpiryMode.ofCode (fld w1 30 2)).bind fun em => some (.lnew (gReg w0 20) (gReg w0 16) (gReg w0 12) pm (BitVec.ofNat 2 (fld w0 8 2)) em (bitAt w1 29))

/-- R80: the C space, opcodes 0x58 to 0x5F. -/
def decCB (op w0 w1 : Nat) : Option Instr :=
  match op with
  | 0 => some (.lext (gReg w0 20) (gReg w0 16) (gReg w0 12))
  | 1 => some (.lannul (gReg w0 16))
  | 2 => some (.mma (MwFields.ofWords w0 w1) (BitVec.ofNat 7 (fld w1 25 7)))
  | 3 => some (.mzero (gReg w0 16) (selAt w0 0))
  | 4 => (Ty.ofCode (fld w1 28 4)).bind fun dty => some (.mdrain (MwFields.ofWords w0 w1) dty (bitAt w1 27))
  | 5 => some (.hlease (selAt w0 0))
  | 6 => some (.hrelease)
  | _ => (Origin.ofCode (fld w1 30 2)).bind fun org => some (.hldw (MwFields.ofWords w0 w1) org (bitAt w1 29))

/-- R80: the C space, opcodes 0x60 to 0x67. -/
def decCC (op w0 w1 : Nat) : Option Instr :=
  match op with
  | 0 => some (.hswap (selAt w0 0))
  | 1 => (Origin.ofCode (fld w1 30 2)).bind fun org => some (.hstream (MwFields.ofWords w0 w1) org (BitVec.ofNat 6 (fld w1 24 6)) (BitVec.ofNat 6 (fld w1 18 6)) (bitAt w1 17))
  | 2 => (DrainDest.ofCode (fld w1 30 2)).bind fun dest => some (.hdrain (MwFields.ofWords w0 w1) dest (BitVec.ofNat 6 (fld w1 24 6)) (BitVec.ofNat 6 (fld w1 18 6)) (bitAt w1 17))
  | 3 => (Origin.ofCode (fld w1 30 2)).bind fun loc => some (.hsave (MwFields.ofWords w0 w1) loc (BitVec.ofNat 6 (fld w1 24 6)) (BitVec.ofNat 6 (fld w1 18 6)))
  | 4 => (Origin.ofCode (fld w1 30 2)).bind fun loc => some (.hrestore (MwFields.ofWords w0 w1) loc (BitVec.ofNat 6 (fld w1 24 6)) (BitVec.ofNat 6 (fld w1 18 6)))
  | 5 => if fld w0 8 4 = 0 then some (.boost875 (gReg w0 20) (selAt w0 0)) else if fld w0 8 4 = 1 then some (.boost1050 (gReg w0 20) (selAt w0 0)) else if fld w0 8 4 = 2 then some (.boostOff (gReg w0 20)) else none
  | 6 => some .udf
  | _ => some .udf

/-- R80: the C space, opcodes 0x68 to 0x6F. -/
def decCD (op w0 w1 : Nat) : Option Instr :=
  match op with
  | 0 => some .udf
  | 1 => some .udf
  | 2 => some .udf
  | 3 => some .udf
  | 4 => some (.dload (gReg w0 20) (CgAddr.ofWord w0))
  | 5 => if fld w0 8 4 = 0 then some (.dset (gReg w0 16)) else if fld w0 8 4 = 1 then some (.dfence) else none
  | 6 => some .udf
  | _ => some .udf

/-- R80: the C space, opcodes 0x70 to 0x77. -/
def decCE (op w0 w1 : Nat) : Option Instr :=
  match op with
  | 0 => some .udf
  | 1 => some .udf
  | 2 => some .udf
  | 3 => some .udf
  | 4 => some .udf
  | 5 => some .udf
  | 6 => some .udf
  | _ => some .udf

/-- R80: the C space, opcodes 0x78 to 0x7F. -/
def decCF (op w0 w1 : Nat) : Option Instr :=
  match op with
  | 0 => some .udf
  | 1 => some .udf
  | 2 => some .udf
  | 3 => some .udf
  | 4 => some .udf
  | 5 => some .udf
  | 6 => some .udf
  | _ => some (.dx (BitVec.ofNat 8 (fld w0 16 8)) (BitVec.ofNat 6 (fld w0 10 6)) (BitVec.ofNat 6 (fld w0 4 6)) (BitVec.ofNat 4 (fld w0 0 4)))

/-- R80: the C space: every opcode, before the checks of `Instr.wf`. -/
def decCRaw (w0 w1 : Nat) : Option Instr :=
  let op := fld w0 24 7
  match op / 8 with
  | 0 => decC0 (op % 8) w0 w1
  | 1 => decC1 (op % 8) w0 w1
  | 2 => decC2 (op % 8) w0 w1
  | 3 => decC3 (op % 8) w0 w1
  | 4 => decC4 (op % 8) w0 w1
  | 5 => decC5 (op % 8) w0 w1
  | 6 => decC6 (op % 8) w0 w1
  | 7 => decC7 (op % 8) w0 w1
  | 8 => decC8 (op % 8) w0 w1
  | 9 => decC9 (op % 8) w0 w1
  | 10 => decCA (op % 8) w0 w1
  | 11 => decCB (op % 8) w0 w1
  | 12 => decCC (op % 8) w0 w1
  | 13 => decCD (op % 8) w0 w1
  | 14 => decCE (op % 8) w0 w1
  | _ => decCF (op % 8) w0 w1

/-- R81: the A space, opcodes 0x00 to 0x07. -/
def decA0 (op w0 w1 : Nat) : Option Instr :=
  match op with
  | 0 => some (.nopA)
  | 1 => (Ty.ofCode (fld w1 5 4)).bind fun ty => some (.add (gReg w1 21) (gReg w1 17) (gReg w1 13) ty)
  | 2 => (Ty.ofCode (fld w1 5 4)).bind fun ty => some (.sub (gReg w1 21) (gReg w1 17) (gReg w1 13) ty)
  | 3 => (Ty.ofCode (fld w1 5 4)).bind fun ty => some (.mul (gReg w1 21) (gReg w1 17) (gReg w1 13) ty)
  | 4 => (Ty.ofCode (fld w1 5 4)).bind fun ty => some (.mulh (gReg w1 21) (gReg w1 17) (gReg w1 13) ty)
  | 5 => (Ty.ofCode (fld w1 5 4)).bind fun ty => some (.mulhz (gReg w1 21) (gReg w1 17) (gReg w1 13) ty)
  | 6 => (Ty.ofCode (fld w1 5 4)).bind fun ty => some (.div (gReg w1 21) (gReg w1 17) (gReg w1 13) ty)
  | _ => (Ty.ofCode (fld w1 5 4)).bind fun ty => some (.divz (gReg w1 21) (gReg w1 17) (gReg w1 13) ty)

/-- R81: the A space, opcodes 0x08 to 0x0F. -/
def decA1 (op w0 w1 : Nat) : Option Instr :=
  match op with
  | 0 => (Ty.ofCode (fld w1 5 4)).bind fun ty => some (.rem (gReg w1 21) (gReg w1 17) (gReg w1 13) ty)
  | 1 => (Ty.ofCode (fld w1 5 4)).bind fun ty => some (.remz (gReg w1 21) (gReg w1 17) (gReg w1 13) ty)
  | 2 => (Ty.ofCode (fld w1 5 4)).bind fun ty => some (.and (gReg w1 21) (gReg w1 17) (gReg w1 13) ty)
  | 3 => (Ty.ofCode (fld w1 5 4)).bind fun ty => some (.or (gReg w1 21) (gReg w1 17) (gReg w1 13) ty)
  | 4 => (Ty.ofCode (fld w1 5 4)).bind fun ty => some (.xor (gReg w1 21) (gReg w1 17) (gReg w1 13) ty)
  | 5 => (Ty.ofCode (fld w1 5 4)).bind fun ty => some (.andn (gReg w1 21) (gReg w1 17) (gReg w1 13) ty)
  | 6 => (Ty.ofCode (fld w1 5 4)).bind fun ty => some (.shl (gReg w1 21) (gReg w1 17) (gReg w1 13) ty)
  | _ => (Ty.ofCode (fld w1 5 4)).bind fun ty => some (.shr (gReg w1 21) (gReg w1 17) (gReg w1 13) ty)

/-- R81: the A space, opcodes 0x10 to 0x17. -/
def decA2 (op w0 w1 : Nat) : Option Instr :=
  match op with
  | 0 => (Ty.ofCode (fld w1 5 4)).bind fun ty => some (.sra (gReg w1 21) (gReg w1 17) (gReg w1 13) ty)
  | 1 => (Ty.ofCode (fld w1 5 4)).bind fun ty => some (.rotl (gReg w1 21) (gReg w1 17) (gReg w1 13) ty)
  | 2 => (Ty.ofCode (fld w1 5 4)).bind fun ty => some (.clz (gReg w1 21) (gReg w1 17) ty)
  | 3 => (Ty.ofCode (fld w1 5 4)).bind fun ty => some (.ctz (gReg w1 21) (gReg w1 17) ty)
  | 4 => (Ty.ofCode (fld w1 5 4)).bind fun ty => some (.popc (gReg w1 21) (gReg w1 17) ty)
  | 5 => (Ty.ofCode (fld w1 5 4)).bind fun ty => some (.min (gReg w1 21) (gReg w1 17) (gReg w1 13) ty)
  | 6 => (Ty.ofCode (fld w1 5 4)).bind fun ty => some (.max (gReg w1 21) (gReg w1 17) (gReg w1 13) ty)
  | _ => (Ty.ofCode (fld w1 5 4)).bind fun ty => some (.minz (gReg w1 21) (gReg w1 17) (gReg w1 13) ty)

/-- R81: the A space, opcodes 0x18 to 0x1F. -/
def decA3 (op w0 w1 : Nat) : Option Instr :=
  match op with
  | 0 => (Ty.ofCode (fld w1 5 4)).bind fun ty => some (.maxz (gReg w1 21) (gReg w1 17) (gReg w1 13) ty)
  | 1 => if fld w1 5 4 = 3 then some (.bfx (gReg w1 21) (gReg w1 17) (gReg w1 13)) else none
  | 2 => if fld w1 5 4 = 3 then some (.bfi (gReg w1 21) (gReg w1 17) (gReg w1 13)) else none
  | 3 => if fld w1 5 4 = 3 then (fin4OfCode (fld w1 0 5)).bind fun s => some (.lea (gReg w1 21) (gReg w1 17) (gReg w1 13) s) else none
  | 4 => some (.addiA (gReg w1 21) (gReg w1 17) (BitVec.ofNat 17 (fld w1 0 17)))
  | 5 => some (.moviA (gReg w1 21) (BitVec.ofNat 17 (fld w1 0 17)))
  | 6 => some (.mulImm (gReg w1 21) (gReg w1 17) (BitVec.ofNat 17 (fld w1 0 17)))
  | _ => some (.andImm (gReg w1 21) (gReg w1 17) (BitVec.ofNat 17 (fld w1 0 17)))

/-- R81: the A space, opcodes 0x20 to 0x27. -/
def decA4 (op w0 w1 : Nat) : Option Instr :=
  match op with
  | 0 => some (.orImm (gReg w1 21) (gReg w1 17) (BitVec.ofNat 17 (fld w1 0 17)))
  | 1 => some (.xorImm (gReg w1 21) (gReg w1 17) (BitVec.ofNat 17 (fld w1 0 17)))
  | 2 => some (.shlImm (gReg w1 21) (gReg w1 17) (BitVec.ofNat 6 (fld w1 0 6)))
  | 3 => some (.shrImm (gReg w1 21) (gReg w1 17) (BitVec.ofNat 6 (fld w1 0 6)))
  | 4 => some (.sraImm (gReg w1 21) (gReg w1 17) (BitVec.ofNat 6 (fld w1 0 6)))
  | 5 => some (.rotlImm (gReg w1 21) (gReg w1 17) (BitVec.ofNat 6 (fld w1 0 6)))
  | 6 => some (.minImm (gReg w1 21) (gReg w1 17) (BitVec.ofNat 17 (fld w1 0 17)))
  | _ => some (.maxImm (gReg w1 21) (gReg w1 17) (BitVec.ofNat 17 (fld w1 0 17)))

/-- R81: the A space, opcodes 0x28 to 0x2F. -/
def decA5 (op w0 w1 : Nat) : Option Instr :=
  match op with
  | 0 => some (.minzImm (gReg w1 21) (gReg w1 17) (BitVec.ofNat 17 (fld w1 0 17)))
  | 1 => some (.maxzImm (gReg w1 21) (gReg w1 17) (BitVec.ofNat 17 (fld w1 0 17)))
  | 2 => some (.bfxImm (gReg w1 21) (gReg w1 17) (BitVec.ofNat 13 (fld w1 0 13)))
  | 3 => some (.bfiImm (gReg w1 21) (gReg w1 17) (BitVec.ofNat 13 (fld w1 0 13)))
  | 4 => some .udfa
  | 5 => some .udfa
  | 6 => some .udfa
  | _ => some .udfa

/-- R81: the A space, opcodes 0x30 to 0x37. -/
def decA6 (op w0 w1 : Nat) : Option Instr :=
  match op with
  | 0 => (Ty.ofCode (fld w1 5 4)).bind fun ty => some (.fadd (gReg w1 21) (gReg w1 17) (gReg w1 13) ty)
  | 1 => (Ty.ofCode (fld w1 5 4)).bind fun ty => some (.fsub (gReg w1 21) (gReg w1 17) (gReg w1 13) ty)
  | 2 => (Ty.ofCode (fld w1 5 4)).bind fun ty => some (.fmul (gReg w1 21) (gReg w1 17) (gReg w1 13) ty)
  | 3 => (Ty.ofCode (fld w1 5 4)).bind fun ty => some (.ffma (gReg w1 21) (gReg w1 17) (gReg w1 13) (gReg w1 9) ty)
  | 4 => (Ty.ofCode (fld w1 5 4)).bind fun ty => some (.fmin (gReg w1 21) (gReg w1 17) (gReg w1 13) ty)
  | 5 => (Ty.ofCode (fld w1 5 4)).bind fun ty => some (.fmax (gReg w1 21) (gReg w1 17) (gReg w1 13) ty)
  | 6 => if fld w1 0 5 = 0 then (Ty.ofCode (fld w1 5 4)).bind fun ty => some (.fsgn (gReg w1 21) (gReg w1 17) (gReg w1 13) ty) else if fld w1 0 5 = 1 then (Ty.ofCode (fld w1 5 4)).bind fun ty => some (.fsgnN (gReg w1 21) (gReg w1 17) (gReg w1 13) ty) else if fld w1 0 5 = 2 then (Ty.ofCode (fld w1 5 4)).bind fun ty => some (.fsgnX (gReg w1 21) (gReg w1 17) (gReg w1 13) ty) else none
  | _ => (Ty.ofCode (fld w1 5 4)).bind fun ty => (FCc.ofCode (fld w1 0 5)).bind fun cc => some (.fcmp (pReg w1 21) (gReg w1 17) (gReg w1 13) ty cc)

/-- R81: the A space, opcodes 0x38 to 0x3F. -/
def decA7 (op w0 w1 : Nat) : Option Instr :=
  match op with
  | 0 => (Ty.ofCode (fld w1 5 4)).bind fun ty => (Ty.ofCode (fld w1 0 4)).bind fun src => some (.fcvt (gReg w1 21) (gReg w1 17) ty (bitAt w1 4) src)
  | 1 => (Ty.ofCode (fld w1 5 4)).bind fun ty => (RMode.ofCode (fld w1 0 5)).bind fun md => some (.frint (gReg w1 21) (gReg w1 17) ty md)
  | 2 => if fld w1 5 4 = 8 then some (.fexp2f (gReg w1 21) (gReg w1 17)) else none
  | 3 => (Ty.ofCode (fld w1 5 4)).bind fun ty => some (.fscaleb (gReg w1 21) (gReg w1 17) (gReg w1 13) ty)
  | 4 => (Ty.ofCode (fld w1 5 4)).bind fun ty => some (.fclass (gReg w1 21) (gReg w1 17) ty)
  | 5 => (Ty.ofCode (fld w1 5 4)).bind fun ty => some (.frcp (gReg w1 21) (gReg w1 17) ty)
  | 6 => (Ty.ofCode (fld w1 5 4)).bind fun ty => some (.frsq (gReg w1 21) (gReg w1 17) ty)
  | _ => (Ty.ofCode (fld w1 5 4)).bind fun ty => some (.fsqrt (gReg w1 21) (gReg w1 17) ty)

/-- R81: the A space, opcodes 0x40 to 0x47. -/
def decA8 (op w0 w1 : Nat) : Option Instr :=
  match op with
  | 0 => (Ty.ofCode (fld w1 1 4)).bind fun ty => some (.vadd (gReg w1 21) (gReg w1 17) (gReg w1 13) (VMask.ofWord w1) ty (bitAt w1 0))
  | 1 => (Ty.ofCode (fld w1 1 4)).bind fun ty => some (.vsub (gReg w1 21) (gReg w1 17) (gReg w1 13) (VMask.ofWord w1) ty (bitAt w1 0))
  | 2 => (Ty.ofCode (fld w1 1 4)).bind fun ty => some (.vmul (gReg w1 21) (gReg w1 17) (gReg w1 13) (VMask.ofWord w1) ty)
  | 3 => (Ty.ofCode (fld w1 1 4)).bind fun ty => some (.vfma (gReg w1 21) (gReg w1 17) (gReg w1 13) (gReg w1 9) (VMask.ofWord w1) ty)
  | 4 => (Ty.ofCode (fld w1 1 4)).bind fun ty => some (.vmin (gReg w1 21) (gReg w1 17) (gReg w1 13) (VMask.ofWord w1) ty (bitAt w1 0))
  | 5 => (Ty.ofCode (fld w1 1 4)).bind fun ty => some (.vmax (gReg w1 21) (gReg w1 17) (gReg w1 13) (VMask.ofWord w1) ty (bitAt w1 0))
  | 6 => (Ty.ofCode (fld w1 1 4)).bind fun ty => some (.vand (gReg w1 21) (gReg w1 17) (gReg w1 13) (VMask.ofWord w1) ty)
  | _ => (Ty.ofCode (fld w1 1 4)).bind fun ty => some (.vor (gReg w1 21) (gReg w1 17) (gReg w1 13) (VMask.ofWord w1) ty)

/-- R81: the A space, opcodes 0x48 to 0x4F. -/
def decA9 (op w0 w1 : Nat) : Option Instr :=
  match op with
  | 0 => (Ty.ofCode (fld w1 1 4)).bind fun ty => some (.vxor (gReg w1 21) (gReg w1 17) (gReg w1 13) (VMask.ofWord w1) ty)
  | 1 => (Ty.ofCode (fld w1 1 4)).bind fun ty => some (.vshl (gReg w1 21) (gReg w1 17) (gReg w1 13) (VMask.ofWord w1) ty)
  | 2 => (Ty.ofCode (fld w1 1 4)).bind fun ty => some (.vshr (gReg w1 21) (gReg w1 17) (gReg w1 13) (VMask.ofWord w1) ty)
  | 3 => (Ty.ofCode (fld w1 1 4)).bind fun ty => some (.vsra (gReg w1 21) (gReg w1 17) (gReg w1 13) (VMask.ofWord w1) ty)
  | 4 => (FCc.ofCode (fld w1 9 4)).bind fun cc => (Ty.ofCode (fld w1 1 4)).bind fun ty => some (.vcmp (mReg w1 21) (gReg w1 17) (gReg w1 13) cc (VMask.ofWord w1) ty)
  | 5 => (Ty.ofCode (fld w1 1 4)).bind fun ty => some (.vsel (gReg w1 21) (gReg w1 17) (gReg w1 13) (mReg w1 9) (VMask.ofWord w1) ty)
  | 6 => (Ty.ofCode (fld w1 9 4)).bind fun src => (Ty.ofCode (fld w1 1 4)).bind fun ty => some (.vcvt (gReg w1 21) (gReg w1 17) src (VMask.ofWord w1) ty (bitAt w1 0))
  | _ => (RMode.ofCode (fld w1 9 4)).bind fun md => (Ty.ofCode (fld w1 1 4)).bind fun ty => some (.vrint (gReg w1 21) (gReg w1 17) md (VMask.ofWord w1) ty)

/-- R81: the A space, opcodes 0x50 to 0x57. -/
def decAA (op w0 w1 : Nat) : Option Instr :=
  match op with
  | 0 => if fld w1 1 4 = 8 then some (.vexp2f (gReg w1 21) (gReg w1 17) (VMask.ofWord w1)) else none
  | 1 => (Ty.ofCode (fld w1 1 4)).bind fun ty => some (.vscaleb (gReg w1 21) (gReg w1 17) (gReg w1 13) (VMask.ofWord w1) ty)
  | 2 => (Ty.ofCode (fld w1 1 4)).bind fun ty => some (.vperm (gReg w1 21) (gReg w1 17) (gReg w1 13) (gReg w1 9) (VMask.ofWord w1) ty (bitAt w1 0))
  | 3 => (Pattern.ofCode (fld w1 9 4)).bind fun pat => (Ty.ofCode (fld w1 1 4)).bind fun ty => some (.vpermi (gReg w1 21) (gReg w1 17) (gReg w1 13) pat (VMask.ofWord w1) ty)
  | 4 => (Ty.ofCode (fld w1 1 4)).bind fun ty => some (.vbcast (gReg w1 21) (gReg w1 13) (VMask.ofWord w1) ty)
  | 5 => (RedOp.ofCode (fld w1 9 4)).bind fun op => (Ty.ofCode (fld w1 1 4)).bind fun ty => some (.vred (gReg w1 21) (gReg w1 17) op (VMask.ofWord w1) ty)
  | 6 => (RedOp.ofCode (fld w1 9 4)).bind fun op => (Ty.ofCode (fld w1 1 4)).bind fun ty => some (.vscan (gReg w1 21) (gReg w1 17) op (VMask.ofWord w1) ty (bitAt w1 0))
  | _ => (Ty.ofCode (fld w1 1 4)).bind fun ty => some (.vpopc (gReg w1 21) (gReg w1 17) (VMask.ofWord w1) ty)

/-- R81: the A space, opcodes 0x58 to 0x5F. -/
def decAB (op w0 w1 : Nat) : Option Instr :=
  match op with
  | 0 => (Ty.ofCode (fld w1 1 4)).bind fun ty => some (.vbin (gReg w1 21) (gReg w1 17) (gReg w1 13) (VMask.ofWord w1) ty)
  | 1 => (Ty.ofCode (fld w1 1 4)).bind fun ty => some (.vext (gReg w1 21) (gReg w1 17) (gReg w1 13) ty)
  | 2 => (Ty.ofCode (fld w1 1 4)).bind fun ty => some (.vins (gReg w1 21) (gReg w1 17) (gReg w1 13) ty)
  | 3 => (Ty.ofCode (fld w1 9 4)).bind fun src => (Ty.ofCode (fld w1 1 4)).bind fun ty => some (.vnarrow (gReg w1 21) (gReg w1 17) (gReg w1 13) src (VMask.ofWord w1) ty (bitAt w1 0))
  | 4 => (Ty.ofCode (fld w1 9 4)).bind fun src => (Ty.ofCode (fld w1 1 4)).bind fun ty => some (.vwiden (gReg w1 21) (gReg w1 17) (bitAt w1 13) src (VMask.ofWord w1) ty)
  | 5 => (Ty.ofCode (fld w1 1 4)).bind fun ty => some (.vdot4 (gReg w1 21) (gReg w1 17) (gReg w1 13) (VMask.ofWord w1) ty)
  | 6 => (Ty.ofCode (fld w1 1 4)).bind fun ty => some (.vaddS (gReg w1 21) (gReg w1 17) (gReg w1 13) (VMask.ofWord w1) ty (bitAt w1 0))
  | _ => (Ty.ofCode (fld w1 1 4)).bind fun ty => some (.vsubS (gReg w1 21) (gReg w1 17) (gReg w1 13) (VMask.ofWord w1) ty (bitAt w1 0))

/-- R81: the A space, opcodes 0x60 to 0x67. -/
def decAC (op w0 w1 : Nat) : Option Instr :=
  match op with
  | 0 => (Ty.ofCode (fld w1 1 4)).bind fun ty => some (.vmulS (gReg w1 21) (gReg w1 17) (gReg w1 13) (VMask.ofWord w1) ty)
  | 1 => (Ty.ofCode (fld w1 1 4)).bind fun ty => some (.vfmaS (gReg w1 21) (gReg w1 17) (gReg w1 13) (gReg w1 9) (VMask.ofWord w1) ty)
  | 2 => (Ty.ofCode (fld w1 1 4)).bind fun ty => some (.vminS (gReg w1 21) (gReg w1 17) (gReg w1 13) (VMask.ofWord w1) ty (bitAt w1 0))
  | 3 => (Ty.ofCode (fld w1 1 4)).bind fun ty => some (.vmaxS (gReg w1 21) (gReg w1 17) (gReg w1 13) (VMask.ofWord w1) ty (bitAt w1 0))
  | 4 => (Ty.ofCode (fld w1 1 4)).bind fun ty => some (.vshlS (gReg w1 21) (gReg w1 17) (gReg w1 13) (VMask.ofWord w1) ty)
  | 5 => (Ty.ofCode (fld w1 1 4)).bind fun ty => some (.vshrS (gReg w1 21) (gReg w1 17) (gReg w1 13) (VMask.ofWord w1) ty)
  | 6 => (Ty.ofCode (fld w1 1 4)).bind fun ty => some (.vsraS (gReg w1 21) (gReg w1 17) (gReg w1 13) (VMask.ofWord w1) ty)
  | _ => some .udfa

/-- R81: the A space, opcodes 0x68 to 0x6F. -/
def decAD (op w0 w1 : Nat) : Option Instr :=
  match op with
  | 0 => some .udfa
  | 1 => some .udfa
  | 2 => some .udfa
  | 3 => some .udfa
  | 4 => some .udfa
  | 5 => some .udfa
  | 6 => some .udfa
  | _ => some .udfa

/-- R81: the A space, opcodes 0x70 to 0x77. -/
def decAE (op w0 w1 : Nat) : Option Instr :=
  match op with
  | 0 => some .udfa
  | 1 => some .udfa
  | 2 => some .udfa
  | 3 => some .udfa
  | 4 => some .udfa
  | 5 => some .udfa
  | 6 => some .udfa
  | _ => some .udfa

/-- R81: the A space, opcodes 0x78 to 0x7F. -/
def decAF (op w0 w1 : Nat) : Option Instr :=
  match op with
  | 0 => some .udfa
  | 1 => some .udfa
  | 2 => some .udfa
  | 3 => some .udfa
  | 4 => some .udfa
  | 5 => some .udfa
  | 6 => some (.udfa)
  | _ => some (.dxa (BitVec.ofNat 8 (fld w1 17 8)) (BitVec.ofNat 6 (fld w1 11 6)) (BitVec.ofNat 6 (fld w1 5 6)) (BitVec.ofNat 5 (fld w1 0 5)))

/-- R81: the A space: every opcode, before the checks of `Instr.wf`. -/
def decARaw (w0 w1 : Nat) : Option Instr :=
  let op := fld w1 25 7
  match op / 8 with
  | 0 => decA0 (op % 8) w0 w1
  | 1 => decA1 (op % 8) w0 w1
  | 2 => decA2 (op % 8) w0 w1
  | 3 => decA3 (op % 8) w0 w1
  | 4 => decA4 (op % 8) w0 w1
  | 5 => decA5 (op % 8) w0 w1
  | 6 => decA6 (op % 8) w0 w1
  | 7 => decA7 (op % 8) w0 w1
  | 8 => decA8 (op % 8) w0 w1
  | 9 => decA9 (op % 8) w0 w1
  | 10 => decAA (op % 8) w0 w1
  | 11 => decAB (op % 8) w0 w1
  | 12 => decAC (op % 8) w0 w1
  | 13 => decAD (op % 8) w0 w1
  | 14 => decAE (op % 8) w0 w1
  | _ => decAF (op % 8) w0 w1

/-- A decoded word that passes the checks of its entry; anything else is the illegal instruction of R57, row 3. -/
def keepWf : Option Instr → Option Instr
  | some i => if i.wf then some i else none
  | none => none

/-- The C instruction of a unit whose class check has passed. -/
def decodeC (w0 w1 : Nat) : Option Instr := keepWf (decCRaw w0 w1)
/-- The A instruction of a paired unit. -/
def decodeA (w1 : Nat) : Option Instr := keepWf (decARaw 0 w1)

/-- How a unit's words read (R52, R53). -/
inductive UnitRead where
  /-- A C opcode used against its class. -/
  | classFault
  /-- A lone C instruction, or an illegal one. -/
  | lone (c : Option Instr)
  /-- A pair: each slot's instruction, or an illegal one. -/
  | pair (c a : Option Instr)
  deriving DecidableEq, Repr

/-- The reading of a unit (R52, R53): L is bit 31 of word 0. -/
def readUnit (w0 w1 : Nat) : UnitRead :=
  let l := bitAt w0 31
  if loneC (fld w0 24 7) != l then .classFault
  else if l then .lone (decodeC w0 w1)
  else .pair (decodeC w0 w1) (decodeA w1)

/-- What the encoder makes of an instruction. -/
inductive EncParts where
  | c (lone : Bool) (w0 w1 : Nat)
  | a (w1 : Nat)
  /-- A step or command: it has no words. -/
  | none
  deriving DecidableEq, Repr

/-- The words of a C-slot instruction (word 0 without L, word 1), an A-slot instruction (word 1), or neither: the fields an
entry does not use are zero, as `svas` writes them (R60). -/
def encodeParts : Instr → EncParts
  | .nopC => .c false (0) (0)
  | .b d => .c false (16777216 + d.toNat) (0)
  | .bc p d => .c false (33554432 + p.val * 4194304 + d.toNat) (0)
  | .bnc p d => .c false (50331648 + p.val * 4194304 + d.toNat) (0)
  | .bok d => .c false (67108864 + d.toNat) (0)
  | .bfail d => .c false (83886080 + d.toNat) (0)
  | .call d => .c false (100663296 + d.toNat) (0)
  | .callReg a => .c false (117440512 + a.val * 65536) (0)
  | .j a => .c false (134217728 + a.val * 65536) (0)
  | .ret => .c false (150994944) (0)
  | .loop ri rb nb disp dist => .c true (167772160 + ri.val * 1048576 + rb.val * 65536 + nb.toNat * 8192 + disp.toNat) (dist.toNat)
  | .lend d => .c false (184549376 + d.toNat) (0)
  | .lendPop => .c false (184549376) (0)
  | .cmp d a b cc ty => .c false (201326592 + d.val * 1048576 + a.val * 65536 + b.val * 4096 + cc.code * 256 + ty.code * 16) (0)
  | .sel d a b q => .c false (218103808 + d.val * 1048576 + a.val * 65536 + b.val * 4096 + q.val * 4) (0)
  | .pset d a => .c false (234881024 + d.val * 1048576 + a.val * 65536) (0)
  | .psetAnd d a b => .c false (234881024 + d.val * 1048576 + a.val * 65536 + b.val * 4096 + 256) (0)
  | .psetOr d a b => .c false (234881024 + d.val * 1048576 + a.val * 65536 + b.val * 4096 + 512) (0)
  | .psetXor d a b => .c false (234881024 + d.val * 1048576 + a.val * 65536 + b.val * 4096 + 768) (0)
  | .psetNot d a => .c false (234881024 + d.val * 1048576 + a.val * 65536 + 1024) (0)
  | .ldi d lit => .c true (251658240 + d.val * 1048576) (lit.toNat)
  | .ldiHi d lit => .c true (268435456 + d.val * 1048576) (lit.toNat)
  | .addiC d a imm => .c false (285212672 + d.val * 1048576 + a.val * 65536 + imm.toNat) (0)
  | .moviC d imm => .c false (301989888 + d.val * 1048576 + imm.toNat) (0)
  | .getc d n => .c false (318767104 + d.val * 1048576 + n.toNat) (0)
  | .setc a n => .c false (335544320 + a.val * 65536 + n.toNat) (0)
  | .trap a n => .c false (352321536 + a.val * 65536 + n.toNat) (0)
  | .brk imm => .c false (369098752 + imm.toNat) (0)
  | .udf => .c false (385875968) (0)
  | .ldB t m => .c false (402653184 + t.val * 1048576 + m.bits) (0)
  | .ldH t m => .c false (419430400 + t.val * 1048576 + m.bits) (0)
  | .ldW t m => .c false (436207616 + t.val * 1048576 + m.bits) (0)
  | .ldD t m => .c false (452984832 + t.val * 1048576 + m.bits) (0)
  | .ldZb t m => .c false (469762048 + t.val * 1048576 + m.bits) (0)
  | .ldZh t m => .c false (486539264 + t.val * 1048576 + m.bits) (0)
  | .ldZw t m => .c false (503316480 + t.val * 1048576 + m.bits) (0)
  | .stB t m => .c false (520093696 + t.val * 1048576 + m.bits) (0)
  | .stH t m => .c false (536870912 + t.val * 1048576 + m.bits) (0)
  | .stW t m => .c false (553648128 + t.val * 1048576 + m.bits) (0)
  | .stD t m => .c false (570425344 + t.val * 1048576 + m.bits) (0)
  | .vld t m => .c false (587202560 + t.val * 1048576 + m.bits) (0)
  | .vst t m => .c false (603979776 + t.val * 1048576 + m.bits) (0)
  | .vldx d a b bu ty q => .c false (620756992 + d.val * 1048576 + a.val * 65536 + b.val * 4096 + bu.code * 256 + ty.code * 16 + q.val * 4) (0)
  | .vstx d a b bu ty q => .c false (637534208 + d.val * 1048576 + a.val * 65536 + b.val * 4096 + bu.code * 256 + ty.code * 16 + q.val * 4) (0)
  | .ldgB t m => .c false (654311424 + t.val * 1048576 + m.bits) (0)
  | .ldgH t m => .c false (671088640 + t.val * 1048576 + m.bits) (0)
  | .ldgW t m => .c false (687865856 + t.val * 1048576 + m.bits) (0)
  | .ldgD t m => .c false (704643072 + t.val * 1048576 + m.bits) (0)
  | .ldgZb t m => .c false (721420288 + t.val * 1048576 + m.bits) (0)
  | .ldgZh t m => .c false (738197504 + t.val * 1048576 + m.bits) (0)
  | .ldgZw t m => .c false (754974720 + t.val * 1048576 + m.bits) (0)
  | .stgB t m => .c false (771751936 + t.val * 1048576 + m.bits) (0)
  | .stgH t m => .c false (788529152 + t.val * 1048576 + m.bits) (0)
  | .stgW t m => .c false (805306368 + t.val * 1048576 + m.bits) (0)
  | .stgD t m => .c false (822083584 + t.val * 1048576 + m.bits) (0)
  | .amoAdd d a b ty sc ds => .c false (838860800 + d.val * 1048576 + a.val * 65536 + b.val * 4096 + ty.code * 16 + sc.code * 4 + ds.code) (0)
  | .amoMin d a b ty sc ds => .c false (855638016 + d.val * 1048576 + a.val * 65536 + b.val * 4096 + ty.code * 16 + sc.code * 4 + ds.code) (0)
  | .amoMax d a b ty sc ds => .c false (872415232 + d.val * 1048576 + a.val * 65536 + b.val * 4096 + ty.code * 16 + sc.code * 4 + ds.code) (0)
  | .amoAnd d a b ty sc ds => .c false (889192448 + d.val * 1048576 + a.val * 65536 + b.val * 4096 + ty.code * 16 + sc.code * 4 + ds.code) (0)
  | .amoOr d a b ty sc ds => .c false (905969664 + d.val * 1048576 + a.val * 65536 + b.val * 4096 + ty.code * 16 + sc.code * 4 + ds.code) (0)
  | .amoXor d a b ty sc ds => .c false (922746880 + d.val * 1048576 + a.val * 65536 + b.val * 4096 + ty.code * 16 + sc.code * 4 + ds.code) (0)
  | .amoSwap d a b ty sc ds => .c false (939524096 + d.val * 1048576 + a.val * 65536 + b.val * 4096 + ty.code * 16 + sc.code * 4 + ds.code) (0)
  | .amoCas d a b ty sc ds => .c false (956301312 + d.val * 1048576 + a.val * 65536 + b.val * 4096 + ty.code * 16 + sc.code * 4 + ds.code) (0)
  | .fence d sc ds => .c false (973078528 + d.val * 1048576 + sc.code * 4 + ds.code) (0)
  | .cp f => .c true (989855744 + f.word0) (f.word1)
  | .cpDeal f => .c true (1006632960 + f.word0) (f.word1)
  | .cpGath f => .c true (1023410176 + f.word0) (f.word1)
  | .cpRot f => .c true (1040187392 + f.word0) (f.word1)
  | .collRed f op ty => .c true (1056964608 + f.word0 + op.code * 256 + ty.code * 16) (f.word1)
  | .collGath f => .c true (1073741824 + f.word0) (f.word1)
  | .barInit t o count attach => .c true (1090519040 + t.val * 1048576 + o.bits) (count.toNat + attach.toNat * 2147483648)
  | .barExpect t o bytes => .c true (1107296256 + t.val * 1048576 + o.bits) (bytes.toNat)
  | .barArrive t o => .c false (1124073472 + t.val * 1048576 + o.bits) (0)
  | .barWait t o => .c false (1140850688 + t.val * 1048576 + o.bits) (0)
  | .barSync t o => .c false (1157627904 + t.val * 1048576 + o.bits) (0)
  | .barAbort o => .c false (1174405120 + o.bits) (0)
  | .send rc rs ds len tag => .c true (1191182336 + rc.val * 1048576 + rs.val * 65536 + ds.code * 16384 + len.toNat * 256) (tag.toNat)
  | .recv d a b ds => .c false (1207959552 + d.val * 1048576 + a.val * 65536 + b.val * 4096 + ds.code) (0)
  | .poll d b => .c false (1224736768 + d.val * 1048576 + b.val * 4096) (0)
  | .deleg rc ra rr ds nte ctag => .c true (1241513984 + rc.val * 1048576 + ra.val * 65536 + rr.val * 4096 + ds.code * 1024 + nte.toNat * 512 + ctag.toNat) (0)
  | .delegOn ds => .c true (1241513984 + ds.code * 1024) (1073741824)
  | .delegOff => .c true (1241513984) (2147483648)
  | .home d a b ds => .c false (1258291200 + d.val * 1048576 + a.val * 65536 + b.val * 4096 + ds.code) (0)
  | .fork d => .c false (1275068416 + d.toNat) (0)
  | .join ds => .c false (1291845632 + ds.code) (0)
  | .done => .c false (1308622848) (0)
  | .yield ds => .c false (1325400064 + ds.code) (0)
  | .irrev ds => .c false (1342177280 + ds.code) (0)
  | .migrate a ds => .c false (1358954496 + a.val * 65536 + ds.code) (0)
  | .gang d a ds => .c false (1375731712 + d.val * 1048576 + a.val * 65536 + ds.code) (0)
  | .rejoin d ds => .c false (1392508928 + d.val * 1048576 + ds.code) (0)
  | .nodeNew d a t ds count => .c true (1409286144 + d.val * 1048576 + a.val * 65536 + t.val * 4096 + ds.code * 1024) (count.toNat)
  | .nodeDec a ds => .c false (1426063360 + a.val * 65536 + ds.code) (0)
  | .tagEn a => .c false (1442840576 + a.val * 65536) (0)
  | .tagDis a => .c false (1442840576 + a.val * 65536 + 256) (0)
  | .tagPend d a => .c false (1442840576 + d.val * 1048576 + a.val * 65536 + 512) (0)
  | .tagClr d a => .c false (1442840576 + d.val * 1048576 + a.val * 65536 + 768) (0)
  | .lnew d e rp pm cl em adopt => .c true (1459617792 + d.val * 1048576 + e.val * 65536 + rp.val * 4096 + pm.code * 1024 + cl.toNat * 256) (em.code * 1073741824 + adopt.toNat * 536870912)
  | .lext d a b => .c false (1476395008 + d.val * 1048576 + a.val * 65536 + b.val * 4096) (0)
  | .lannul a => .c false (1493172224 + a.val * 65536) (0)
  | .mma f kt => .c true (1509949440 + f.word0) (f.word1 + kt.toNat * 33554432)
  | .mzero a ds => .c false (1526726656 + a.val * 65536 + ds.code) (0)
  | .mdrain f dty sat => .c true (1543503872 + f.word0) (f.word1 + dty.code * 268435456 + sat.toNat * 134217728)
  | .hlease ds => .c false (1560281088 + ds.code) (0)
  | .hrelease => .c false (1577058304) (0)
  | .hldw f org stg => .c true (1593835520 + f.word0) (f.word1 + org.code * 1073741824 + stg.toNat * 536870912)
  | .hswap ds => .c false (1610612736 + ds.code) (0)
  | .hstream f org m1 acc0 za => .c true (1627389952 + f.word0) (f.word1 + org.code * 1073741824 + m1.toNat * 16777216 + acc0.toNat * 262144 + za.toNat * 131072)
  | .hdrain f dest n1 acc0 z => .c true (1644167168 + f.word0) (f.word1 + dest.code * 1073741824 + n1.toNat * 16777216 + acc0.toNat * 262144 + z.toNat * 131072)
  | .hsave f loc n1 acc0 => .c true (1660944384 + f.word0) (f.word1 + loc.code * 1073741824 + n1.toNat * 16777216 + acc0.toNat * 262144)
  | .hrestore f loc n1 acc0 => .c true (1677721600 + f.word0) (f.word1 + loc.code * 1073741824 + n1.toNat * 16777216 + acc0.toNat * 262144)
  | .boost875 d ds => .c false (1694498816 + d.val * 1048576 + ds.code) (0)
  | .boost1050 d ds => .c false (1694498816 + d.val * 1048576 + ds.code + 256) (0)
  | .boostOff d => .c false (1694498816 + d.val * 1048576 + 512) (0)
  | .dload t m => .c false (1811939328 + t.val * 1048576 + m.bits) (0)
  | .dset a => .c false (1828716544 + a.val * 65536) (0)
  | .dfence => .c false (1828716544 + 256) (0)
  | .dx idx h0 h1 h2 => .c false (2130706432 + idx.toNat * 65536 + h0.toNat * 1024 + h1.toNat * 16 + h2.toNat) (0)
  | .nopA => .a (0)
  | .add d a b ty => .a (33554432 + d.val * 2097152 + a.val * 131072 + b.val * 8192 + ty.code * 32)
  | .sub d a b ty => .a (67108864 + d.val * 2097152 + a.val * 131072 + b.val * 8192 + ty.code * 32)
  | .mul d a b ty => .a (100663296 + d.val * 2097152 + a.val * 131072 + b.val * 8192 + ty.code * 32)
  | .mulh d a b ty => .a (134217728 + d.val * 2097152 + a.val * 131072 + b.val * 8192 + ty.code * 32)
  | .mulhz d a b ty => .a (167772160 + d.val * 2097152 + a.val * 131072 + b.val * 8192 + ty.code * 32)
  | .div d a b ty => .a (201326592 + d.val * 2097152 + a.val * 131072 + b.val * 8192 + ty.code * 32)
  | .divz d a b ty => .a (234881024 + d.val * 2097152 + a.val * 131072 + b.val * 8192 + ty.code * 32)
  | .rem d a b ty => .a (268435456 + d.val * 2097152 + a.val * 131072 + b.val * 8192 + ty.code * 32)
  | .remz d a b ty => .a (301989888 + d.val * 2097152 + a.val * 131072 + b.val * 8192 + ty.code * 32)
  | .and d a b ty => .a (335544320 + d.val * 2097152 + a.val * 131072 + b.val * 8192 + ty.code * 32)
  | .or d a b ty => .a (369098752 + d.val * 2097152 + a.val * 131072 + b.val * 8192 + ty.code * 32)
  | .xor d a b ty => .a (402653184 + d.val * 2097152 + a.val * 131072 + b.val * 8192 + ty.code * 32)
  | .andn d a b ty => .a (436207616 + d.val * 2097152 + a.val * 131072 + b.val * 8192 + ty.code * 32)
  | .shl d a b ty => .a (469762048 + d.val * 2097152 + a.val * 131072 + b.val * 8192 + ty.code * 32)
  | .shr d a b ty => .a (503316480 + d.val * 2097152 + a.val * 131072 + b.val * 8192 + ty.code * 32)
  | .sra d a b ty => .a (536870912 + d.val * 2097152 + a.val * 131072 + b.val * 8192 + ty.code * 32)
  | .rotl d a b ty => .a (570425344 + d.val * 2097152 + a.val * 131072 + b.val * 8192 + ty.code * 32)
  | .clz d a ty => .a (603979776 + d.val * 2097152 + a.val * 131072 + ty.code * 32)
  | .ctz d a ty => .a (637534208 + d.val * 2097152 + a.val * 131072 + ty.code * 32)
  | .popc d a ty => .a (671088640 + d.val * 2097152 + a.val * 131072 + ty.code * 32)
  | .min d a b ty => .a (704643072 + d.val * 2097152 + a.val * 131072 + b.val * 8192 + ty.code * 32)
  | .max d a b ty => .a (738197504 + d.val * 2097152 + a.val * 131072 + b.val * 8192 + ty.code * 32)
  | .minz d a b ty => .a (771751936 + d.val * 2097152 + a.val * 131072 + b.val * 8192 + ty.code * 32)
  | .maxz d a b ty => .a (805306368 + d.val * 2097152 + a.val * 131072 + b.val * 8192 + ty.code * 32)
  | .bfx d a b => .a (838860800 + d.val * 2097152 + a.val * 131072 + b.val * 8192 + 96)
  | .bfi d a b => .a (872415232 + d.val * 2097152 + a.val * 131072 + b.val * 8192 + 96)
  | .lea d a b s => .a (905969664 + d.val * 2097152 + a.val * 131072 + b.val * 8192 + s.val + 96)
  | .addiA d a imm => .a (939524096 + d.val * 2097152 + a.val * 131072 + imm.toNat)
  | .moviA d imm => .a (973078528 + d.val * 2097152 + imm.toNat)
  | .mulImm d a imm => .a (1006632960 + d.val * 2097152 + a.val * 131072 + imm.toNat)
  | .andImm d a imm => .a (1040187392 + d.val * 2097152 + a.val * 131072 + imm.toNat)
  | .orImm d a imm => .a (1073741824 + d.val * 2097152 + a.val * 131072 + imm.toNat)
  | .xorImm d a imm => .a (1107296256 + d.val * 2097152 + a.val * 131072 + imm.toNat)
  | .shlImm d a k => .a (1140850688 + d.val * 2097152 + a.val * 131072 + k.toNat)
  | .shrImm d a k => .a (1174405120 + d.val * 2097152 + a.val * 131072 + k.toNat)
  | .sraImm d a k => .a (1207959552 + d.val * 2097152 + a.val * 131072 + k.toNat)
  | .rotlImm d a k => .a (1241513984 + d.val * 2097152 + a.val * 131072 + k.toNat)
  | .minImm d a imm => .a (1275068416 + d.val * 2097152 + a.val * 131072 + imm.toNat)
  | .maxImm d a imm => .a (1308622848 + d.val * 2097152 + a.val * 131072 + imm.toNat)
  | .minzImm d a imm => .a (1342177280 + d.val * 2097152 + a.val * 131072 + imm.toNat)
  | .maxzImm d a imm => .a (1375731712 + d.val * 2097152 + a.val * 131072 + imm.toNat)
  | .bfxImm d a desc => .a (1409286144 + d.val * 2097152 + a.val * 131072 + desc.toNat)
  | .bfiImm d a desc => .a (1442840576 + d.val * 2097152 + a.val * 131072 + desc.toNat)
  | .fadd d a b ty => .a (1610612736 + d.val * 2097152 + a.val * 131072 + b.val * 8192 + ty.code * 32)
  | .fsub d a b ty => .a (1644167168 + d.val * 2097152 + a.val * 131072 + b.val * 8192 + ty.code * 32)
  | .fmul d a b ty => .a (1677721600 + d.val * 2097152 + a.val * 131072 + b.val * 8192 + ty.code * 32)
  | .ffma d a b c ty => .a (1711276032 + d.val * 2097152 + a.val * 131072 + b.val * 8192 + c.val * 512 + ty.code * 32)
  | .fmin d a b ty => .a (1744830464 + d.val * 2097152 + a.val * 131072 + b.val * 8192 + ty.code * 32)
  | .fmax d a b ty => .a (1778384896 + d.val * 2097152 + a.val * 131072 + b.val * 8192 + ty.code * 32)
  | .fsgn d a b ty => .a (1811939328 + d.val * 2097152 + a.val * 131072 + b.val * 8192 + ty.code * 32)
  | .fsgnN d a b ty => .a (1811939328 + d.val * 2097152 + a.val * 131072 + b.val * 8192 + ty.code * 32 + 1)
  | .fsgnX d a b ty => .a (1811939328 + d.val * 2097152 + a.val * 131072 + b.val * 8192 + ty.code * 32 + 2)
  | .fcmp d a b ty cc => .a (1845493760 + d.val * 2097152 + a.val * 131072 + b.val * 8192 + ty.code * 32 + cc.code)
  | .fcvt d a ty sat src => .a (1879048192 + d.val * 2097152 + a.val * 131072 + ty.code * 32 + sat.toNat * 16 + src.code)
  | .frint d a ty md => .a (1912602624 + d.val * 2097152 + a.val * 131072 + ty.code * 32 + md.code)
  | .fexp2f d a => .a (1946157056 + d.val * 2097152 + a.val * 131072 + 256)
  | .fscaleb d a b ty => .a (1979711488 + d.val * 2097152 + a.val * 131072 + b.val * 8192 + ty.code * 32)
  | .fclass d a ty => .a (2013265920 + d.val * 2097152 + a.val * 131072 + ty.code * 32)
  | .frcp d a ty => .a (2046820352 + d.val * 2097152 + a.val * 131072 + ty.code * 32)
  | .frsq d a ty => .a (2080374784 + d.val * 2097152 + a.val * 131072 + ty.code * 32)
  | .fsqrt d a ty => .a (2113929216 + d.val * 2097152 + a.val * 131072 + ty.code * 32)
  | .vadd d a b k ty fn => .a (2147483648 + d.val * 2097152 + a.val * 131072 + b.val * 8192 + k.bits + ty.code * 2 + fn.toNat)
  | .vsub d a b k ty fn => .a (2181038080 + d.val * 2097152 + a.val * 131072 + b.val * 8192 + k.bits + ty.code * 2 + fn.toNat)
  | .vmul d a b k ty => .a (2214592512 + d.val * 2097152 + a.val * 131072 + b.val * 8192 + k.bits + ty.code * 2)
  | .vfma d a b c k ty => .a (2248146944 + d.val * 2097152 + a.val * 131072 + b.val * 8192 + c.val * 512 + k.bits + ty.code * 2)
  | .vmin d a b k ty fn => .a (2281701376 + d.val * 2097152 + a.val * 131072 + b.val * 8192 + k.bits + ty.code * 2 + fn.toNat)
  | .vmax d a b k ty fn => .a (2315255808 + d.val * 2097152 + a.val * 131072 + b.val * 8192 + k.bits + ty.code * 2 + fn.toNat)
  | .vand d a b k ty => .a (2348810240 + d.val * 2097152 + a.val * 131072 + b.val * 8192 + k.bits + ty.code * 2)
  | .vor d a b k ty => .a (2382364672 + d.val * 2097152 + a.val * 131072 + b.val * 8192 + k.bits + ty.code * 2)
  | .vxor d a b k ty => .a (2415919104 + d.val * 2097152 + a.val * 131072 + b.val * 8192 + k.bits + ty.code * 2)
  | .vshl d a b k ty => .a (2449473536 + d.val * 2097152 + a.val * 131072 + b.val * 8192 + k.bits + ty.code * 2)
  | .vshr d a b k ty => .a (2483027968 + d.val * 2097152 + a.val * 131072 + b.val * 8192 + k.bits + ty.code * 2)
  | .vsra d a b k ty => .a (2516582400 + d.val * 2097152 + a.val * 131072 + b.val * 8192 + k.bits + ty.code * 2)
  | .vcmp d a b cc k ty => .a (2550136832 + d.val * 2097152 + a.val * 131072 + b.val * 8192 + cc.code * 512 + k.bits + ty.code * 2)
  | .vsel d a b c k ty => .a (2583691264 + d.val * 2097152 + a.val * 131072 + b.val * 8192 + c.val * 512 + k.bits + ty.code * 2)
  | .vcvt d a src k ty fn => .a (2617245696 + d.val * 2097152 + a.val * 131072 + src.code * 512 + k.bits + ty.code * 2 + fn.toNat)
  | .vrint d a md k ty => .a (2650800128 + d.val * 2097152 + a.val * 131072 + md.code * 512 + k.bits + ty.code * 2)
  | .vexp2f d a k => .a (2684354560 + d.val * 2097152 + a.val * 131072 + k.bits + 16)
  | .vscaleb d a b k ty => .a (2717908992 + d.val * 2097152 + a.val * 131072 + b.val * 8192 + k.bits + ty.code * 2)
  | .vperm d a b c k ty fn => .a (2751463424 + d.val * 2097152 + a.val * 131072 + b.val * 8192 + c.val * 512 + k.bits + ty.code * 2 + fn.toNat)
  | .vpermi d a b pat k ty => .a (2785017856 + d.val * 2097152 + a.val * 131072 + b.val * 8192 + pat.code * 512 + k.bits + ty.code * 2)
  | .vbcast d b k ty => .a (2818572288 + d.val * 2097152 + b.val * 8192 + k.bits + ty.code * 2)
  | .vred d a op k ty => .a (2852126720 + d.val * 2097152 + a.val * 131072 + op.code * 512 + k.bits + ty.code * 2)
  | .vscan d a op k ty fn => .a (2885681152 + d.val * 2097152 + a.val * 131072 + op.code * 512 + k.bits + ty.code * 2 + fn.toNat)
  | .vpopc d a k ty => .a (2919235584 + d.val * 2097152 + a.val * 131072 + k.bits + ty.code * 2)
  | .vbin d a b k ty => .a (2952790016 + d.val * 2097152 + a.val * 131072 + b.val * 8192 + k.bits + ty.code * 2)
  | .vext d a b ty => .a (2986344448 + d.val * 2097152 + a.val * 131072 + b.val * 8192 + ty.code * 2)
  | .vins d a b ty => .a (3019898880 + d.val * 2097152 + a.val * 131072 + b.val * 8192 + ty.code * 2)
  | .vnarrow d a b src k ty fn => .a (3053453312 + d.val * 2097152 + a.val * 131072 + b.val * 8192 + src.code * 512 + k.bits + ty.code * 2 + fn.toNat)
  | .vwiden d a h src k ty => .a (3087007744 + d.val * 2097152 + a.val * 131072 + h.toNat * 8192 + src.code * 512 + k.bits + ty.code * 2)
  | .vdot4 d a b k ty => .a (3120562176 + d.val * 2097152 + a.val * 131072 + b.val * 8192 + k.bits + ty.code * 2)
  | .vaddS d a b k ty fn => .a (3154116608 + d.val * 2097152 + a.val * 131072 + b.val * 8192 + k.bits + ty.code * 2 + fn.toNat)
  | .vsubS d a b k ty fn => .a (3187671040 + d.val * 2097152 + a.val * 131072 + b.val * 8192 + k.bits + ty.code * 2 + fn.toNat)
  | .vmulS d a b k ty => .a (3221225472 + d.val * 2097152 + a.val * 131072 + b.val * 8192 + k.bits + ty.code * 2)
  | .vfmaS d a b c k ty => .a (3254779904 + d.val * 2097152 + a.val * 131072 + b.val * 8192 + c.val * 512 + k.bits + ty.code * 2)
  | .vminS d a b k ty fn => .a (3288334336 + d.val * 2097152 + a.val * 131072 + b.val * 8192 + k.bits + ty.code * 2 + fn.toNat)
  | .vmaxS d a b k ty fn => .a (3321888768 + d.val * 2097152 + a.val * 131072 + b.val * 8192 + k.bits + ty.code * 2 + fn.toNat)
  | .vshlS d a b k ty => .a (3355443200 + d.val * 2097152 + a.val * 131072 + b.val * 8192 + k.bits + ty.code * 2)
  | .vshrS d a b k ty => .a (3388997632 + d.val * 2097152 + a.val * 131072 + b.val * 8192 + k.bits + ty.code * 2)
  | .vsraS d a b k ty => .a (3422552064 + d.val * 2097152 + a.val * 131072 + b.val * 8192 + k.bits + ty.code * 2)
  | .udfa => .a (4227858432)
  | .dxa idx h0 h1 h2 => .a (4261412864 + idx.toNat * 131072 + h0.toNat * 2048 + h1.toNat * 32 + h2.toNat)
  | .apply .. => .none
  | .ship .. => .none
  | .arrive .. => .none
  | .confirm .. => .none
  | .linkLoss .. => .none
  | .atomic .. => .none
  | .directSend .. => .none
  | .commit .. => .none
  | .lineageExpiry .. => .none
  | .taskStart .. => .none
  | .steal .. => .none
  | .deadlineStep .. => .none
  | .budgetOverrun .. => .none
  | .parkTimeExpiry .. => .none
  | .replayTimer .. => .none
  | .timingError .. => .none
  | .stepdownExpiry .. => .none
  | .harpStepdownExpiry .. => .none
  | .uncorrectableData .. => .none
  | .copyDeliver .. => .none
  | .copyComplete .. => .none
  | .copyFault .. => .none
  | .engineCompletion .. => .none
  | .cmuComplete .. => .none
  | .hstreamRow .. => .none
  | .harpSwap .. => .none
  | .harpComplete .. => .none
  | .harpGrant .. => .none
  | .leaseLimit .. => .none
  | .collectiveRun .. => .none
  | .barrierStep .. => .none
  | .nodeStep .. => .none
  | .nodePlace .. => .none
  | .migrationArrive .. => .none
  | .portRelease .. => .none
  | .annulNotice .. => .none
  | .resetNotice .. => .none
  | .resetAck .. => .none
  | .resetTimeout .. => .none
  | .absenceToken .. => .none
  | .tokenRemoval .. => .none
  | .suspendNotice .. => .none
  | .resumeNotice .. => .none
  | .peerDead .. => .none
  | .intervalEnd .. => .none
  | .boostGrant .. => .none
  | .clockRise .. => .none
  | .droop .. => .none
  | .thermalMigration .. => .none
  | .coreMapOut .. => .none
  | .harpRowRemap .. => .none
  | .laneRetire .. => .none
  | .firewallDrop .. => .none
  | .monitorSample .. => .none
  | .monitorEpoch .. => .none
  | .ptpMeasurement .. => .none
  | .ptpHold => .none
  | .ptpFirstTimeout => .none
  | .deviceReset .. => .none
  | .ctxNew .. => .none
  | .ctxDel .. => .none
  | .peers .. => .none
  | .switch .. => .none
  | .mapq .. => .none
  | .unmapq .. => .none
  | .kick .. => .none
  | .reload .. => .none
  | .hread .. => .none
  | .quote .. => .none
  | .qcert => .none
  | .slotWrite .. => .none
  | .queueScan .. => .none
  | .noOp .. => .none
  | .submit .. => .none
  | .submitRecord .. => .none
  | .annul .. => .none
  | .queueReset .. => .none
  | .eventWrite .. => .none
  | .kload .. => .none
  | .kernelDone .. => .none
  | .invalidate .. => .none
  | .shareWrite .. => .none
  | .invalidationDone .. => .none
  | .energyLoRead .. => .none
  | .registerWrite .. => .none
  | .dispNone .. => .none
  | .dispResume .. => .none
  | .dispContinue .. => .none
  | .dispKill .. => .none
  | .dispMapped .. => .none
  | .dispPark .. => .none
  | .dispReload .. => .none
  | .dbgClaim .. => .none
  | .dbgRel .. => .none
  | .dbgHalt .. => .none
  | .dbgRun .. => .none
  | .dbgStep .. => .none
  | .dbgRd .. => .none
  | .dbgWr .. => .none
  | .stepReply .. => .none
  | .memoryRemap .. => .none
  | .droopEnd .. => .none
  | .energyCount .. => .none
  | .hostWrite .. => .none
  | .frameOwner .. => .none
  | .rangeRead .. => .none
  | .heldExpiry .. => .none
  | .correctedError => .none

/-- The unit of one instruction, word 0 first: a lone C instruction with L = 1, a C instruction paired with `nop`, or an A
instruction paired with `nop` (R22, R52). A step or command has no words. -/
def encode (i : Instr) : List Nat :=
  match encodeParts i with
  | .c true w0 w1 => [2147483648 + w0, w1]
  | .c false w0 _ => [w0, 0]
  | .a w1 => [0, w1]
  | .none => []

/-- The instruction of a unit that `encode` makes. -/
def decodeUnit (w0 w1 : Nat) : Option Instr :=
  match readUnit w0 w1 with
  | .lone c => c
  | .pair (some .nopC) a => a
  | .pair c (some .nopA) => c
  | _ => Option.none

/-- Whether an opcode-table word of 32 bits stands for an A-slot word: its bit 31 is 1, or it reads as no C instruction of its
own (a lone opcode, or a further value of `udf`, R83). -/
def tableWordIsA (w : Nat) : Bool :=
  bitAt w 31 || loneC (fld w 24 7)
    || (decCRaw w 0 == some .udf && fld w 24 7 != 0x17)
    || (decodeC w 0).isNone

/-- The words of a table word: a 64-bit value is a whole lone unit, word 0 in the low half; a 32-bit value is a C word beside
an A-slot `nop`, or an A word beside a C-slot `nop`. -/
def tableUnit (nbits w : Nat) : Nat × Nat :=
  if 32 < nbits then (w % 4294967296, w / 4294967296 % 4294967296)
  else if tableWordIsA w && !(bitAt w 31 && loneC (fld w 24 7) && (decodeA w).isNone) then (0, w % 4294967296)
  else (w % 4294967296, 0)

/-- The instruction read from a table word. -/
def decodeTableWord (nbits w : Nat) : Option Instr :=
  let u := tableUnit nbits w
  decodeUnit u.1 u.2

end Sys2Proof
end

