-- ==== Sys2Proof/Config.lean ====
section
/-! DEFINITION. What one Zarcel fixes for itself and what the manual leaves free. Every `opaque` constant below is a
free value: it has no body, so a claim holds whatever it is (log entry 3, and the entry each docstring names). -/

namespace Sys2Proof.Config

/-- Nanoseconds that pass on INSTANT at the n-th step (R241, R246 bound steps and do not fix them). Log 3. -/
opaque elapsed : Nat → Nat
/-- Cycles of a core's own clock that the n-th step counts against BUDGET there (R252). Log 3. -/
opaque cycles : Nat → Nat → Nat
/-- Which enabled step is taken when the agenda is empty (R191). Log 4. -/
opaque pick : Nat → Nat
/-- The bytes of a save image whose places R291 does not give. Log 30. -/
opaque imageByte : Nat → Nat → BitVec 8
/-- The fused security counter FSEC before the first boot (R383). Log 40. -/
opaque fusedSecurity : BitVec 32
/-- The fused serial number (R384). Log 40. -/
opaque serial : BitVec 64
/-- The public key in the boot ROM, a point of P-521 (R381). Log 40. -/
opaque bootKey : Nat × Nat
/-- How many bytes more than a trailer a firmware slot of the store holds (R380, R381). Log 120. -/
opaque fwSlotExtra : Nat
/-- What the operator fused into CFGKEY: the SHA-512 digest of a public key; none while it is unfused (R382). Log 40. -/
opaque cfgKey : Option (BitVec 512)
/-- The operator's public key (R382). Log 40. -/
opaque operatorKey : Nat × Nat
/-- The bytes of a public key, of which CFGKEY holds the digest: R382 gives no layout. Log 40. -/
opaque keyBytes : Nat × Nat → List (BitVec 8)
/-- The ECDSA P-521 signature of the device key on a digest (R386), 132 bytes as one number. Log 40. -/
opaque deviceSign : BitVec 512 → BitVec 1056
/-- The certificate of the device key (R386). Log 40. -/
opaque certificate : List (BitVec 8)

/-- Which of the cached translations of its page an access at the n-th step uses, the tables where it names none (R286). Log 7. -/
opaque tlbUse : Nat → Nat
/-- Whether a switch-out that a task holds up is forced at the n-th step: the supervisor's choice (R251). Log 83. -/
opaque forcesPark : Nat → Bool
/-- The byte a peer's memory holds at the n-th step (R193): the peer's memory is no part of this chip. Log 8. -/
opaque peerByte : Nat → Nat → Nat → BitVec 8
/-- Whether a peer refuses a load at the n-th step (R205). Log 8. -/
opaque peerRefuses : Nat → Bool
/-- Whether a home slice holds a granule in its SRAM at the n-th step (R205, `poll`). Log 9. -/
opaque sliceHolds : Nat → Nat → Bool
/-- DETAIL of a collective accepted at the n-th step where the queue is a peer's, or where there is none (R229). Log 18. -/
opaque collSeq : Nat → BitVec 32
/-- How a collective whose object is a peer's ends at the n-th step: it runs, its members disagree, or it is aborted (R229). Log 19. -/
opaque collOutcome : Nat → Fin 3
/-- What a message's payload holds above its LEN bytes (R39). Log 20. -/
opaque messagePad : Nat → BitVec 384

end Sys2Proof.Config
end

