-- ==== Sys2Proof/Machine/State.lean ====
section
/-! DEFINITION. The state of one Zarcel, the reasons a step can stop, and the state after reset. Every piece of state the
manual names has a field; what the model adds for itself says so and names its log entry. Cores are keyed by physical
number (R11), 0 to 8,191; what a context left at logical core n when it was switched out of it (R291) stands under 8,192 × (context + 1) + n.
A core, cluster, course, die or context that no entry lists stands at its reset value. -/

namespace Sys2Proof.Machine

/-- Data by number: strictly rising keys, at most one entry each. -/
abbrev Tab (α : Type) := List (Nat × α)

/-- Bytes by address in one canonical form: strictly rising addresses and no zero byte, since an address that no entry lists
reads 0 (log 2). -/
abbrev Memory := List Host.Cell

/-- A 64-byte task record (R30) as one little-endian number. -/
abbrev Rec := BitVec 512
/-- A message or completion: 16-byte header and 48 bytes of payload (R39), as one little-endian number. -/
abbrev Msg := BitVec 512

/-- An allocation register and the descriptor's SIZE that limits it (R99). -/
structure Alloc where
  base : BitVec 10
  size : BitVec 16
  max : BitVec 16
  deriving DecidableEq, Repr

/-- A loop-stack entry (R95). -/
structure LoopEntry where
  rem : BitVec 32
  step : Word
  ri : Fin 16
  deriving DecidableEq, Repr

/-- The thread-owned state of R35 with the loop stack of R95. `tid` is the model's number of the thread or inline child,
which its children name as spawn parent (log 6). -/
structure Thread where
  g : Vector Word 16
  pc : Word
  p : Vector Bool 4
  dla : Word
  dlb : Word
  ws : Word
  waitcap : Word
  rmode : BitVec 2
  fflags : BitVec 5
  lid : BitVec 20
  tstamp : Word
  priv : BitVec 2
  remain : BitVec 32
  stealdom : BitVec 2
  inldepth : BitVec 4
  bufW : Alloc
  bufA : Alloc
  bufC : Alloc
  loops : List LoopEntry
  children : Nat
  parent : Option Nat
  tid : Nat
  deriving DecidableEq, Repr

/-- A dictionary entry as R69 lays it out: TEMPLATE and DESC. -/
structure DictEntry where
  template : Word
  desc : BitVec 32
  deriving DecidableEq, Repr

/-- One bank of the dictionary store (R68): its handle and its entries; an entry not listed is invalid. -/
structure Bank where
  handle : BitVec 32
  entries : Tab DictEntry
  deriving DecidableEq, Repr

/-- The dictionary store of a slot (R68): two banks and the active choice (`true` is bank 1). -/
structure Dict where
  bank0 : Bank
  bank1 : Bank
  active : Bool
  deriving DecidableEq, Repr

/-- A 64-byte granule: of this chip (`none`) or of a peer index, by PA[51:6] (R190, R203). -/
structure Gran where
  peer : Option Nat
  num : Nat
  deriving DecidableEq, Repr

/-- Where a message goes (R230): a physical core of this chip, or a logical core of a peer. -/
inductive MsgTarget where
  | localCore (c : Nat)
  | peerCore (peer : Nat) (core : BitVec 13)
  deriving DecidableEq, Repr

/-- An atomic that has left its core (R207, R208): opcode less 0x32, type, address, operand and compare value; 8 is the gate of
`cp.rot`, which takes one from a count above zero (R218). -/
structure AmoReq where
  op : Fin 9
  ty : Ty
  scope : Scope
  pa : Nat
  b : Word
  cmp : Word
  deriving DecidableEq, Repr

/-- A delegation request (R233). -/
structure DelegReq where
  khandle : BitVec 32
  entry : BitVec 32
  args : BitVec 256
  ctx : Nat
  lid : BitVec 20
  prio : BitVec 2
  nte : Bool
  ctag : BitVec 8
  requester : Nat
  deriving DecidableEq, Repr

/-- What an entry of the store path OP does (R190); `bytes` under `mask` for a store. -/
inductive OpBody where
  | store (bytes : BitVec 512) (mask : BitVec 64)
  | atomic (a : AmoReq)
  | message (target : MsgTarget) (m : Msg)
  | deleg (target : Nat) (d : DelegReq)
  deriving DecidableEq, Repr

/-- An entry of the store path OP (R190): its task, core, slot and context, its fence-tracker number, its granule, what it does there, and
the instant it was made. -/
structure OpEntry where
  owner : Nat
  core : Nat
  slot : Fin 4
  ctx : Nat
  ft : Nat
  gran : Gran
  body : OpBody
  at_ : Word
  deriving DecidableEq, Repr

/-- An entry of a link queue LQ[t, b] (R190); a message with how often stubs have forwarded it (R343). -/
inductive LqBody where
  | store (gran : Nat) (bytes : BitVec 512) (mask : BitVec 64)
  | atomic (a : AmoReq)
  | message (core : BitVec 13) (m : Msg) (hops : Nat)
  | barrier (kind : Fin 5) (pa : Nat) (arg : Nat)
  deriving DecidableEq, Repr

structure LqEntry where
  owner : Nat
  core : Nat
  slot : Fin 4
  ctx : Nat
  peer : Nat
  ft : Option Nat
  body : LqBody
  deriving DecidableEq, Repr

/-- How a fence-tracker entry failed (R200). -/
inductive FailReason where
  | deadLink
  | refused
  deriving DecidableEq, Repr

/-- An unconfirmed or failed entry of the fence tracker (R190): the task it belongs to, the slot it was made in, the peer it
goes to or this chip, the parts whose Apply or Arrive step is still to be taken, what the Arrive steps have answered (`some true` for
acknowledgements alone), the failure, for a message its context and lineage, whose LIVE it counts in, the context, and the instant it was
made. -/
structure FtEntry where
  owner : Nat
  core : Nat
  slot : Fin 4
  id : Nat
  peer : Option Nat
  parts : Nat
  answered : Option Bool
  failed : Option FailReason
  msg : Option (Nat × BitVec 20)
  ctx : Nat
  at_ : Word
  deriving DecidableEq, Repr

/-- A commit-buffer entry (R195); a held deque record with its place and the number of the thread that forked it. -/
inductive CbEntry where
  | store (gran : Gran) (bytes : BitVec 512) (mask : BitVec 64)
  | message (target : MsgTarget) (m : Msg)
  | deque (place : Nat) (r : Rec) (parent : Nat)
  | deleg (target : Nat) (d : DelegReq)
  deriving DecidableEq, Repr

/-- Which kind of task a slot runs: an ordinary record, a handler with its tag and inbox entry (R37), a supervisor record
from the privileged queue (whether it is a fault record, and the inbox entry that carries its item; R245, R296, R297), or a delegation
request (R233). An inbox entry is named by 128 × its physical core + its number. -/
inductive TaskKind where
  | plain
  | handler (tag : BitVec 8) (entry : Nat)
  | supervisor (isFault : Bool) (carried : Option Nat)
  | deleg (d : DelegReq)
  deriving DecidableEq, Repr

/-- The task a slot holds (R34): its record and what the core keeps beside it. -/
structure Task where
  id : Nat
  ctx : Nat
  record : Rec
  kind : TaskKind
  khandle : BitVec 32
  base : Word
  prio : BitVec 2
  retries : Nat
  spec : Bool
  firstDone : Bool
  started : Word
  ran : Nat
  /-- Where the park image stands that the thread's next lease grant restores (R184). -/
  image : Option Word
  deriving DecidableEq, Repr

/-- A task record that waits to start, with its context, number, spawn parent, ready instant, retries and the divider that
R353 fixed. -/
structure Queued where
  record : Rec
  ctx : Nat
  id : Nat
  parent : Option Nat
  ready : Word
  retries : Nat
  divider : Nat
  deriving DecidableEq, Repr

/-- A task that re-runs from its record (R34, R305): the record, and what kind of task it is; a handler keeps its inbox entry. -/
structure Rerun where
  q : Queued
  kind : TaskKind
  deriving DecidableEq, Repr

/-- What an A-slot instruction writes (R55). -/
inductive AWrite where
  | none
  | g (d : Fin 16) (x : Word)
  | p (d : Fin 4) (x : Bool)
  | v (d : Fin 16) (x : VWord)
  | m (d : Fin 8) (x : Word)
  deriving DecidableEq, Repr

/-- The A-slot result held with a unit, and the flags it raises (R55, R121). -/
structure AResult where
  write : AWrite
  flags : BitVec 5
  deriving DecidableEq, Repr

/-- Where a barrier object is (R222): a core's slot, a cluster object, a device object of this chip, with whether it is reached under `.sys` and so at
its port unit (R221), or a device object of a peer. -/
inductive BarRef where
  | core (c : Nat) (i : Nat)
  | clu (k : Nat) (i : Nat)
  | dev (pa : Nat) (port : Bool)
  | peer (peer : Nat) (pa : Nat)
  deriving DecidableEq, Repr

/-- A wait begun (R243): its instruction, t0, the selected deadline, the cap instant, WAITCAP at t0, how far a wait of several
stages has come, a value the instruction keeps, the barrier object waited on (R222, R253), the instant a
suspension began, and a record the instruction keeps. -/
structure Wait where
  instr : Instr
  t0 : Word
  sel : Word
  capAt : Word
  cap : Word
  stage : Nat
  data : Word
  obj : Option BarRef
  suspended : Option Word
  /-- The record that a waiting `node.new` has read (R268). -/
  item : Rec
  /-- The target whose credit a `send` or `deleg` has reserved (R230, R233). -/
  credit : Option MsgTarget
  /-- The PHASE that a `bar.init` left at the object waited on, which ended the wait (R223). -/
  ended : Option (BitVec 16)
  deriving DecidableEq, Repr

/-- A step of a thread that is taken at an object held elsewhere (R209, R223 to R227, R269). -/
inductive RemoteReq where
  | barInit (r : BarRef) (count : BitVec 16)
  | barExpect (r : BarRef) (bytes : BitVec 32)
  | barArrive (r : BarRef)
  | barAbort (r : BarRef)
  | withdraw (r : BarRef) (phase : Option (BitVec 16)) (code : BitVec 8)
  /-- The arrival and the withdrawal that follows it at once, as one step (R226, `poll`). -/
  | trySync (r : BarRef) (code : BitVec 8)
  | nodeDec (handle : BitVec 32)
  | amo (ft : Nat)
  | gate (ft : Nat)
  deriving DecidableEq, Repr

/-- What the step answered: a value and a status (code, detail) for ws. -/
structure RemoteAns where
  value : Word
  code : BitVec 8
  detail : BitVec 32
  deriving DecidableEq, Repr

/-- The request of the waiting unit and, once its step is taken, the answer. -/
structure Remote where
  req : RemoteReq
  ans : Option RemoteAns
  deriving DecidableEq, Repr

/-- A parked item (R300): cause, SLOT, KIND, INFO, ADDR and PC of its record, the action (0 kill, 1 replay, 2 park, 3 forward, 4 a
PARK disposition), EVT, the precise instant and PTIME. -/
structure Park where
  cause : BitVec 6
  slotF : BitVec 2
  kind : BitVec 2
  info : BitVec 32
  addr : Word
  pc : Word
  action : Fin 5
  evt : BitVec 2
  since : Word
  ptime : BitVec 16
  deriving DecidableEq, Repr

/-- A debug halt (R366, R370): WHY and IDX. -/
structure Halt where
  why : BitVec 5
  idx : BitVec 4
  deriving DecidableEq, Repr

/-- Membership of a vector group (R43, R264). -/
inductive Group where
  | leader (members : List (Nat × Fin 4)) (pos : Nat) (mask : BitVec 16)
  | follower (leader : Nat) (slot : Fin 4) (pos : Nat) (attached : Bool)
  deriving DecidableEq, Repr

/-- A unit the leader forwarded (R265): its words, its address, the leader's next pc once the leader has completed it,
whether this member has completed it, for a completed `rejoin` the attached mask and the leader's ws (R266), and whether it is the unit of a step
command (R368). -/
structure Fwd where
  w0 : BitVec 32
  w1 : BitVec 32
  pc : Word
  next : Option Word
  done : Bool
  rejoined : Option (BitVec 16 × Word)
  stepped : Bool
  deriving DecidableEq, Repr

/-- An inline call in progress (R258): the frame it holds and the parent's saved state. -/
structure Inline where
  frame : Nat
  saved : Thread
  deriving DecidableEq, Repr

/-- A reload of a slot's dictionary store that comes before its next fetch (R78): of a thread package, with its active handle; or of both banks
after a switch-in. -/
inductive Reload where
  | package (h : BitVec 32)
  | switchIn
  deriving DecidableEq, Repr

/-- A hardware thread slot (R35) with everything the manual keeps for it. -/
structure Slot where
  thread : Thread
  v : Vector VWord 16
  m : Vector Word 8
  dict : Dict
  /-- The store as it stood before each change that units already fetched do not see, oldest first, with how many such units
  remain (R77). -/
  dictLag : List (Dict × Nat)
  dictCtx : Option Nat
  reload : Option Reload
  cb : List CbEntry
  rs : List Gran
  task : Option Task
  tseq : BitVec 16
  wait : Option Wait
  pendA : Option AResult
  park : Option Park
  halt : Option Halt
  /-- The point that halted the thread and is not checked again at its next issue (R366). -/
  skip : Option Halt
  /-- A DBGSTEP is in progress: the thread halts again at the end of the unit (R368). -/
  stepping : Bool
  /-- A PARK disposition waits for the end of the unit (R303). -/
  parkAsked : Bool
  group : Option Group
  fwd : List Fwd
  /-- The group that reserves this free slot (R264). -/
  reserved : Option (Nat × Fin 4)
  /-- The address of the branch unit whose taken target is fetched next (R307). -/
  branchFrom : Option Word
  /-- The pc that a debugger has written while the thread waits: it takes effect at the next unit (R369). -/
  newPc : Option Word
  /-- The loop stack's words by entry as a debugger has written them in the halt that lasts: entries that are not valid keep theirs (R369). -/
  loopRaw : Option (Vector (Word × Word) 4)
  /-- A register target whose bits [2:0] are not zero, as given: the fetch there raises the fetch-alignment fault (R57). -/
  misTarget : Option Word
  remote : Option Remote
  /-- Steps still to be taken for units whose waits have ended, each with its task (R223, R224, R226, R269). -/
  orphans : List (Nat × RemoteReq)
  inline : List Inline
  hp : BitVec 3
  claim : BitVec 2
  divider : Nat
  /-- Whether this slot's wait-cap event waits in the privileged queue, and the endings it stands for (R245). -/
  capEvents : BitVec 32
  /-- The victim that this free slot examined last (R249). -/
  scan : Option Nat
  /-- The object for which this switched-out thread's absence token is held (R253). -/
  token : Option BarRef
  /-- The unit just completed was a typed-buffer load, at this address (R312). -/
  lastLoad : Option Word
  /-- The model's own: the unit that was to issue is stalled (R250, log 79). -/
  stalled : Bool
  deriving DecidableEq, Repr

/-- A thread package (R45, R261). -/
structure Package where
  thread : Thread
  task : Task
  rs : List Gran
  handle : BitVec 32
  target : Nat
  inline : List Inline
  divider : Nat
  /-- The halt in which a stepped thread arrives (R368). -/
  halt : Option Halt
  deriving DecidableEq, Repr

/-- An inbox entry by its kind (R39). -/
inductive InEntry where
  | record (q : Queued)
  | message (m : Msg) (hops : Nat)
  | completion (m : Msg)
  | package (place : Fin 4) (id : Nat) (pk : Option Package)
  | carried (bytes : BitVec 512)
  deriving DecidableEq, Repr

/-- An inbox entry with the context it belongs to, its arrival instant, its order of arrival, whether its handler task has started, and
since when a message has been a candidate (R248, R358), and whether `tag.clr` has taken it, so that it only waits to be forwarded (R270). -/
structure InSlot where
  entry : InEntry
  ctx : Nat
  ready : Word
  order : Nat
  started : Bool
  since : Option Word
  cleared : Bool
  deriving DecidableEq, Repr

/-- A deque entry (R41, R257): the recorded steal domain, and the record, or nothing while the place is only reserved. -/
structure DequeEntry where
  place : Nat
  dom : BitVec 2
  rec? : Option Queued
  deriving DecidableEq, Repr

/-- A locked range of a core's buffer or of an array buffer (R169): the physical segments (start, length), and whether loads
stall too, and the number of the operation that holds it (log 6). -/
structure Lock where
  id : Nat
  buf : EndKind
  isC : Bool
  segs : List (Nat × Nat)
  loads : Bool
  op : Nat
  deriving DecidableEq, Repr

/-- The source of a copy (R212): a device address, the bytes of a buffer as they stood at acceptance (R169) under the given
allocation and offset, the array buffer as it stood, or a gather list with its block size (R217). -/
inductive CopySrc where
  | dev (va : Word)
  | buf (snap : Memory) (al : Alloc) (size : Nat) (off : Nat)
  | arr (snap : Memory) (off : Nat)
  | gather (addrs : List Word) (block : Nat)
  deriving DecidableEq, Repr

/-- The destination of a copy (R212, R216). -/
inductive CopyDst where
  | dev (va : Word)
  | buf (b : Buf) (al : Alloc) (off : Nat)
  | arr (off : Nat)
  | deal (b : Buf) (cores : List Nat) (block off : Nat)
  deriving DecidableEq, Repr

/-- Who issued an engine operation. -/
structure Issuer where
  core : Nat
  slot : Fin 4
  ctx : Nat
  lid : BitVec 20
  tid : Nat
  priv : BitVec 2
  pc : Word
  deriving DecidableEq, Repr

/-- A copy accepted on a channel (R211, R213). -/
structure Copy where
  cseq : BitVec 32
  src : CopySrc
  dst : CopyDst
  len : Nat
  done : Nat
  who : Issuer
  bound : Option (BitVec 9)
  nte : Bool
  ctag : BitVec 8
  /-- Store-path entries of the issuing thread that its reads wait for (R199). -/
  after : List Nat
  park : Option Park
  failed : Bool
  lost : Bool
  started : Bool
  lock : Nat
  deriving DecidableEq, Repr

/-- A copy channel (R211): the number of the last accepted copy, CPWP, and the copies it holds, the delivering one first. -/
structure Channel where
  accepted : BitVec 32
  cseq : BitVec 32
  doneb : BitVec 32
  queue : List Copy
  deriving DecidableEq, Repr

/-- An operation of the core matrix unit (R164) with its operands as they stood at acceptance (R169). -/
inductive CmuKind where
  | mma (aOff bOff cOff : Nat) (k : Nat)
  | mzero (cOff : Nat)
  | mdrain (aOff cOff : Nat) (dty : Ty) (sat : Bool)
  deriving DecidableEq, Repr

structure CmuOp where
  id : Nat
  kind : CmuKind
  who : Issuer
  fmta : BitVec 4
  fmtb : BitVec 4
  fmtc : BitVec 4
  scla : BitVec 32
  sclb : BitVec 32
  knob : BitVec 4
  snapA : Memory
  snapW : Memory
  bufW : Alloc
  bufA : Alloc
  bufC : Alloc
  cycles : Nat
  ntf : BitVec 2
  ctag : BitVec 8
  boff : BitVec 9
  /-- The operation has run; its completion waits for room (R247). -/
  waiting : Bool
  deriving DecidableEq, Repr

/-- A weight plane of a harp (R171): the FMTB it was loaded under, its tile bytes laid out as B (R160), and its scale bytes. -/
structure Plane where
  fmtb : BitVec 4
  bytes : Memory
  scales : Memory
  deriving DecidableEq, Repr

/-- A harp operand: the array buffer as it stood at acceptance at an offset, or device pages pinned at acceptance (R179):
(virtual page, physical page) pairs from a virtual address. -/
inductive HarpMem where
  | array (snap : Memory) (off : Nat)
  | device (va : Word) (pages : List (Nat × Option Nat × Nat))
  deriving DecidableEq, Repr

inductive HarpKind where
  | ldw (src : HarpMem) (stage : Option Nat)
  | swap
  | stream (src : HarpMem) (m acc0 : Nat) (za : Bool) (row : Nat)
  | drain (dest : DrainDest) (off : Nat) (mem : HarpMem) (n acc0 : Nat) (z : Bool)
  | save (mem : HarpMem) (isDev : Bool) (n acc0 : Nat)
  | restore (mem : HarpMem) (n acc0 : Nat)
  /-- What a cancelled `hldw` leaves in its place: its plane is set to zero (R183). -/
  | clear
  deriving DecidableEq, Repr

/-- A harp command in the queue (R171, R172). -/
structure HarpCmd where
  id : Nat
  kind : HarpKind
  who : Issuer
  fmta : BitVec 4
  fmtb : BitVec 4
  fmtc : BitVec 4
  scaleOff : Nat
  scales : Memory
  knob : BitVec 4
  cycles : Nat
  ntf : BitVec 2
  ctag : BitVec 8
  boff : BitVec 9
  bufC : Alloc
  skips : Nat
  skipCols : BitVec 256
  eknob : Nat
  flags : BitVec 5
  /-- The command has run; its completion waits for room (R247). -/
  waiting : Bool
  /-- Store-path entries of the issuing thread that its reads wait for (R199). -/
  after : List Nat
  /-- Stopped by an uncorrectable soft error in its operand (R312). -/
  park : Option Park
  deriving DecidableEq, Repr

/-- The lease (R46): the holding core, the task that won it, the commands accepted, the tasks that issued them, the grant
instant, and thousandths of cycles of the holder's course clock that have passed since. -/
structure Lease where
  core : Nat
  tid : Nat
  ctx : Nat
  count : Nat
  users : List Nat
  since : Word
  spent : Nat
  deriving DecidableEq, Repr

/-- A claim on a harp's lease (R173). -/
structure HarpClaim where
  core : Nat
  slot : Fin 4
  tid : Nat
  ctx : Nat
  prio : BitVec 2
  at_ : Word
  deriving DecidableEq, Repr

/-- A harp (R171): planes, accumulator rows by 256 × row + column, command queue, disabled physical rows, lease, claims, the
context of the last holder, and its step-down. -/
structure Harp where
  active : Plane
  shadow : Plane
  acc : Tab (BitVec 32)
  queue : List HarpCmd
  disabled : List Nat
  lease : Option Lease
  claims : List HarpClaim
  lastCtx : Option Nat
  stepdown : Option Word
  deriving DecidableEq, Repr

/-- A barrier (R220): its two words, and for a cluster object the context that initialised it, the arrivals of the phase, oldest first, by
core, slot and instant, and the last arriver of the flip before (R354). -/
structure BarObj where
  w0 : Word
  w1 : Word
  ctx : Nat
  arrivals : List (Nat × Fin 4 × Word)
  last : Option Nat
  deriving DecidableEq, Repr

/-- A cluster: its harp, array buffer, cluster objects and flag summaries (R15, R123). -/
structure Cluster where
  harp : Harp
  array : Memory
  objs : Tab BarObj
  cfsum : Tab (BitVec 5)
  locks : List Lock
  nextLock : Nat
  deriving DecidableEq, Repr

/-- A completion that found no inbox entry free (R247): who issued the operation, the entry, and the operation whose place in the core
matrix unit or in the cluster's harp it still holds. -/
structure PendingMsg where
  who : Issuer
  msg : Msg
  cmuId : Option Nat
  harpId : Option Nat
  deriving DecidableEq, Repr

/-- A SWITCH in progress (R251, R333): the context to come, if any, and whether the supervisor forces the tasks to park. -/
structure SwitchReq where
  into : Option Nat
  forced : Bool
  deriving DecidableEq, Repr

/-- A core (R13, R14, R38). -/
structure Core where
  slots : Vector Slot 4
  ctx : Option Nat
  bufW : Memory
  bufA : Memory
  bufC : Memory
  inbox : Tab InSlot
  inboxHeld : Nat
  pkgHeld : Nat
  nextOrder : Nat
  deque : List DequeEntry
  nextPlace : Nat
  sync : Tab (Word × Word)
  frames : Memory
  tagen : BitVec 256
  fmta : BitVec 4
  fmtb : BitVec 4
  fmtc : BitVec 4
  scla : BitVec 32
  sclb : BitVec 32
  qknob : BitVec 4
  chans : Vector Channel 8
  cmu : List CmuOp
  locks : List Lock
  nextLock : Nat
  /-- Completions that found no inbox entry free (R247). -/
  pending : List PendingMsg
  server : Bool
  delegQ : List DelegReq
  delegHeld : Nat
  rerun : List Rerun
  /-- What the save image of a core holds of its inbox, by order of arrival, and of its deque, by place, with where in the image (R291, R292). -/
  imgInbox : List Nat
  imgDeque : List (Nat × Nat)
  /-- The SWITCH commands that wait for the core's slots, oldest first (R251). -/
  switches : List SwitchReq
  /-- The slot that last issued at each priority (R250). -/
  lastIssued : Vector (Fin 4) 4
  stepdown : BitVec 2
  stepdownAt : Word
  timingErrors : Nat
  errorWindow : Word
  deriving DecidableEq, Repr

/-- A graph node (R267). -/
structure Node where
  task : Queued
  counter : BitVec 16
  target : BitVec 13
  ready : Bool
  deriving DecidableEq, Repr

/-- A boost claim in the die's queue (R352). -/
structure BoostReq where
  core : Nat
  slot : Fin 4
  level : BitVec 2
  at_ : Word
  deriving DecidableEq, Repr

/-- A course (R347 to R354). -/
structure Course where
  level : BitVec 2
  clock : BitVec 2
  half : Bool
  idle : BitVec 2
  highest : BitVec 2
  busy : Bool
  inFall : Bool
  droop : Bool
  transferAt : Option Nat
  lastTransfer : Option Nat
  deriving DecidableEq, Repr

/-- The figures of one epoch of a monitor unit (R357). -/
structure Figures where
  min : Word
  max : Word
  count : Word
  bins : List (BitVec 32)
  deriving DecidableEq, Repr

/-- A monitor unit (R357): MONSEL, EPNO, the beginning of the epoch being counted, its figures, and those reported. -/
structure Monitor where
  sel : Word
  epno : Word
  start : Word
  now : Figures
  rep : Figures
  deriving DecidableEq, Repr

/-- A SUBMIT that a queue is executing (R337, R338): its lineage, and the ranks written. -/
structure QueueCmd where
  lid : BitVec 20
  rank : Nat
  /-- Whether the lineage has been annulled since the command took it (R337). -/
  gone : Bool
  deriving DecidableEq, Repr

/-- A mapped command queue (R334, R335): its descriptor's place and fields, the interval of its visits in µs, the TAIL that the last visit
read, the command in progress, the events that wait for room (R339), and its reset (R313): whether one is in progress, since when its
notices are out, its lineages, the peers still awaited, those that did not answer, and the command's cookie. -/
structure HostQueue where
  pa : Nat
  ring : Nat
  size : Nat
  qctx : Nat
  notify : Bool
  evring : Nat
  evsize : Nat
  interval : Nat
  lastTail : BitVec 32
  stopped : Bool
  closing : Bool
  parked : Bool
  cur : Option QueueCmd
  events : List (BitVec 512)
  resetting : Bool
  resetNoticed : Option Word
  resetLids : List (BitVec 20)
  resetPeers : List Nat
  resetMask : BitVec 32
  resetCookie : Word
  deriving DecidableEq, Repr

/-- A die: permits, scheduler SRAM and monitors (R16, R267, R334, R349, R357). -/
structure Die where
  pool : BitVec 16
  fall : Nat
  boostQ : List BoostReq
  nodes : Tab Node
  gens : Tab (BitVec 12)
  ready : List Nat
  interval : Nat
  monitors : Tab Monitor
  queues : Tab HostQueue
  carriedPlaces : Nat
  deriving DecidableEq, Repr

/-- A loaded kernel (R279) with its estimate EST (R353). -/
structure Kernel where
  base : Word
  bufW : BitVec 32
  bufA : BitVec 32
  bufC : BitVec 32
  kflags : BitVec 32
  dict : BitVec 32
  resW : BitVec 48
  resA : BitVec 32
  resC : BitVec 16
  est : Nat
  deriving DecidableEq, Repr

/-- A peer-table entry (R340): CHIP, PCTX, VALID and ENDPT. -/
structure Peer where
  chip : BitVec 16
  pctx : BitVec 4
  valid : Bool
  endpt : Word
  dead : Bool
  /-- Whether the host has written the entry's bytes since its link was declared dead (R331, log 102). -/
  rewritten : Bool
  deriving DecidableEq, Repr

/-- The context debug page (R365). -/
structure DebugPage where
  bp : Vector Word 8
  wpaddr : Vector Word 4
  wpctl : Vector Word 4
  deriving DecidableEq, Repr

/-- A context (R277, R278): the descriptor's words, the action-table copy (R299), kernels, control-page state (R289), peers, the
debug claim and notices that wait for a queue (R339). -/
structure Context where
  desc : Vector Word 14
  actions : Option (List Byte)
  kernels : Tab Kernel
  kbusy : Option (BitVec 16)
  kcode : BitVec 8
  ipend : List Nat
  fserr : Bool
  peers : Vector Peer 32
  debug : Option DebugPage
  notices : List (BitVec 512)
  noticeCount : Nat
  deriving DecidableEq, Repr

/-- STATE of a lineage (R23). -/
inductive LState where
  | live
  | expired
  | annulled
  deriving DecidableEq, Repr

/-- A lineage-table entry (R23), with the key of a mirror (R341), and the peers the lineage has sent to (R342). -/
structure Lineage where
  expiry : Word
  parent : Option (BitVec 20)
  clin : BitVec 2
  live : Nat
  state : LState
  mirror : Option (Nat × Nat × BitVec 20 × Word)
  sentTo : List Nat
  /-- The queue, by die and number, whose SUBMIT made the lineage (R313, R337). -/
  origin : Option (Nat × Nat)
  /-- The queue whose reset waits for the entry to be freed (R313). -/
  resetBy : Option (Nat × Nat)
  deriving DecidableEq, Repr

/-- An entry of a domain queue (R196): task number, context, domain and sequence. -/
structure DqEntry where
  id : Nat
  ctx : Nat
  domain : BitVec 24
  seq : BitVec 40
  deriving DecidableEq, Repr

/-- Which reserved place a privileged record uses (R245, R300). -/
inductive PrivSrc where
  | waitCap (c : Nat) (t : Fin 4)
  | thread (c : Nat) (t : Fin 4)
  | copy (c : Nat) (ch : Fin 8)
  | item
  deriving DecidableEq, Repr

/-- A record on a context's privileged queue (R296, R300): its task number (log 6), the core it is for, the record or message it carries, the instant it was queued,
and whether it could not start and is held (R306). -/
structure PrivRec where
  id : Nat
  core : Nat
  ctx : Nat
  record : Rec
  carried : Option (BitVec 512)
  src : PrivSrc
  ready : Word
  held : Bool
  deriving DecidableEq, Repr

/-- Where a cell is held when it is not at its home slice (R192). -/
inductive Place where
  | cluster (k : Nat)
  | hot
  deriving DecidableEq, Repr

/-- A message held at the port unit (R341): from a peer, with what binds it; or one of this chip that a stub has sent on and that waits
for a place at its new target (R343, log 22); and how often stubs have forwarded it, here or before it came here. -/
structure HeldMsg where
  chip : Nat
  sctx : Nat
  lid : BitVec 20
  expiry : Word
  core : BitVec 13
  pctx : Nat
  msg : Msg
  hops : Nat
  stubbed : Bool
  deriving DecidableEq, Repr

/-- A member of a collective (R229); `chip` where it is a peer's. -/
structure CollMember where
  chip : Option Nat
  rank : Nat
  who : Issuer
  dstOff : Nat
  bufA : Alloc
  bytes : BitVec 32768
  len : Nat
  isRed : Bool
  op : CollOp
  ty : Ty
  nte : Bool
  ctag : BitVec 8
  lock : Nat
  deriving DecidableEq, Repr

/-- A group of accepted collective operations at one object and phase (R229). -/
structure CollGroup where
  obj : BarRef
  phase : BitVec 16
  members : List CollMember
  deriving DecidableEq, Repr

/-- An energy accumulator (R359). -/
structure Energy where
  count : Word
  wrap : Bool
  latchHost : BitVec 32
  /-- The latch of each core that has read at firmware level, by core. -/
  latchFw : Tab (BitVec 32)
  deriving DecidableEq, Repr

/-- What leaves the chip for the host: a command's status word and data (R333, R364, R386). -/
structure HostReply where
  status : Word
  data : List Byte
  deriving DecidableEq, Repr

/-- What leaves the chip for peers beside link-queue entries: acknowledgements and refusals, values of atomics, barrier
replies, annul and reset notices, reset acknowledgements, suspension and resumption notices (R193, R209, R253, R313, R342). -/
inductive PeerOut where
  | ack (chip : Nat)
  | refusal (chip : Nat)
  | value (chip : Nat) (v : Word)
  | annulNotice (peer ctx : Nat) (l : BitVec 20)
  | resetNotice (peer ctx : Nat) (ls : List (BitVec 20))
  | resetAck (chip : Nat)
  | item (ctx peer : Nat) (b : LqBody)
  | member (ctx peer pa : Nat) (m : CollMember)
  | memberGone (ctx peer pa rank : Nat)
  | memberDone (chip rank : Nat) (cstat : BitVec 8) (flags : BitVec 5) (result : List Byte)
  | token (ctx peer : Nat) (thread : Word) (obj : Nat)
  | tokenGone (ctx peer : Nat) (thread : Word) (obj : Nat)
  | suspend (chip obj : Nat)
  | resume (chip obj : Nat)
  deriving DecidableEq, Repr

/-- The state of bring-up (R380, R383): `timing` waits in step 5 for the first offset measurement. -/
inductive Boot where
  | booting
  | timing
  | ready
  | stopped (fail : BitVec 6)
  deriving DecidableEq, Repr

/-- Firmware's own registers and stores (R290, R315, R332, R355, R380 to R386). -/
structure Firmware where
  boot : Boot
  fsec : BitVec 32
  fwSlot0 : List Byte
  fwSlot1 : List Byte
  fwActive : Bool
  /-- The firmware slot that runs; the host writes the other one (R380). -/
  fwRun : Bool
  tabSlot0 : List Byte
  tabSlot1 : List Byte
  tabActive : Bool
  /-- The table slot in force. -/
  tabRun : Bool
  table : List Byte
  fwMeas : BitVec 512
  l2p : Tab (BitVec 32)
  fwctl : Tab (BitVec 32)
  hstat : BitVec 8
  tsyncHold : Bool
  tsyncOffs : BitVec 32
  offsets : List Int
  instantSet : Bool
  ctxEver : Bool
  lanes : Tab Nat
  lanesRetired : Nat
  reserveUsed : Nat
  softErrors : Nat
  /-- When the hour began in which uncorrectable soft errors are counted (R315). -/
  softWindow : Word
  correctedErrors : Nat
  resetNotices : List (Nat × Nat × List (BitVec 20))
  deriving DecidableEq, Repr

/-- A cached translation (R286): context, virtual page number in pages of the leaf's own size, the leaf entry with its level, and the frames in which
the tables of its walk stand (R289). -/
structure TlbEntry where
  ctx : Nat
  vpn : Nat
  leaf : Word
  level : Nat
  tables : List Nat
  deriving DecidableEq, Repr

/-- Which agent moves next (log 4): a hardware step or an outside event; a core's issue cycle, with the slots whose next units have been
fetched; or a further attempt of a slot's waiting unit. With `late` a reply from elsewhere has not come back at this attempt (log 5). -/
inductive Turn where
  | hw (i : Instr)
  | issue (core : Nat) (fetched : BitVec 4) (late : Bool)
  | attempt (core : Nat) (slot : Fin 4) (late : Bool)
  deriving DecidableEq, Repr

/-- The whole machine. -/
structure State where
  instant : Word
  cores : Tab Core
  clusters : Tab Cluster
  courses : Tab Course
  dies : Tab Die
  contexts : Tab Context
  lineages : Tab Lineage
  frames : Tab (BitVec 32)
  mem : Memory
  places : List (Nat × Place)
  tlb : List TlbEntry
  /-- The store paths, link queues and fence trackers of all threads (R190), each entry with the task it belongs to and the slot
  it left. -/
  op : List OpEntry
  lq : List LqEntry
  ft : List FtEntry
  dq : List DqEntry
  ready : List (Nat × Word)
  priv : List PrivRec
  transit : List Package
  heldMsgs : List HeldMsg
  tokens : List Token
  /-- Local objects whose absence tokens the peers have been told of (R253). -/
  absent : List Nat
  /-- Objects whose waits on this chip are suspended (R253): a local object by its address, a peer's with 2^52 × (its chip + 1) added. -/
  suspended : List Nat
  colls : List CollGroup
  /-- The number of the last acceptance at each object's queue (R213, R229). -/
  collSeqs : List (BarRef × BitVec 32)
  credits : Tab Nat
  energy : Tab Energy
  fw : Firmware
  replies : List HostReply
  sent : List PeerOut
  /-- Annul notices that stand behind messages of their lineage: context, peer and LID (R342). -/
  annuls : List (Nat × Nat × BitVec 20)
  /-- The model's own: steps taken, which the free values of Config are applied to (log 3). -/
  tick : Nat
  /-- The model's own: the turns to come, earliest first (log 4). -/
  agenda : List Turn
  /-- The model's own: the core and slot whose unit issues (log 4). -/
  curCore : Nat
  curSlot : Fin 4
  /-- The model's own: whether a reply from elsewhere is late at this attempt (log 5). -/
  late : Bool
  /-- The model's own: the next free task, thread and package number (log 6). -/
  nextTask : Nat
  /-- The model's own: the next free number of a fence-tracker entry (log 6). -/
  nextFt : Nat
  deriving DecidableEq, Repr

/-- Reasons for which the machine would stop. No step of this model stops: every fault the manual names is a trap that the
machine takes (R295). -/
inductive Fault where
  /-- A program counter outside the reach of any issue turn: never raised by a meaning; safe. -/
  | stuck
  deriving DecidableEq, Repr

/-- Reasons for which an instruction would have no meaning. -/
inductive Refusal where
  /-- The instruction has no meaning yet: raised by no meaning, only by an arm of `exec` that is not written; safe. -/
  | notModelled (mnemonic : String)
  deriving DecidableEq, Repr

/-! ## Reset -/

/-- BASE 0 and the whole buffer (log 1). -/
def Alloc.whole (size : BitVec 16) : Alloc := ⟨0, size, size⟩

/-- A thread at reset (log 1): every register 0, the budget at its greatest, no children. -/
def Thread.reset : Thread :=
  { g := Vector.replicate 16 0, pc := 0, p := Vector.replicate 4 false, dla := 0, dlb := 0, ws := 0, waitcap := 0
    rmode := 0, fflags := 0, lid := 0, tstamp := 0, priv := 0, remain := 0xFFFFFFFF, stealdom := 1, inldepth := 4
    bufW := Alloc.whole 0xC000, bufA := Alloc.whole 0x8000, bufC := Alloc.whole 0x4000, loops := [], children := 0
    parent := none, tid := 0 }

def Bank.empty : Bank := ⟨0, []⟩
/-- Both banks empty and bank 0 active (R68). -/
def Dict.empty : Dict := ⟨Bank.empty, Bank.empty, false⟩

/-- A slot at reset: no task, vector state 0 (log 1), an empty dictionary store. -/
def Slot.reset : Slot :=
  { thread := Thread.reset, v := Vector.replicate 16 0, m := Vector.replicate 8 0, dict := Dict.empty, dictLag := []
    dictCtx := none, reload := none, cb := [], rs := [], task := none, tseq := 0
    wait := none, pendA := none, park := none, halt := none, skip := none, stepping := false, parkAsked := false
    group := none, fwd := [], reserved := none, branchFrom := none, newPc := none, loopRaw := none, misTarget := none, remote := none, orphans := [], inline := [], hp := 0
    claim := 0, divider := 1, capEvents := 0, scan := none, token := none, lastLoad := none, stalled := false }

def Channel.reset : Channel := ⟨0, 0, 0, []⟩

/-- A core at reset: FMTC is 0x2 (R155); every other register 0. -/
def Core.reset : Core :=
  { slots := Vector.replicate 4 Slot.reset, ctx := none, bufW := [], bufA := [], bufC := [], inbox := [], inboxHeld := 0
    pkgHeld := 0, nextOrder := 0, deque := [], nextPlace := 0, sync := [], frames := [], tagen := 0, fmta := 0, fmtb := 0
    fmtc := 2, scla := 0, sclb := 0, qknob := 0, chans := Vector.replicate 8 Channel.reset, cmu := []
    locks := [], nextLock := 0, pending := [], server := false, delegQ := [], delegHeld := 0, rerun := [], imgInbox := [], imgDeque := [], switches := []
    lastIssued := Vector.replicate 4 3, stepdown := 0, stepdownAt := 0, timingErrors := 0, errorWindow := 0 }

def Plane.zero (fmtb : BitVec 4) : Plane := ⟨fmtb, [], []⟩
def Harp.reset : Harp :=
  { active := Plane.zero 0, shadow := Plane.zero 0, acc := [], queue := [], disabled := [], lease := none, claims := []
    lastCtx := none, stepdown := none }
def Cluster.reset : Cluster := ⟨Harp.reset, [], [], [], [], 0⟩
def Course.reset : Course := ⟨0, 0, false, 0, 0, false, false, false, none, none⟩
/-- A die at reset; POOL stands at the table's POOLMAX once DEVICE_RESET has loaded it, and at the default before (R349). -/
def Die.reset : Die := ⟨64, 0, [], [], [], [], 0, [], [], 0⟩

/-- Firmware's registers at device reset (R315, R332, R355, R380 to R384); the fuses are Config's (log 40). -/
def Firmware.reset : Firmware :=
  { boot := .booting, fsec := Config.fusedSecurity, fwSlot0 := [], fwSlot1 := [], fwActive := false, fwRun := false, tabSlot0 := []
    tabSlot1 := [], tabActive := false, tabRun := false, table := [], fwMeas := 0, l2p := [], fwctl := [], hstat := 0
    tsyncHold := false, tsyncOffs := 0, offsets := [], instantSet := false, ctxEver := false, lanes := []
    lanesRetired := 0, reserveUsed := 0, softErrors := 0, softWindow := 0, correctedErrors := 0, resetNotices := [] }

/-- The machine right after device reset: INSTANT counts from 0 (R380), nothing is running, and no byte of memory has been
written (log 2). -/
def State.reset : State :=
  { instant := 0, cores := [], clusters := [], courses := [], dies := [], contexts := [], lineages := [], frames := []
    mem := [], places := [], tlb := [], op := [], lq := [], ft := [], dq := [], ready := [], priv := [], transit := [], heldMsgs := [], tokens := []
    absent := [], suspended := [], colls := [], collSeqs := [], credits := [], energy := [], fw := Firmware.reset, replies := []
    sent := [], annuls := [], tick := 0, agenda := [], curCore := 0, curSlot := 0, late := false, nextTask := 1
    nextFt := 1 }

end Sys2Proof.Machine
end

