-- ==== Sys2Proof/Machine/Parts.lean ====
section
/-! DEFINITION. The parts of the machine and their plain operations: reading and writing one place of tables, memory and
registers, the lineage table, barrier objects, and the ways a task ends or re-runs. Ops.lean builds the completion of a unit and
the taking of traps on them. -/

namespace Sys2Proof.Machine

/-! ## Tables and memory -/

/-- The entry under a number; keys rise strictly. -/
def tget {α : Type} : Tab α → Nat → Option α
  | [], _ => none
  | (j, x) :: r, k => if j = k then some x else if k < j then none else tget r k
/-- The table with an entry written. -/
def tset {α : Type} : Tab α → Nat → α → Tab α
  | [], k, x => [(k, x)]
  | (j, y) :: r, k, x => if k < j then (k, x) :: (j, y) :: r else if j = k then (k, x) :: r else (j, y) :: tset r k x
/-- The table without an entry. -/
def terase {α : Type} : Tab α → Nat → Tab α
  | [], _ => []
  | (j, y) :: r, k => if j = k then r else if k < j then (j, y) :: r else (j, y) :: terase r k
/-- The lowest number below the bound that no entry lists. -/
def tfree {α : Type} (t : Tab α) (bound : Nat) : Option Nat := (List.range bound).find? fun k => (tget t k).isNone

/-- What a byte of memory reads as where no entry lists it (log 2). -/
def unlisted : Byte := 0
/-- The byte at an address. -/
def mget : Memory → Nat → Byte
  | [], _ => unlisted
  | (a, b) :: r, k => if a = k then b else if k < a then unlisted else mget r k
/-- Memory with one byte written, in canonical form: what an unlisted address reads as is not listed. -/
def mset : Memory → Nat → Byte → Memory
  | [], k, x => if x = unlisted then [] else [(k, x)]
  | (a, b) :: r, k, x =>
    if k < a then (if x = unlisted then (a, b) :: r else (k, x) :: (a, b) :: r)
    else if a = k then (if x = unlisted then r else (k, x) :: r)
    else (a, b) :: mset r k x
/-- The canonical form from an address on. -/
def memOk : Nat → Memory → Bool
  | _, [] => true
  | lo, (a, b) :: r => decide (lo ≤ a) && b != unlisted && memOk (a + 1) r
/-- The canonical form: addresses strictly rising, and no entry that reads as an unlisted address does. -/
def Memory.wf (m : Memory) : Bool := memOk 0 m

/-- `n` bytes from an address up, lowest first. -/
def mbytes (m : Memory) (a : Nat) : Nat → List Byte
  | 0 => []
  | n + 1 => mget m a :: mbytes m (a + 1) n
/-- Bytes written from an address up. -/
def mputs (m : Memory) (a : Nat) : List Byte → Memory
  | [] => m
  | b :: r => mputs (mset m a b) (a + 1) r
/-- The little-endian value of bytes (R3). -/
def leNat : List Byte → Nat
  | [] => 0
  | b :: r => b.toNat + 256 * leNat r
/-- The `n` little-endian bytes of a number (R3). -/
def leBytes : Nat → Nat → List Byte
  | 0, _ => []
  | n + 1, v => BitVec.ofNat 8 v :: leBytes n (v / 256)
/-- The big-endian value of bytes (R381). -/
def beNat (l : List Byte) : Nat := l.foldl (fun acc b => 256 * acc + b.toNat) 0

/-- Bits [lo + n − 1 : lo] of a number. -/
def bitsOf (v lo n : Nat) : Nat := v / 2 ^ lo % 2 ^ n
/-- A word from a number, modulo 2^64. -/
def w64 (n : Nat) : Word := BitVec.ofNat 64 n
/-- `Sat(a + b, 0, 2^64 − 1)` (R243). -/
def satAdd (a b : Word) : Word := if a.toNat + b.toNat < two64 then a + b else BitVec.allOnes 64
/-- `SignExt(x, n)` of a field (R7). -/
def sext64 {n : Nat} (x : BitVec n) : Word := x.signExtend 64
def zext64 {n : Nat} (x : BitVec n) : Word := x.setWidth 64

/-- Bytes laid over a granule under a mask (R190). -/
def overlay (old bytes : BitVec 512) (mask : BitVec 64) : BitVec 512 :=
  BitVec.ofNat 512 ((List.range 64).foldr (fun i acc =>
    acc * 256 + (if mask.getLsbD i then bitsOf bytes.toNat (8 * i) 8 else bitsOf old.toNat (8 * i) 8)) 0)

/-- Masked bytes of a granule written to memory. -/
def mputGran (m : Memory) (gran : Nat) (bytes : BitVec 512) (mask : BitVec 64) : Memory :=
  (List.range 64).foldl (fun acc i =>
    if mask.getLsbD i then mset acc (64 * gran + i) (BitVec.ofNat 8 (bitsOf bytes.toNat (8 * i) 8)) else acc) m

/-! ## Places of the machine -/

def State.coreAt (s : State) (c : Nat) : Core := (tget s.cores c).getD Core.reset
def State.setCore (s : State) (c : Nat) (x : Core) : State := { s with cores := tset s.cores c x }
def State.slotAt (s : State) (c : Nat) (t : Fin 4) : Slot := (s.coreAt c).slots.get t
def Core.setSlot (x : Core) (t : Fin 4) (sl : Slot) : Core := { x with slots := x.slots.set t.val sl t.isLt }
def State.setSlot (s : State) (c : Nat) (t : Fin 4) (sl : Slot) : State := s.setCore c ((s.coreAt c).setSlot t sl)
def State.clusterAt (s : State) (k : Nat) : Cluster := (tget s.clusters k).getD Cluster.reset
def State.setCluster (s : State) (k : Nat) (x : Cluster) : State := { s with clusters := tset s.clusters k x }
def State.courseAt (s : State) (k : Nat) : Course := (tget s.courses k).getD Course.reset
def State.setCourse (s : State) (k : Nat) (x : Course) : State := { s with courses := tset s.courses k x }
def State.dieAt (s : State) (d : Nat) : Die := (tget s.dies d).getD Die.reset
def State.setDie (s : State) (d : Nat) (x : Die) : State := { s with dies := tset s.dies d x }

/-- Die, course and cluster of a physical core number (R11, R12). -/
def dieOf (c : Nat) : Nat := c % 8192 / 2048
def courseOf (c : Nat) : Nat := dieOf c * 128 + c / 32 % 64 * 2 + (if 16 ≤ c % 32 then 1 else 0)
def clusterOf (c : Nat) : Nat := dieOf c * 32 + c / 32 % 64 / 2
/-- The number under which what a context left at a logical core stands while it is switched out (R291). -/
def savedNum (ctx : Nat) (n : BitVec 13) : Nat := 8192 * (ctx + 1) + n.toNat

/-- The core and slot whose unit issues, and its thread. -/
def State.co (s : State) : Core := s.coreAt s.curCore
def State.sl (s : State) : Slot := s.slotAt s.curCore s.curSlot
def State.th (s : State) : Thread := s.sl.thread
def State.setCo (s : State) (x : Core) : State := s.setCore s.curCore x
def State.setSl (s : State) (x : Slot) : State := s.setSlot s.curCore s.curSlot x
def State.setTh (s : State) (x : Thread) : State := s.setSl { s.sl with thread := x }

/-- General register r (R65). -/
def State.g (s : State) (r : Fin 16) : Word := s.th.g.get r
def Thread.setG (th : Thread) (r : Fin 16) (x : Word) : Thread := { th with g := th.g.set r.val x r.isLt }
def Thread.setP (th : Thread) (r : Fin 4) (x : Bool) : Thread := { th with p := th.p.set r.val x r.isLt }
def Slot.setV (sl : Slot) (r : Fin 16) (x : VWord) : Slot := { sl with v := sl.v.set r.val x r.isLt }
def Slot.setM (sl : Slot) (r : Fin 8) (x : Word) : Slot := { sl with m := sl.m.set r.val x r.isLt }
def State.writeG (s : State) (r : Fin 16) (x : Word) : State := s.setTh (s.th.setG r x)
def State.writeP (s : State) (r : Fin 4) (x : Bool) : State := s.setTh (s.th.setP r x)
/-- ws with CODE and DETAIL (R66). -/
def wsWord (code : BitVec 8) (detail : BitVec 32) : Word := w64 (code.toNat + detail.toNat * 4294967296)
def State.writeWs (s : State) (code : BitVec 8) (detail : BitVec 32) : State :=
  s.setTh { s.th with ws := wsWord code detail }
def wsCode (ws : Word) : BitVec 8 := ws.setWidth 8

/-- The codes of ws (R66). -/
def codeDone : BitVec 8 := 0
def codeDeadline : BitVec 8 := 1
def codeCap : BitVec 8 := 2
def codeWithdrawn : BitVec 8 := 3
def codeAborted : BitVec 8 := 4
def codePartial : BitVec 8 := 5
def codeRefused : BitVec 8 := 6

/-! ## Task records and messages -/

/-- A field of a record or message: `n` bits from bit `lo`. -/
def recBits (r : BitVec 512) (lo n : Nat) : Nat := bitsOf r.toNat lo n
def recKHandle (r : Rec) : BitVec 32 := BitVec.ofNat 32 (recBits r 0 32)
def recEntry (r : Rec) : BitVec 32 := BitVec.ofNat 32 (recBits r 32 32)
def recDict (r : Rec) : BitVec 32 := BitVec.ofNat 32 (recBits r 64 32)
def recLid (r : Rec) : BitVec 20 := BitVec.ofNat 20 (recBits r 96 20)
def recTstamp (r : Rec) : Word := w64 (recBits r 128 64)
def recBudget (r : Rec) : BitVec 32 := BitVec.ofNat 32 (recBits r 192 32)
def recFlags (r : Rec) : BitVec 32 := BitVec.ofNat 32 (recBits r 224 32)
def recArg (r : Rec) (i : Nat) : Word := w64 (recBits r (256 + 64 * i) 64)
/-- FLAGS fields (R31). -/
def recCanc (r : Rec) : BitVec 2 := BitVec.ofNat 2 (recBits r 230 2)
def recCtask (r : Rec) : BitVec 2 := BitVec.ofNat 2 (recBits r 228 2)
def recPrio (r : Rec) : BitVec 2 := BitVec.ofNat 2 (recBits r 226 2)
def recIrr (r : Rec) : Bool := recBits r 224 1 == 1
def tsDomain (ts : Word) : BitVec 24 := BitVec.ofNat 24 (bitsOf ts.toNat 40 24)
def tsSeq (ts : Word) : BitVec 40 := BitVec.ofNat 40 (bitsOf ts.toNat 0 40)

/-- A record from its fields (R30). -/
def mkRec (khandle entry dict : BitVec 32) (lid : BitVec 20) (ts : Word) (budget flags : BitVec 32) (a0 a1 a2 a3 : Word) :
    Rec :=
  BitVec.ofNat 512 (khandle.toNat + entry.toNat * 2 ^ 32 + dict.toNat * 2 ^ 64 + lid.toNat * 2 ^ 96 + ts.toNat * 2 ^ 128
    + budget.toNat * 2 ^ 192 + flags.toNat * 2 ^ 224 + a0.toNat * 2 ^ 256 + a1.toNat * 2 ^ 320 + a2.toNat * 2 ^ 384
    + a3.toNat * 2 ^ 448)

/-- Header fields of a message (R39). -/
def msgTag (m : Msg) : BitVec 8 := BitVec.ofNat 8 (recBits m 0 8)
def msgLen (m : Msg) : Nat := min (recBits m 8 8) 48
def msgScore (m : Msg) : BitVec 13 := BitVec.ofNat 13 (recBits m 16 13)
def msgSchip (m : Msg) : BitVec 16 := BitVec.ofNat 16 (recBits m 32 16)
def msgLid (m : Msg) : BitVec 20 := BitVec.ofNat 20 (recBits m 48 20)
def msgSkind (m : Msg) : BitVec 4 :=
  let k := recBits m 68 4
  if k < 4 then BitVec.ofNat 4 k else 0
def mkMsg (tag len : BitVec 8) (score : BitVec 13) (schip : BitVec 16) (lid : BitVec 20) (skind : BitVec 4)
    (cstat : BitVec 8) (payload : Nat) : Msg :=
  BitVec.ofNat 512 (tag.toNat + len.toNat * 2 ^ 8 + score.toNat * 2 ^ 16 + schip.toNat * 2 ^ 32 + lid.toNat * 2 ^ 48
    + skind.toNat * 2 ^ 68 + cstat.toNat * 2 ^ 72 + payload % 2 ^ 384 * 2 ^ 128)

/-! ## Logical core numbers -/

/-- The physical core of a present logical number (R48, R355). -/
def State.physOf (s : State) (n : BitVec 13) : Option Nat :=
  match tget s.fw.l2p n.toNat with
  | some e => if e.getLsbD 31 then some (bitsOf e.toNat 0 13) else none
  | none => none
/-- The logical number of a physical core, or of what stands saved; 0 where none names it. -/
def State.logOf (s : State) (c : Nat) : BitVec 13 :=
  if 8192 ≤ c then BitVec.ofNat 13 (c % 8192) else match s.fw.l2p.find? fun e => e.2.getLsbD 31 && bitsOf e.2.toNat 0 13 == c with
  | some e => BitVec.ofNat 13 e.1
  | none => 0

/-- Where a context's queues and threads of a core stand: the core itself while the context is resident, else what it left there. -/
def State.homeNum (s : State) (ctx c : Nat) : Nat := if (s.coreAt c).ctx = some ctx then c else savedNum ctx (s.logOf c)

/-- The context whose core a number names: the resident one, or the one that left what stands there. -/
def State.homeCtx (s : State) (c : Nat) : Option Nat := if 8192 ≤ c then some (c / 8192 - 1) else (s.coreAt c).ctx
/-- The handle of a thread (R304). -/
def State.threadItem (s : State) (c : Nat) (t : Fin 4) : Word :=
  w64 ((s.slotAt c t).tseq.toNat * 32768 + t.val * 8192 + (s.logOf c).toNat)
/-- The name by which a token calls an absent thread (R253): its handle, with its context. -/
def State.absentName (s : State) (ctx c : Nat) (t : Fin 4) : Word := w64 (ctx * 2 ^ 32 + (s.threadItem c t).toNat)

/-- The chip number of the configuration table in force (R382). -/
def State.chip (s : State) : BitVec 16 := BitVec.ofNat 16 (leNat ((s.fw.table.drop 8).take 2))

/-! ## Lineages (R23 to R29) -/

/-- The table key of LID l of a context. -/
def linKey (ctx : Nat) (l : BitVec 20) : Nat := ctx * 1048576 + l.toNat
def State.lineage? (s : State) (ctx : Nat) (l : BitVec 20) : Option Lineage := tget s.lineages (linKey ctx l)
def State.setLineage (s : State) (ctx : Nat) (l : BitVec 20) (x : Lineage) : State :=
  { s with lineages := tset s.lineages (linKey ctx l) x }

/-- The least EXPIRY among a lineage and its ancestors (R24), looking at most `fuel` ancestors up. -/
def effExpiryAt (lins : Tab Lineage) (ctx : Nat) : Nat → BitVec 20 → Word
  | 0, _ => BitVec.allOnes 64
  | fuel + 1, l =>
    match tget lins (linKey ctx l) with
    | none => 0
    | some x =>
      match x.parent with
      | none => x.expiry
      | some p => let e := effExpiryAt lins ctx fuel p; if x.expiry ≤ e then x.expiry else e
/-- The effective expiry (R24). -/
def State.effExpiry (s : State) (ctx : Nat) (l : BitVec 20) : Word :=
  effExpiryAt s.lineages ctx (s.lineages.length + 1) l

/-- Whether a lineage or an ancestor has left LIVE (R24). -/
def notLiveAt (lins : Tab Lineage) (ctx : Nat) : Nat → BitVec 20 → Bool
  | 0, _ => false
  | fuel + 1, l =>
    match tget lins (linKey ctx l) with
    | none => true
    | some x => x.state != .live || (match x.parent with | none => false | some p => notLiveAt lins ctx fuel p)
/-- `Annulled(l)` (R7, R24). -/
def State.annulled (s : State) (ctx : Nat) (l : BitVec 20) : Bool :=
  notLiveAt s.lineages ctx (s.lineages.length + 1) l || decide (s.effExpiry ctx l ≤ s.instant)

/-- LIVE raised (R23). -/
def State.liveUp (s : State) (ctx : Nat) (l : BitVec 20) : State :=
  match s.lineage? ctx l with
  | some x => s.setLineage ctx l { x with live := x.live + 1 }
  | none => s
/-- LIVE lowered; an expired or annulled entry whose LIVE reaches 0 is freed, and a parent then counts one child less (R23,
R25). -/
def liveDownAt (lins : Tab Lineage) (ctx : Nat) : Nat → BitVec 20 → Tab Lineage
  | 0, _ => lins
  | fuel + 1, l =>
    match tget lins (linKey ctx l) with
    | none => lins
    | some x =>
      let n := x.live - 1
      if n = 0 && x.state != .live then
        let rest := terase lins (linKey ctx l)
        match x.parent with
        | some p => liveDownAt rest ctx fuel p
        | none => rest
      else tset lins (linKey ctx l) { x with live := n }
def State.liveDown (s : State) (ctx : Nat) (l : BitVec 20) : State :=
  { s with lineages := liveDownAt s.lineages ctx (s.lineages.length + 1) l }
/-- The lineage of the current thread changes: its task's count in LIVE moves, except that a group follower, which is counted in none, moves none (R23,
R271, log 24). -/
def State.moveCount (s : State) (ctx : Nat) (old new : BitVec 20) : State :=
  match s.sl.group with
  | some (.follower ..) => s
  | _ => (s.liveUp ctx new).liveDown ctx old
/-- A lineage leaves LIVE; with LIVE count 0 it is freed at once (R25). -/
def State.leaveLive (s : State) (ctx : Nat) (l : BitVec 20) (st : LState) : State :=
  match s.lineage? ctx l with
  | some x =>
    if x.state != .live then s
    else if x.live = 0 then
      let rest := { s with lineages := terase s.lineages (linKey ctx l) }
      match x.parent with
      | some p => rest.liveDown ctx p
      | none => rest
    else s.setLineage ctx l { x with state := st }
  | none => s
/-- The lowest LID of a context that no unfreed entry uses; none when the chip's table is full (R16, R28). -/
def State.freeLid (s : State) (ctx : Nat) : Option (BitVec 20) :=
  if 1048576 ≤ s.lineages.length then none
  else
    ((List.range (s.lineages.length + 2)).find? fun l => l != 0 && (tget s.lineages (ctx * 1048576 + l)).isNone).map
      (BitVec.ofNat 20)
/-- A lineage notes that it has sent to a peer (R342). -/
def State.noteSent (s : State) (ctx : Nat) (l : BitVec 20) (peer : Nat) : State :=
  match s.lineage? ctx l with
  | some x => if x.sentTo.contains peer then s else s.setLineage ctx l { x with sentTo := x.sentTo ++ [peer] }
  | none => s

/-! ## Contexts -/

def State.ctx? (s : State) (k : Nat) : Option Context := tget s.contexts k
def State.setCtx (s : State) (k : Nat) (x : Context) : State := { s with contexts := tset s.contexts k x }
/-- Word i of a context's descriptor (R278); 0 where the context is not live. -/
def State.descWord (s : State) (k : Nat) (i : Fin 14) : Word :=
  match s.ctx? k with
  | some x => x.desc.get i
  | none => 0
/-- The context of the current thread's task; 0 where the slot holds none. -/
def State.curCtx (s : State) : Nat :=
  match s.sl.task with
  | some k => k.ctx
  | none => s.co.ctx.getD 0
/-- The number of the current task (log 6). -/
def State.curTask (s : State) : Nat :=
  match s.sl.task with
  | some k => k.id
  | none => 0
/-- Whether the current task is speculative (R31). -/
def State.spec (s : State) : Bool :=
  match s.sl.task with
  | some k => k.spec
  | none => false
/-- Who issues an engine operation now. -/
def State.issuer (s : State) : Issuer :=
  ⟨s.curCore, s.curSlot, s.curCtx, s.th.lid, s.curTask, s.th.priv, s.th.pc⟩

/-! ## Monitor samples (R357, R358) -/

def Figures.empty : Figures := ⟨0, 0, 0, List.replicate 16 0⟩
/-- The bin of a sample (R357). -/
def monBin (v shift : Nat) : Nat := min 15 (Nat.log2 (max (v / 2 ^ shift) 1))
def Figures.add (f : Figures) (v : Word) (shift : Nat) : Figures :=
  let b := monBin v.toNat shift
  { min := if f.count = 0 || v < f.min then v else f.min
    max := if f.count = 0 || f.max < v then v else f.max
    count := f.count + 1
    bins := f.bins.mapIdx fun i n => if i = b && n != BitVec.allOnes 32 then n + 1 else n }
def Monitor.src (m : Monitor) : Nat := bitsOf m.sel.toNat 0 4
def Monitor.shift (m : Monitor) : Nat := bitsOf m.sel.toNat 8 5
/-- A sample of a source, taken by every unit of the die that selects it (R358). -/
def State.sample (s : State) (die src : Nat) (v : Word) : State :=
  match (s.dieAt die).monitors with
  | [] => s
  | ms => s.setDie die { s.dieAt die with
      monitors := ms.map fun (u, m) => if m.src = src then (u, { m with now := m.now.add v m.shift }) else (u, m) }

/-! ## The privileged queue (R245, R296, R300) -/

/-- Number of a fresh task (log 6). -/
def State.fresh (s : State) : State × Nat := ({ s with nextTask := s.nextTask + 1 }, s.nextTask)
/-- A task's place in its domain's queue (R196). -/
def State.enterDq (s : State) (id ctx : Nat) (ts : Word) : State :=
  { s with dq := s.dq ++ [DqEntry.mk id ctx (tsDomain ts) (tsSeq ts)] }
/-- A record queued under a fresh number; as every queued task it stands in DQ and counts in LIVE, under LID 0 (R23, R27, R196). -/
def State.pushPriv (s : State) (r : PrivRec) : State :=
  let (s, id) := s.fresh
  ({ s with priv := s.priv ++ [{ r with id := id }] }.enterDq id r.ctx (recTstamp r.record)).liveUp r.ctx 0

/-- A wait-cap record as a further CAP ending of its slot leaves it: doublewords 0 to 2 and the count are replaced, the other fields stay. -/
def mergeCap (old new : Rec) : Rec :=
  mkRec (recKHandle old) (recEntry old) (recDict old) (recLid old) (recTstamp old) (recBudget old) (recFlags old)
    (recArg new 0) (recArg new 1) (recArg new 2) (w64 (bitsOf (recArg old 3).toNat 32 32 * 2 ^ 32 + bitsOf (recArg new 3).toNat 0 32))
/-- The wait-cap event of a slot's CAP ending (R245). A queued event of the same slot stands for one ending more. R245 gives the record's DICT and
BUDGET no value: both are 0 (log 119). -/
def State.waitCapEvent (s : State) (c : Nat) (t : Fin 4) (ctx : Nat) (opc : Nat) (lid : BitVec 20) (pc cap : Word) : State :=
  let hand := s.descWord ctx 10
  let capW := if cap.toNat < 2 ^ 32 then cap.toNat else 2 ^ 32 - 1
  let queued := s.priv.any fun r => r.src == .waitCap c t
  let old := (s.slotAt c t).capEvents
  let n : BitVec 32 := if queued then (if old = BitVec.allOnes 32 then old else old + 1) else 1
  let r : PrivRec :=
    { id := 0, core := c, ctx := ctx
      record := mkRec (hand.setWidth 32) (BitVec.ofNat 32 (bitsOf hand.toNat 32 32)) 0 0 0 0 0xD s.instant
        (w64 (opc * 2 ^ 56 + lid.toNat * 2 ^ 36 + t.val * 2 ^ 34 + (s.logOf c).toNat)) pc (w64 (capW * 2 ^ 32 + n.toNat))
      carried := none, src := .waitCap c t, ready := s.instant, held := false }
  let s := s.setSlot c t { s.slotAt c t with capEvents := n }
  if queued then
    { s with priv := s.priv.map fun x => if x.src == .waitCap c t then { x with record := mergeCap x.record r.record } else x }
  else s.pushPriv r

/-! ## The inbox (R39, R40, R247) -/

/-- Entries of kinds 2 and 3. -/
def Core.msgCount (x : Core) : Nat :=
  (x.inbox.filter fun e => match e.2.entry with | .message .. => true | .completion .. => true | _ => false).length
/-- Room for one more message or completion: at most 112, those reserved counted (R247). -/
def Core.msgRoom (x : Core) : Bool :=
  decide (x.msgCount + x.inboxHeld < 112) && decide (x.inbox.length + x.inboxHeld + x.pkgHeld < 128)
/-- Free entries for records and packages (R247). -/
def Core.recRoom (x : Core) (n : Nat) : Bool := decide (x.inbox.length + x.inboxHeld + x.pkgHeld + n ≤ 128)
/-- An entry placed in the lowest free place of the inbox, with its number. -/
def Core.putIn (x : Core) (e : InEntry) (ctx : Nat) (now : Word) : Core × Nat :=
  let k := (tfree x.inbox 128).getD 127
  ({ x with inbox := tset x.inbox k ⟨e, ctx, now, x.nextOrder, false, none, false⟩, nextOrder := x.nextOrder + 1 }, k)
/-- Whether a message has been forwarded a fourth time and is only to be delivered as a "no handler" fault record (R343): it waits for that
where the die's pool is full, and nothing else takes it (log 90). -/
def stray (hops : Nat) : Bool := decide (4 ≤ hops)
/-- Whether an inbox entry only waits to be forwarded: one that its handler has taken, or that `tag.clr` has cleared (R270). -/
def InSlot.taken (e : InSlot) : Bool := e.started || e.cleared
/-- TAGPEND: a bit for each tag of a waiting message or completion of the resident context (R40, R276). -/
def Core.tagpend (x : Core) : BitVec 256 :=
  x.inbox.foldl (fun acc e =>
    if e.2.taken || x.ctx != some e.2.ctx then acc
    else match e.2.entry with
      | .message m hops => if stray hops then acc else acc ||| BitVec.twoPow 256 (msgTag m).toNat
      | .completion m => acc ||| BitVec.twoPow 256 (msgTag m).toNat
      | _ => acc) 0
/-- An engine completion appended to the issuing core's inbox, or left waiting in its engine with the place it holds there (R49, R247). The
operation's count in LIVE passes to the entry (R23). -/
def State.postCompletion (s : State) (c : Nat) (who : Issuer) (m : Msg) (cmuId harpId : Option Nat) : State :=
  let x := s.coreAt c
  if x.msgRoom && x.pending.isEmpty then s.setCore c (x.putIn (.completion m) who.ctx s.instant).1
  else s.setCore c { x with pending := x.pending ++ [⟨who, m, cmuId, harpId⟩] }

/-! ## Cells and aborts (R192, R194) -/

/-- A granule's cell recalled to where a step needs it (R192). -/
def State.placeCell (s : State) (gran : Nat) (p : Option Place) : State :=
  let rest := s.places.filter fun e => e.1 != gran
  match p with
  | none => { s with places := rest }
  | some (.cluster k) => { s with places := rest ++ [(gran, .cluster k)] }
  | some .hot =>
    let hot := rest.filter fun e => e.2 == .hot
    let keep := if 512 ≤ hot.length then
        match hot.head? with
        | some old => rest.filter fun e => e != old
        | none => rest
      else rest
    { s with places := keep ++ [(gran, .hot)] }

/-- A credit reserved at a target given back (R230, R233): a local inbox place, a peer's place, or a place in a delegation queue. -/
def State.freeCredit (s : State) (ctx : Nat) (isDeleg : Bool) (target : MsgTarget) : State :=
  match target with
  | .localCore d =>
    let x := s.coreAt d
    s.setCore d (if isDeleg then { x with delegHeld := x.delegHeld - 1 } else { x with inboxHeld := x.inboxHeld - 1 })
  | .peerCore p _ => { s with credits := tset s.credits (ctx * 32 + p) ((tget s.credits (ctx * 32 + p)).getD 1 - 1) }
/-- Held deque places and other reservations of a discarded commit buffer given back (R194, R230, R257): the places are freed, the
spawn parent counts one child less, and LIVE falls for each held record and message. -/
def State.dropCb (s : State) (c : Nat) (ctx : Nat) (cb : List CbEntry) : State :=
  cb.foldl (fun s e => match e with
    | .store .. => s
    | .deque place r _ =>
      let x := s.coreAt c
      (s.setCore c { x with deque := x.deque.filter fun d => d.place != place }).liveDown ctx (recLid r)
    | .message target m => (s.freeCredit ctx false target).liveDown ctx (msgLid m)
    | .deleg d q => (s.freeCredit ctx true (.localCore d)).liveDown ctx q.lid) s
/-- Held records in a commit buffer: the children that vanish with it. -/
def heldRecords (cb : List CbEntry) : Nat :=
  (cb.filter fun e => match e with | .deque .. => true | _ => false).length

/-- The commit-ready mark of a task forgotten. -/
def State.unready (s : State) (id : Nat) : State := { s with ready := s.ready.filter fun e => e.1 != id }

/-! ## Barrier objects (R220, R221, R226, R227) -/

/-- The value of a barrier (R220), without KIND. -/
structure BarV where
  abrt : Bool
  phase : BitVec 16
  arrived : BitVec 16
  expected : BitVec 16
  expb : BitVec 32
  gotb : BitVec 32
  deriving DecidableEq, Repr

/-- A barrier from its two words; none where KIND is not 0b01. -/
def barOf (w0 w1 : Word) : Option BarV :=
  if bitsOf w0.toNat 62 2 = 1 then
    some ⟨w0.getLsbD 61, BitVec.ofNat 16 (bitsOf w0.toNat 32 16), BitVec.ofNat 16 (bitsOf w0.toNat 16 16),
      BitVec.ofNat 16 (bitsOf w0.toNat 0 16), BitVec.ofNat 32 (bitsOf w1.toNat 32 32), BitVec.ofNat 32 (bitsOf w1.toNat 0 32)⟩
  else none
def BarV.w0 (b : BarV) : Word :=
  w64 (2 ^ 62 + b.abrt.toNat * 2 ^ 61 + b.phase.toNat * 2 ^ 32 + b.arrived.toNat * 2 ^ 16 + b.expected.toNat)
def BarV.w1 (b : BarV) : Word := w64 (b.expb.toNat * 2 ^ 32 + b.gotb.toNat)
/-- Whether the phase flips (R221). -/
def BarV.flips (b : BarV) : Bool :=
  decide (b.expected ≤ b.arrived) && decide (b.expb ≤ b.gotb) && decide (0 < b.expected.toNat + b.expb.toNat)
/-- The barrier after a flip, where the counts are met (R221). -/
def BarV.settle (b : BarV) : BarV :=
  if b.flips then { b with phase := b.phase + 1, abrt := false, arrived := 0, gotb := 0, expb := 0 } else b
/-- One arrival, saturating (R224). -/
def BarV.arrive (b : BarV) : BarV :=
  BarV.settle { b with arrived := if b.arrived = 0xFFFF then b.arrived else b.arrived + 1 }
/-- EXPB raised, saturating (R223). -/
def BarV.expect (b : BarV) (bytes : BitVec 32) : BarV :=
  BarV.settle { b with expb := BitVec.ofNat 32 (min (b.expb.toNat + bytes.toNat) (2 ^ 32 - 1)) }
/-- Bytes counted, saturating (R213). -/
def BarV.gain (b : BarV) (n : Nat) : BarV :=
  BarV.settle { b with gotb := BitVec.ofNat 32 (min (b.gotb.toNat + n) (2 ^ 32 - 1)) }
/-- The abort of R227. -/
def BarV.abort (b : BarV) : BarV := { b with phase := b.phase + 1, abrt := true, arrived := 0, expb := 0, gotb := 0 }
/-- A withdrawal: ARRIVED falls where PHASE still equals p (R226). -/
def BarV.withdraw (b : BarV) (p : BitVec 16) : BarV := if b.phase = p then { b with arrived := b.arrived - 1 } else b

/-! ## Giving up a slot -/

/-- The slot with nothing running: the thread's state is gone (R329); vector state, the dictionary store and steps still to be taken stay. A store
whose reload after a switch-in has failed goes with the thread: its banks are then empty (R78, log 82). -/
def Slot.clear (sl : Slot) : Slot :=
  { sl with thread := Thread.reset, cb := [], rs := [], task := none, wait := none, pendA := none, park := none, halt := none, skip := none
            stepping := false, parkAsked := false, group := none, fwd := [], branchFrom := none, newPc := none, loopRaw := none, misTarget := none, remote := none
            inline := [], claim := 0, divider := 1, dictLag := [], lastLoad := none, stalled := false
            reload := none, dict := match sl.reload with | some .switchIn => Dict.empty | _ => sl.dict }
/-- The spawn parent of a slot's task: that of its outermost thread, which an inline child does not share (R35, R258). -/
def spawnParent (th : Thread) (inl : List Inline) : Option Nat :=
  match inl with
  | i :: _ => i.saved.parent
  | [] => th.parent
def Slot.parent (sl : Slot) : Option Nat := spawnParent sl.thread sl.inline
def Package.parent (pk : Package) : Option Nat := spawnParent pk.thread pk.inline

/-- The number of the task a slot holds; 0 where it holds none. -/
def Slot.taskId (sl : Slot) : Nat :=
  match sl.task with
  | some k => k.id
  | none => 0

/-- The lease of a cluster ends (R46); the harp state stays. -/
def State.endLease (s : State) (k : Nat) : State :=
  let x := s.clusterAt k
  s.setCluster k { x with harp := { x.harp with lease := none } }
/-- The lease that a task won ends, wherever the task stands (R46, event 4). -/
def State.endLeaseOf (s : State) (id : Nat) : State :=
  { s with clusters := s.clusters.map fun e => (e.1, { e.2 with harp := { e.2.harp with
      lease := e.2.harp.lease.filter fun l => l.tid != id } }) }

/-- A boost claim ends, and the course's level is again the highest claim of its threads (R352). -/
def State.courseLevel (s : State) (k : Nat) : BitVec 2 :=
  s.cores.foldl (fun acc e =>
    if courseOf e.1 = k && e.1 < 8192 then e.2.slots.toList.foldl (fun a sl => if a < sl.claim then sl.claim else a) acc else acc) 0
/-- A course takes a level (R347): a drop moves the clock at once, a rise waits for COURSE_CLOCK_RISE; the highest level of the
interval is kept (R350). -/
def State.setLevel (s : State) (k : Nat) (lv : BitVec 2) : State :=
  let x := s.courseAt k
  if x.level = lv then s
  else s.setCourse k { x with level := lv, clock := if lv < x.clock then lv else x.clock
                              highest := if x.highest < lv then lv else x.highest }
/-- Whether a course runs under a transfer in its die's present interval (R354). -/
def State.inTransfer (s : State) (k : Nat) : Bool := (s.courseAt k).transferAt == some (s.dieAt (k / 128)).interval
/-- The level of a course after its claims changed: the highest of them, at least 1 under a transfer; a course in fall keeps the level that
the fall gives it. -/
def State.relevel (s : State) (k : Nat) : State :=
  if (s.courseAt k).inFall then s
  else
    let lv := s.courseLevel k
    s.setLevel k (if lv = 0 && s.inTransfer k then 1 else lv)
/-- A course whose cores hold a thread is not idle for its interval (R350). -/
def State.touch (s : State) (c : Nat) : State :=
  s.setCourse (courseOf c) { s.courseAt (courseOf c) with busy := true }
def State.endClaim (s : State) (c : Nat) (t : Fin 4) : State :=
  let sl := s.slotAt c t
  let d := s.dieAt (dieOf c)
  let s := if (d.boostQ.any fun q => q.core == c && q.slot == t) then
      s.setDie (dieOf c) { d with boostQ := d.boostQ.filter fun q => !(q.core == c && q.slot == t) } else s
  if sl.claim = 0 then s else (s.setSlot c t { sl with claim := 0 }).relevel (courseOf c)

/-- The barrier at a place, where its KIND is 0b01. -/
def State.barRead (s : State) : BarRef → Option BarV
  | .core c i => match tget (s.coreAt c).sync i with | some (a, b) => barOf a b | none => none
  | .clu k i => match tget (s.clusterAt k).objs i with | some o => barOf o.w0 o.w1 | none => none
  | .dev pa _ => barOf (w64 (leNat (mbytes s.mem pa 8))) (w64 (leNat (mbytes s.mem (pa + 8) 8)))
  | .peer .. => none

/-- A reservation for a group given back (R264). -/
def Slot.unreserve (c : Nat) (t : Fin 4) (sl : Slot) : Slot :=
  if sl.reserved == some (c, t) then { sl with reserved := none } else sl

/-- What the end of a wait begun takes back besides the barrier withdrawal (R172, R244, R252): the harp claim, the place in the
boost queue, and slots reserved for a group. -/
def State.dropClaims (s : State) (c : Nat) (t : Fin 4) : State :=
  let k := clusterOf c
  let x := s.clusterAt k
  let s := if (x.harp.claims.any fun q => q.core == c && q.slot == t) then
      s.setCluster k { x with harp := { x.harp with claims := x.harp.claims.filter fun q => !(q.core == c && q.slot == t) } }
    else s
  let d := s.dieAt (dieOf c)
  let s := if (d.boostQ.any fun q => q.core == c && q.slot == t) then
      s.setDie (dieOf c) { d with boostQ := d.boostQ.filter fun q => !(q.core == c && q.slot == t) } else s
  { s with cores := s.cores.map fun e => (e.1, { e.2 with slots := e.2.slots.map (Slot.unreserve c t) }) }

/-- A thread leaves its group (R43, R44): a leader's end releases every follower slot, with its boost claim and its wait's claims (R352); a
follower's leaving takes it out of the member list and the mask. -/
def State.leaveGroup (s : State) (c : Nat) (t : Fin 4) : State :=
  match (s.slotAt c t).group with
  | none => s
  | some (.leader ms _ _) =>
    let s := s.setSlot c t { s.slotAt c t with group := none }
    ms.foldl (fun s m =>
      if m == (c, t) then s
      else match (s.slotAt m.1 m.2).group with
        | some (.follower lc lt _ _) =>
          if lc == c && lt == t then
            let s := (s.endClaim m.1 m.2).dropClaims m.1 m.2
            s.setSlot m.1 m.2 (s.slotAt m.1 m.2).clear
          else s
        | _ => s) s
  | some (.follower lc lt pos _) =>
    let s := s.setSlot c t { s.slotAt c t with group := none, fwd := [] }
    match (s.slotAt lc lt).group with
    | some (.leader ms p mask) =>
      s.setSlot lc lt { s.slotAt lc lt with
        group := some (.leader (ms.filter fun m => m != (c, t)) p (mask &&& ~~~ BitVec.twoPow 16 pos)) }
    | _ => s

/-- A task that ends leaves its domain's queue, and its commit-ready mark goes (R196). -/
def State.leaveDq (s : State) (id : Nat) : State :=
  { s with dq := s.dq.filter fun e => e.id != id, ready := s.ready.filter fun e => e.1 != id }

/-- The spawn parent, named by thread number, counts one child less, wherever it is (R34): in a slot, in a saved inline parent, in a
package. -/
def Thread.childDown (id : Nat) (th : Thread) : Thread :=
  if th.tid = id then { th with children := th.children - 1 } else th
def InSlot.childDown (id : Nat) (e : InSlot) : InSlot :=
  match e.entry with
  | .package p k (some pk) =>
    { e with entry := .package p k (some { pk with
        thread := pk.thread.childDown id, inline := pk.inline.map fun i => { i with saved := i.saved.childDown id } }) }
  | _ => e
def State.childDown (s : State) (parent : Option Nat) : State :=
  match parent with
  | none => s
  | some id =>
    { s with
      cores := s.cores.map fun e => (e.1, { e.2 with
        slots := e.2.slots.map fun sl => { sl with
          thread := sl.thread.childDown id
          inline := sl.inline.map fun i => { i with saved := i.saved.childDown id } }
        inbox := e.2.inbox.map fun q => (q.1, q.2.childDown id) })
      transit := s.transit.map fun pk => { pk with
        thread := pk.thread.childDown id, inline := pk.inline.map fun i => { i with saved := i.saved.childDown id } } }

/-- The inbox entry that a task holds, as its kind names it. -/
def TaskKind.entry : TaskKind → Option Nat
  | .handler _ e => some e
  | .supervisor _ e => e
  | _ => none
/-- The inbox entry of a handler, and the entry that carried an item to a supervisor task, are freed (R37, R297). -/
def State.freeTaskEntries (s : State) (k : TaskKind) : State :=
  match k.entry with
  | some e => let x := s.coreAt (e / 128); s.setCore (e / 128) { x with inbox := terase x.inbox (e % 128) }
  | none => s

/-- EST of a kernel after one of its tasks retires (R353): `cyc` cycles ran. -/
def State.learnEst (s : State) (ctx : Nat) (kh : BitVec 32) (cyc : Nat) : State :=
  match s.ctx? ctx with
  | some x =>
    match tget x.kernels kh.toNat with
    | some k => s.setCtx ctx { x with kernels := tset x.kernels kh.toNat { k with est := (3 * k.est + cyc) / 4 } }
    | none => s
  | none => s

/-- A barrier's words put in its place. -/
def State.barPut (s : State) (r : BarRef) (b : BarV) : State :=
  match r with
  | .core c i => let x := s.coreAt c; s.setCore c { x with sync := tset x.sync i (b.w0, b.w1) }
  | .clu k i =>
    let x := s.clusterAt k
    match tget x.objs i with
    | some o => s.setCluster k { x with objs := tset x.objs i { o with w0 := b.w0, w1 := b.w1 } }
    | none => s
  | .dev pa _ => { s with mem := mputs s.mem pa (leBytes 8 b.w0.toNat ++ leBytes 8 b.w1.toNat) }
  | .peer .. => s
/-- The latest arrival of a slot taken out of a list of arrivals. -/
def dropArrival (c : Nat) (t : Fin 4) (l : List (Nat × Fin 4 × Word)) : List (Nat × Fin 4 × Word) :=
  (l.reverse.eraseP fun a => a.1 == c && a.2.1 == t).reverse
/-- The withdrawal from a phase that the end of a `bar.sync` wait of a slot takes (R226): the slot's own arrival, and no other, goes. -/
def State.withdrawPut (s : State) (r : BarRef) (b : BarV) (p : BitVec 16) (c : Nat) (t : Fin 4) : State :=
  let s := s.barPut r (b.withdraw p)
  match r with
  | .clu k i =>
    let x := s.clusterAt k
    (match tget x.objs i with
      | some o => if b.phase = p then
          s.setCluster k { x with objs := tset x.objs i { o with arrivals := dropArrival c t o.arrivals } } else s
      | none => s)
  | _ => s

/-- The credit that a `send` or `deleg` holds while its task makes the transition given back. -/
def State.freeWaitCredit (s : State) (c : Nat) (t : Fin 4) : State :=
  let sl := s.slotAt c t
  let ctx := match sl.task with | some k => k.ctx | none => 0
  match sl.wait with
  | some w => (match w.credit with
    | some m => s.freeCredit ctx (match w.instr with | .deleg .. => true | _ => false) m
    | none => s)
  | none => s
/-- The absence token of a thread removed (R253): here, or by a message to the object's home. -/
def State.dropToken (s : State) (c : Nat) (t : Fin 4) : State :=
  let sl := s.slotAt c t
  match sl.token with
  | none => s
  | some r =>
    let ctx := match sl.task with | some k => k.ctx | none => 0
    let name := s.absentName ctx c t
    let s := { s with tokens := s.tokens.filter fun k => !(k.chip == none && k.thread == name) }
    let s := s.setSlot c t { sl with token := none }
    match r with
    | .peer p pa => { s with sent := s.sent ++ [.tokenGone ctx p name pa] }
    | _ => s
/-- A gate that has not taken its step withdrawn, with nothing decremented (R218). -/
def State.dropGate (s : State) (k : Nat) : State :=
  { s with op := s.op.filter fun e => e.ft != k, lq := s.lq.filter fun e => e.ft != some k, ft := s.ft.filter fun e => e.id != k }
/-- What becomes of the request that a slot's unit has sent when the unit is given up (R226, R252, R311): a `bar.sync` withdraws its arrival,
at once where the arrival is taken and the object is this chip's, else by a step still to be taken (log 81); a gate not yet passed is
withdrawn (R218). Where a `bar.init` has ended the wait, there is nothing to withdraw (R223). Every other request stands: it stays with the unit,
whose replay then goes on with it and repeats no effect, and where the task ends it is still taken. -/
def State.giveUpRequest (s : State) (c : Nat) (t : Fin 4) (isSync ends : Bool) : State :=
  let sl := s.slotAt c t
  let drop := s.setSlot c t { sl with remote := none }
  let later (req : RemoteReq) : State := s.setSlot c t { sl with remote := none, orphans := sl.orphans ++ [(sl.taskId, req)] }
  match sl.remote with
  | none => s
  | some ⟨.withdraw _ _ _, some _⟩ => drop
  | some ⟨.withdraw r p code, none⟩ => later (.withdraw r p code)
  | some ⟨.trySync _ _, some _⟩ => drop
  | some ⟨.trySync r code, none⟩ => later (.trySync r code)
  | some ⟨.gate _, some _⟩ => if ends then drop else s
  | some ⟨.gate k, none⟩ => drop.dropGate k
  | some ⟨.amo _, _⟩ => if ends then drop else s
  | some ⟨req, ans⟩ =>
    match req, ans, isSync with
    | .barArrive r, some a, true =>
      let p : BitVec 16 := a.value.setWidth 16
      if (sl.wait.bind fun w => w.ended).isSome then drop
      else (match r, s.barRead r with
        | .peer .., _ => later (.withdraw r (some p) 255)
        | _, some b => drop.withdrawPut r b p c t
        | _, none => drop)
    | .barArrive r, none, true => later (.withdraw r none 255)
    | _, some _, _ => if ends then drop else s
    | _, none, _ => if ends then later req else s
/-- A unit given up without a status (R226, R252): its wait's claims are taken back, and its request is dealt with. `ends` where its task ends
or re-runs. -/
def State.abandonWait (s : State) (c : Nat) (t : Fin 4) (ends : Bool) : State :=
  let isSync := match (s.slotAt c t).wait with | some w => (match w.instr with | .barSync .. => true | _ => false) | none => false
  let s := if (s.slotAt c t).wait.isSome then (s.freeWaitCredit c t).dropClaims c t else s
  let s := s.giveUpRequest c t isSync ends
  s.setSlot c t { s.slotAt c t with wait := none, pendA := none }

/-! ## Aborts (R194) -/

/-- A task queued to re-run from its record at a core, with its place in DQ kept (R34): its count moves back from a lineage it had adopted to
its record's (R271). -/
def State.requeue (s : State) (c : Nat) (k : Task) (lid : BitVec 20) (parent : Option Nat) (divider : Nat) : State :=
  let s := if lid == recLid k.record then s else (s.liveUp k.ctx (recLid k.record)).liveDown k.ctx lid
  let x := s.coreAt c
  s.setCore c { x with rerun := x.rerun ++ [⟨⟨k.record, k.ctx, k.id, parent, s.instant, k.retries, divider⟩, k.kind⟩] }
/-- A speculative task aborted: its buffer and signature are emptied, and it re-runs from its record on the same core. A lease that it has won stays
its own (R46). -/
def State.abortTask (s : State) (c : Nat) (t : Fin 4) : State :=
  match (s.slotAt c t).task with
  | none => s
  | some k =>
    let s := (s.abandonWait c t true).dropToken c t
    let s := s.leaveGroup c t
    let s := s.endClaim c t
    let s := s.dropCb c k.ctx (s.slotAt c t).cb
    let s := s.unready k.id
    let s := { s with ft := s.ft.filter fun e => e.owner != k.id || e.msg.isSome }
    let sl := s.slotAt c t
    (s.setSlot c t sl.clear).requeue c k sl.thread.lid sl.parent sl.divider
/-- A speculative task that stands in a package aborted: it re-runs at the core that the package is at or on its way to (R34, log 80). -/
def State.abortPackage (s : State) (c : Nat) (pk : Package) : State :=
  s.requeue c pk.task pk.thread.lid pk.parent pk.divider
/-- Every uncommitted speculative task but the writer whose signature holds a granule that fits is aborted (R194): in a slot, or in a package,
whose entries are then freed. -/
def State.abortWhere (s : State) (hits : Nat → Gran → Bool) (writer : Option (Nat × Fin 4)) : State :=
  let slots := s.cores.flatMap fun e => ([0, 1, 2, 3] : List (Fin 4)).filterMap fun t =>
    let sl := e.2.slots.get t
    match sl.task with
    | some k => if sl.rs.any (hits k.ctx) && some (e.1, t) != writer then some (e.1, t) else none
    | none => none
  let s := slots.foldl (fun s e => s.abortTask e.1 e.2) s
  let pks := s.cores.flatMap fun e => e.2.inbox.filterMap fun q => match q.2.entry with
    | .package _ id (some pk) => if pk.rs.any (hits pk.task.ctx) then some (e.1, id, pk) else none
    | _ => none
  let s := pks.foldl (fun s e =>
    let x := s.coreAt e.1
    (s.setCore e.1 { x with
      inbox := x.inbox.filter fun q => match q.2.entry with | .package _ i _ => i != e.2.1 | _ => true }).abortPackage e.1 e.2.2) s
  let gone := s.transit.filter fun pk => pk.rs.any (hits pk.task.ctx)
  gone.foldl (fun s pk =>
    let x := s.coreAt pk.target
    (({ s with transit := s.transit.erase pk }).setCore pk.target { x with pkgHeld := x.pkgHeld - 4 }).abortPackage pk.target pk) s
/-- A granule of a context's own naming: the chip that homes it, where it is a peer's, and its number. -/
def State.granChip (s : State) (ctx : Nat) (g : Gran) : Option Nat × Nat :=
  (g.peer.bind fun p => (s.ctx? ctx).bind fun x => x.peers[p]?.map fun e => e.chip.toNat, g.num)
/-- Whether two peer indices of a context name one chip (R340): its link queue to that chip is one (R190). -/
def State.sameChip (s : State) (ctx : Nat) (p q : Option Nat) : Bool :=
  let chip (x : Option Nat) := (s.granChip ctx ⟨x, 0⟩).1
  p == q || ((chip p).isSome && chip p == chip q)
/-- Whether two names of a context are of one granule: two peer indices may name one chip. -/
def State.sameGran (s : State) (ctx : Nat) (a b : Gran) : Bool := a.num == b.num && s.sameChip ctx a.peer b.peer
/-- The aborts of a write of a granule of this chip (R194). -/
def State.abortReaders (s : State) (g : Gran) (writer : Option (Nat × Fin 4)) : State := s.abortWhere (fun _ x => x == g) writer
/-- The aborts of a write of a granule that a peer chip homes: by an entry of this chip that has arrived there, or as the peer's notice tells
(R194). -/
def State.abortRemote (s : State) (chip gran : Nat) (writer : Option (Nat × Fin 4)) : State :=
  s.abortWhere (fun ctx x => x.peer.isSome && s.granChip ctx x == (some chip, gran)) writer
/-- The same by a context's own peer index. -/
def State.abortPeer (s : State) (ctx p gran : Nat) (writer : Option (Nat × Fin 4)) : State :=
  match s.granChip ctx ⟨some p, gran⟩ with
  | (some chip, g) => s.abortRemote chip g writer
  | (none, _) => s
/-- What a step that writes a granule of this chip does besides its bytes: the cell is recalled to its home slice (R192), and its readers are
aborted (R194). -/
def State.wroteGran (s : State) (gran : Nat) (writer : Option (Nat × Fin 4)) : State :=
  (s.placeCell gran none).abortReaders ⟨none, gran⟩ writer
/-- The granules that some bytes from an address lie in. -/
def gransOf (pa n : Nat) : List Nat :=
  (List.range (n / 64 + 2)).filterMap fun i =>
    let g := pa / 64 + i
    if g * 64 < pa + n then some g else none
/-- Bytes written into cells of this chip in one step. -/
def State.writeCell (s : State) (pa : Nat) (bytes : List Byte) (writer : Option (Nat × Fin 4)) : State :=
  (gransOf pa bytes.length).foldl (fun s g => s.wroteGran g writer) { s with mem := mputs s.mem pa bytes }
/-- A granule of this chip written under a mask, in one step (R193). -/
def State.writeGran (s : State) (gran : Nat) (bytes : BitVec 512) (mask : BitVec 64) (writer : Option (Nat × Fin 4)) : State :=
  { s with mem := mputGran s.mem gran bytes mask }.wroteGran gran writer

/-- Where the step at a device object holds its cell: in the hot-word cache of the port unit under `.sys`, else at its home slice (R192, R221). -/
def barHome (port : Bool) : Option Place := if port then some .hot else none
/-- What a step that writes a device object does besides its words: the cell is recalled to the place of the step, and its readers are aborted (R192,
R194, R221). -/
def State.wroteObject (s : State) (r : BarRef) : State :=
  match r with
  | .dev pa port => (s.wroteGran (pa / 64) none).placeCell (pa / 64) (barHome port)
  | _ => s
/-- A barrier written at its place by a step. -/
def State.barWrite (s : State) (r : BarRef) (b : BarV) : State := (s.barPut r b).wroteObject r
/-- A withdrawal step (R226): PHASE before and after it. -/
def State.withdrawAt (s : State) (r : BarRef) (p : BitVec 16) (c : Nat) (t : Fin 4) : Option (State × BarV × BarV) :=
  match s.barRead r with
  | none => none
  | some b =>
    some ((s.withdrawPut r b p c t).wroteObject r, b, b.withdraw p)

/-! ## The end of a task (R34) -/

/-- The object at which a slot's `bar.sync` has arrived and still counts. -/
def Slot.syncObject (sl : Slot) : Option BarRef :=
  match sl.wait, sl.remote with
  | some w, some ⟨.barArrive r, some _⟩ => (match w.instr with | .barSync .. => if w.ended.isNone then some r else none | _ => none)
  | _, _ => none
/-- A unit given up, with what the withdrawal's write of a device object does (R192, R194). -/
def State.giveUp (s : State) (c : Nat) (t : Fin 4) (ends : Bool) : State :=
  let r := (s.slotAt c t).syncObject
  let s := s.abandonWait c t ends
  match r with
  | some r => s.wroteObject r
  | none => s
/-- The end of a slot's task that every way of ending shares (R34, R46, R201, R305, R352): the wait is given up, the group is left,
the claims and the lease end, the lineage and the spawn parent count less, and the slot is freed. A follower is no task of its own: it
counts nowhere and leaves nothing but its slot (R43, log 24). -/
def State.endTask (s : State) (c : Nat) (t : Fin 4) : State :=
  match (s.slotAt c t).task with
  | none => s.setSlot c t (s.slotAt c t).clear
  | some k =>
    let s := (s.giveUp c t true).dropToken c t
    let isFollower := match (s.slotAt c t).group with | some (.follower ..) => true | _ => false
    let s := s.leaveGroup c t
    let s := s.endClaim c t
    let s := s.endLeaseOf k.id
    if isFollower then s.setSlot c t (s.slotAt c t).clear else
    let s := s.dropCb c k.ctx (s.slotAt c t).cb
    let s := s.leaveDq k.id
    let s := s.freeTaskEntries k.kind
    let sl := s.slotAt c t
    let s := s.setSlot c t sl.clear
    let s := { s with ft := s.ft.filter fun e => e.owner != k.id || e.msg.isSome }
    (s.liveDown k.ctx sl.thread.lid).childDown sl.parent

/-! ## Cancelling engine operations (R49, R183, R219) -/

/-- Flags ORed into the summary word of a context in a cluster (R123). -/
def State.raise (s : State) (k ctx : Nat) (flags : BitVec 5) : State :=
  if flags = 0 then s
  else
    let x := s.clusterAt k
    s.setCluster k { x with cfsum := tset x.cfsum ctx ((tget x.cfsum ctx).getD 0 ||| flags) }

/-- A channel without its copies of some issuers; a next copy that then heads the queue starts (R211). -/
def Channel.start (ch : Channel) : Channel :=
  match ch.queue with
  | [] => ch
  | x :: r => if x.started then ch else { ch with cseq := x.cseq, doneb := 0, queue := { x with started := true } :: r }
def Channel.drop (ch : Channel) (p : Issuer → Bool) : Channel :=
  Channel.start { ch with queue := ch.queue.filter fun x => !p x.who }
/-- A cancelled harp command: `hldw` leaves in its place the zeroing of its plane under its sampled FMTB (R183), which counts no cycles and
belongs to no thread; every other command goes. -/
def HarpCmd.cancelled (p : Issuer → Bool) (x : HarpCmd) : Option HarpCmd :=
  if p x.who then
    (match x.kind, x.waiting with
      | .ldw .., false => some { x with kind := .clear, who := { x.who with tid := 0, lid := 0 }, cycles := 0, ntf := 0, flags := 0, park := none }
      | .clear, false => some x
      | _, _ => none)
  else some x
/-- Whether a command is what a cancelled `hldw` leaves. -/
def HarpCmd.isClear (x : HarpCmd) : Bool := match x.kind with | .clear => true | _ => false
/-- The zeroings that no command still to run stands before, performed. -/
def Harp.settleClear (h : Harp) : List HarpCmd → Harp
  | [] => h
  | x :: r =>
    if x.waiting then h.settleClear r
    else match x.kind with
      | .clear => Harp.settleClear { h with shadow := Plane.zero x.fmtb, queue := h.queue.filter fun y => y.id != x.id } r
      | _ => h
/-- A queue after a command has gone: what cancelled loads left at its head is performed. -/
def Harp.settle (h : Harp) : Harp := h.settleClear h.queue
/-- What is left of a harp's queue when the commands of some issuers are cancelled (R183). -/
def Harp.cancel (h : Harp) (p : Issuer → Bool) : Harp := Harp.settle { h with queue := h.queue.filterMap (HarpCmd.cancelled p) }
/-- The locks of engine operations, named by operation number, given up (R169). -/
def State.dropLocks (s : State) (ops : List Nat) : State :=
  if ops.isEmpty then s
  else { s with
    cores := s.cores.map fun e => (e.1, { e.2 with locks := e.2.locks.filter fun l => !ops.contains l.op })
    clusters := s.clusters.map fun e => (e.1, { e.2 with locks := e.2.locks.filter fun l => !ops.contains l.op }) }
/-- What a peer that works a group is told of the members whose operations are cancelled (R229). -/
def CollGroup.withdrawn (p : Issuer → Bool) (g : CollGroup) : List PeerOut :=
  match g.obj with
  | .peer q pa => (g.members.filter fun m => p m.who).map fun m => .memberGone m.who.ctx q pa m.rank
  | _ => []
/-- Every engine operation of some issuers cancelled: it posts nothing, its locks go, and its lineage counts it no more. An operation that
has run and waits for room counts through its completion. -/
def State.cancelOps (s : State) (p : Issuer → Bool) : State :=
  let copies : List Copy := s.cores.flatMap fun e => e.2.chans.toList.flatMap fun ch => ch.queue.filter fun x => p x.who
  let cmus : List CmuOp := s.cores.flatMap fun e => e.2.cmu.filter fun o => p o.who
  let posts : List PendingMsg := s.cores.flatMap fun e => e.2.pending.filter fun q => p q.who
  let harps : List HarpCmd := s.clusters.flatMap fun e => e.2.harp.queue.filter fun x => p x.who && !x.isClear
  let mems : List CollMember := s.colls.flatMap fun g => g.members.filter fun m => p m.who
  let gone : List Issuer := copies.map (·.who) ++ (cmus.filter fun o => !o.waiting).map (·.who) ++ posts.map (·.who)
    ++ (harps.filter fun x => !x.waiting).map (·.who) ++ mems.map (·.who)
  if copies.isEmpty && cmus.isEmpty && posts.isEmpty && harps.isEmpty && mems.isEmpty then s
  else
    let s := s.dropLocks (copies.map (·.lock) ++ cmus.map (·.id) ++ harps.map (·.id) ++ mems.map (·.lock))
    -- the flags of rows already written are recorded, though the operation is annulled (R123)
    let s := harps.foldl (fun s x => if x.waiting then s else s.raise (clusterOf x.who.core) x.who.ctx x.flags) s
    let s := { s with
      cores := s.cores.map fun e => (e.1, { e.2 with
        chans := e.2.chans.map fun ch => ch.drop p
        cmu := e.2.cmu.filter fun o => !p o.who
        pending := e.2.pending.filter fun q => !p q.who })
      clusters := s.clusters.map fun e => (e.1, { e.2 with harp := e.2.harp.cancel p })
      colls := s.colls.map fun g => { g with members := g.members.filter fun m => !p m.who }
      sent := s.sent ++ s.colls.flatMap fun g => g.withdrawn p }
    gone.foldl (fun s w => s.liveDown w.ctx w.lid) s

/-! ## Annulment (R24, R25, R201) -/

/-- Queued work of annulled lineages removed (R33, R40, R201): LIVE falls at each removal. -/
def InEntry.lidOf : InEntry → Option (BitVec 20)
  | .record q => some (recLid q.record)
  | .message m _ => some (msgLid m)
  | .completion m => some (msgLid m)
  | .package _ _ (some pk) => some pk.thread.lid
  | _ => none
/-- What the end of a task that stands in a package gives back, but for LIVE. -/
def State.endPackage (s : State) (pk : Package) : State :=
  (((s.leaveDq pk.task.id).childDown pk.parent).freeTaskEntries pk.task.kind).endLeaseOf pk.task.id
def State.purgeCore (s : State) (c : Nat) : State :=
  let x := s.coreAt c
  let dead := x.inbox.filter fun e =>
    !e.2.started && (match e.2.entry.lidOf with | some l => s.annulled e.2.ctx l | none => false)
  let s := dead.foldl (fun s e =>
    let s := match e.2.entry with
      | .record q => (s.leaveDq q.id).childDown q.parent
      | .package _ id (some pk) =>
        let y := s.coreAt c
        (s.setCore c { y with inbox := y.inbox.filter fun e =>
            match e.2.entry with | .package _ i _ => i != id | _ => true }).endPackage pk
      | _ => s
    let y := s.coreAt c
    match e.2.entry.lidOf with
    | some l => (s.setCore c { y with inbox := terase y.inbox e.1 }).liveDown e.2.ctx l
    | none => s) s
  let x := s.coreAt c
  let deadQ := x.deque.filterMap fun d => match d.rec? with
    | some q => if s.annulled q.ctx (recLid q.record) then some (d.place, q) else none
    | none => none
  let s := deadQ.foldl (fun s d =>
    let y := s.coreAt c
    (((s.setCore c { y with deque := y.deque.filter fun e => e.place != d.1 }).leaveDq d.2.id).liveDown d.2.ctx
      (recLid d.2.record)).childDown d.2.parent) s
  let x := s.coreAt c
  let deadR := x.rerun.filter fun r => s.annulled r.q.ctx (recLid r.q.record)
  let s := deadR.foldl (fun s r =>
    let y := s.coreAt c
    ((((s.setCore c { y with rerun := y.rerun.filter fun e => e.q.id != r.q.id }).leaveDq r.q.id).freeTaskEntries r.kind).liveDown
      r.q.ctx (recLid r.q.record)).childDown r.q.parent) s
  let x := s.coreAt c
  let deadD := x.delegQ.filter fun q => s.annulled q.ctx q.lid
  deadD.foldl (fun s q =>
    let y := s.coreAt c
    (s.setCore c { y with delegQ := y.delegQ.erase q }).liveDown q.ctx q.lid) s
/-- Graph nodes of annulled lineages freed (R267); GEN advances. -/
def State.freeNode (s : State) (d i : Nat) : State :=
  let x := s.dieAt d
  s.setDie d { x with nodes := terase x.nodes i, gens := tset x.gens i ((tget x.gens i).getD 0 + 1)
                      ready := x.ready.filter fun j => j != i }
def State.purgeNodes (s : State) (d : Nat) : State :=
  ((s.dieAt d).nodes.filter fun e => s.annulled e.2.task.ctx (recLid e.2.task.record)).foldl
    (fun s e => ((s.freeNode d e.1).leaveDq e.2.task.id).liveDown e.2.task.ctx (recLid e.2.task.record)) s
/-- The withdrawal that an annulled `bar.sync` still has to take before its task ends (R226): at a peer, or behind an arrival that has not been
taken. One at an object of this chip whose arrival is taken is taken at the annulment step itself. A group follower, which is no task of its own,
leaves its withdrawal behind (log 81). -/
def Slot.owes (sl : Slot) : Option RemoteReq :=
  match sl.wait, sl.remote, sl.group with
  | _, _, some (.follower ..) => none
  | some w, some ⟨req, ans⟩, _ =>
    if !(match w.instr with | .barSync .. => w.ended.isNone | _ => false) then none
    else (match req, ans with
      | .barArrive (.peer p pa), some a => some (.withdraw (.peer p pa) (some (a.value.setWidth 16)) 255)
      | .barArrive r, none => some (.withdraw r none 255)
      | .withdraw r p code, none => some (.withdraw r p code)
      | .trySync r code, none => some (.trySync r code)
      | _, _ => none)
  | _, _, _ => none
/-- An annulled task ends, or stands in its slot, out of its domain's queue, until its withdrawal has been answered (R201, R226). -/
def State.annulTask (s : State) (c : Nat) (t : Fin 4) : State :=
  let sl := s.slotAt c t
  match sl.owes with
  | none => s.endTask c t
  | some req =>
    (s.setSlot c t { sl with remote := some ⟨req, none⟩, wait := sl.wait.map fun w => { w with stage := 3 } }).leaveDq sl.taskId
/-- Whether a slot's task is annulled: no unit of it passes its timing check any more (R309). -/
def State.slotAnnulled (s : State) (c : Nat) (t : Fin 4) : Bool :=
  match (s.slotAt c t).task with
  | some k => s.annulled k.ctx (s.slotAt c t).thread.lid
  | none => false
/-- Annulled tasks whose withdrawals have been answered end (R226). -/
def State.settleSyncs (s : State) : State :=
  let done (sl : Slot) : Bool := match sl.remote with
    | some ⟨.withdraw .., some _⟩ => true
    | some ⟨.trySync .., some _⟩ => true
    | _ => false
  (s.cores.flatMap fun e => ([0, 1, 2, 3] : List (Fin 4)).filterMap fun t => if done (e.2.slots.get t) then some (e.1, t) else none).foldl
    (fun s e => if s.slotAnnulled e.1 e.2 then s.endTask e.1 e.2 else s) s
/-- A package in flight of an annulled lineage is removed, and its target's reserved places with it (R201). -/
def State.purgeTransit (s : State) : State :=
  let gone := s.transit.filter fun pk => s.annulled pk.task.ctx pk.thread.lid
  gone.foldl (fun s pk =>
    let x := s.coreAt pk.target
    ((({ s with transit := s.transit.erase pk }).setCore pk.target { x with pkgHeld := x.pkgHeld - 4 }).endPackage pk).liveDown
      pk.task.ctx pk.thread.lid) s
/-- Every thread of an annulled lineage ends as `stop` ends it, its engine operations are cancelled, and its queued work is removed. -/
def State.annulSweepBy (stop : State → Nat → Fin 4 → State) (s : State) : State :=
  let slots := s.cores.flatMap fun e => [(e.1, (0 : Fin 4)), (e.1, 1), (e.1, 2), (e.1, 3)]
  let s := slots.foldl (fun s e => if s.slotAnnulled e.1 e.2 then stop s e.1 e.2 else s) s
  let s := s.purgeTransit
  let s := s.cancelOps fun w => s.annulled w.ctx w.lid
  let s := s.cores.foldl (fun s e => s.purgeCore e.1) s
  s.dies.foldl (fun s e => s.purgeNodes e.1) s
/-- The sweep of an annulment step. -/
def State.annulSweep (s : State) : State := s.annulSweepBy State.annulTask
/-- Whether a message of a lineage is still on its way to a peer. -/
def State.messageOut (s : State) (ctx p : Nat) (l : BitVec 20) : Bool :=
  s.lq.any fun e => e.ctx == ctx && e.peer == p && (match e.body with | .message _ m _ => msgLid m == l | _ => false)
/-- The annul notices that no message of their lineage stands before are sent (R342). -/
def State.sendAnnuls (s : State) : State :=
  let due := s.annuls.filter fun e => !s.messageOut e.1 e.2.1 e.2.2
  if due.isEmpty then s
  else { s with
    annuls := s.annuls.filter fun e => s.messageOut e.1 e.2.1 e.2.2
    sent := s.sent ++ due.map fun e => .annulNotice e.2.1 e.1 e.2.2 }
/-- The notices an annulment other than expiry sends to the peers a lineage has sent to, each behind its messages (R342). -/
def State.annulNotices (s : State) (ctx : Nat) (l : BitVec 20) : State :=
  match s.lineage? ctx l with
  | some x => { s with annuls := s.annuls ++ x.sentTo.map fun p => (ctx, p, l) }.sendAnnuls
  | none => s
/-- Whether lineage l is a or a descendant of a. -/
def isUnder (lins : Tab Lineage) (ctx : Nat) (a : BitVec 20) : Nat → BitVec 20 → Bool
  | 0, _ => false
  | fuel + 1, l => l == a || (match tget lins (linKey ctx l) with
      | some x => (match x.parent with | some p => isUnder lins ctx a fuel p | none => false)
      | none => false)
/-- The unfreed LIDs of a context. -/
def State.lidsOf (s : State) (ctx : Nat) : List (BitVec 20) :=
  s.lineages.filterMap fun e => if e.1 / 1048576 = ctx then some (BitVec.ofNat 20 (e.1 % 1048576)) else none
/-- The annulment step of R201 for a lineage and its descendants, by `lannul`, a kill, a command or a teardown. -/
def State.annulLineage (s : State) (ctx : Nat) (l : BitVec 20) : State :=
  let all := (s.lidsOf ctx).filter fun j => isUnder s.lineages ctx l (s.lineages.length + 1) j
  let live := all.filter fun j => !s.annulled ctx j
  let s := live.foldl (fun s j => s.annulNotices ctx j) s
  let held := s
  -- every lineage leaves LIVE, then the work under it ends
  let s := { s with lineages := s.lineages.map fun (e : Nat × Lineage) =>
      if e.1 / 1048576 = ctx && live.contains (BitVec.ofNat 20 (e.1 % 1048576)) && e.2.state == LState.live then
        (e.1, { e.2 with state := .annulled }) else e }
  let s := s.annulSweep
  -- an entry with LIVE 0 never rests in ANNULLED
  (held.lidsOf ctx).reverse.foldl (fun s j => match s.lineage? ctx j with
    | some x => if x.state == .annulled && x.live = 0 then
        let rest := { s with lineages := terase s.lineages (linKey ctx j) }
        (match x.parent with | some p => rest.liveDown ctx p | none => rest)
      else s
    | none => s) s

end Sys2Proof.Machine
end

