-- ==== Sys2Proof/Machine/Crypto.lean ====
section
/-! DEFINITION. The digest and the signature check that bring-up and attestation use (R381, R382, R386): SHA-512, and ECDSA over P-521. The manual
names both and leaves their definitions to their standards, FIPS 180-4 and FIPS 186-4. -/

namespace Sys2Proof.Machine

/-! ## SHA-512 -/

/-- The primes below 410, the first 80 of them: a number below 441 without a divisor from 2 to 20. -/
def primes80 : List Nat := (List.range 410).filter fun n => 1 < n && (List.range 21).all fun d => d < 2 || n ≤ d || n % d != 0
/-- The integer part of the `k`-th root of `x`, found bit by bit from bit `n − 1` down, `r` being what the higher bits have given. -/
def rootDown (k x : Nat) : Nat → Nat → Nat
  | 0, r => r
  | n + 1, r => rootDown k x n (if (r + 2 ^ n) ^ k ≤ x then r + 2 ^ n else r)
/-- The first 64 bits of the fraction of a prime's `k`-th root: the standard's constants, the cube roots' for the rounds and the square roots' for
the first hash value. -/
def rootFraction (k p : Nat) : Word := w64 (rootDown k (p * 2 ^ (64 * k)) 70 0)
/-- A word's three rotations to the right, added modulo 2. -/
def rotSum (i j k : Nat) (x : Word) : Word := (x.rotateRight i).xor ((x.rotateRight j).xor (x.rotateRight k))
/-- A word's two rotations and its shift, added modulo 2. -/
def shiftSum (i j k : Nat) (x : Word) : Word := (x.rotateRight i).xor ((x.rotateRight j).xor (x.ushiftRight k))
/-- The message schedule, newest word first: `n` further words. -/
def schedule : Nat → List Word → List Word
  | 0, w => w
  | n + 1, w => schedule n ((shiftSum 1 8 7 (w.getD 14 0) + shiftSum 19 61 6 (w.getD 1 0) + w.getD 15 0 + w.getD 6 0) :: w)
/-- The working state as its two recurrences: what words a and e have held, newest first. Words b, c, d and f, g, h are their last values. -/
structure Trail where
  top : List Word
  low : List Word
  deriving DecidableEq, Repr
/-- One round under a constant and a schedule word: the choice takes z's bits where x has a 0, the majority two of three. -/
def Trail.next (t : Trail) (kw : Word × Word) : Trail :=
  let sum := kw.1 + kw.2 + t.low.getD 3 0 + rotSum 14 18 41 (t.low.getD 0 0)
    + (t.low.getD 2 0).xor (t.low.getD 0 0 &&& (t.low.getD 1 0).xor (t.low.getD 2 0))
  let most := (t.top.getD 0 0 &&& t.top.getD 1 0) ||| (t.top.getD 2 0 &&& (t.top.getD 0 0 ||| t.top.getD 1 0))
  ⟨(sum + rotSum 28 34 39 (t.top.getD 0 0) + most) :: t.top.take 3, (t.top.getD 3 0 + sum) :: t.low.take 3⟩
/-- A block's 16 words, newest first. -/
def blockWords (l : List Byte) : List Word := (List.range 16).map fun i => w64 (beNat ((l.drop (120 - 8 * i)).take 8))
/-- The hash value after one more block. -/
def Trail.absorb (h : Trail) (block : List Byte) : Trail :=
  let e := ((primes80.map (rootFraction 3)).zip (schedule 64 (blockWords block)).reverse).foldl Trail.next h
  ⟨List.zipWith (· + ·) h.top e.top, List.zipWith (· + ·) h.low e.low⟩
/-- The message's blocks: a one bit, zeros, and the length in bits fill the last. -/
def paddedBlocks (l : List Byte) : List (List Byte) :=
  let zeros := (239 - l.length % 128) % 128
  let whole := l ++ 0x80 :: (leBytes (16 + zeros) (8 * l.length)).reverse
  (List.range (whole.length / 128)).map fun i => (whole.drop (128 * i)).take 128
/-- A big number as bytes, top byte first. -/
def beBytes (n v : Nat) : List Byte := (leBytes n v).reverse
/-- The SHA-512 digest of bytes, as a number whose top byte comes first. -/
def sha512 (l : List Byte) : BitVec 512 :=
  let first := (primes80.take 8).map (rootFraction 2)
  let last := (paddedBlocks l).foldl Trail.absorb ⟨first.take 4, first.drop 4⟩
  BitVec.ofNat 512 ((last.top ++ last.low).foldl (fun acc w => acc * two64 + w.toNat) 0)

/-! ## ECDSA over P-521 -/

/-- The field prime, the order of the base point, and the base point. -/
def ecP : Nat := 2 ^ 521 - 1
def ecN : Nat :=
  0x01fffffffffffffffffffffffffffffffffffffffffffffffffffffffffffffffffa51868783bf2f966b7fcc0148f709a5d03bb5c9b8899c47aebb6fb71e91386409
def ecG : Nat × Nat :=
  (0x00c6858e06b70404e9cd9e3ecb662395b4429c648139053fb521f828af606b4d3dbaa14b5e77efe75928fe1dc127a2ffa8de3348b3c1856a429bf97e7e31c2e5bd66,
   0x011839296a789a3bc0045c8a5fb42c7d1bd998f54449579b446817afbd17273e662c97ee72995ef42640c550b9013fad0761353c7086a272c24088be94769fd16650)
/-- A power modulo `m`, the exponent's `fuel` low bits taken from the lowest up. -/
def powMod (m : Nat) : Nat → Nat → Nat → Nat
  | 0, _, _ => 1
  | fuel + 1, b, e => (if e % 2 = 1 then b else 1) * powMod m fuel (b * b % m) (e / 2) % m
/-- The inverse modulo a prime below 2^521. -/
def invMod (m x : Nat) : Nat := powMod m 521 (x % m) (m - 2)
/-- The sum of two points of the curve, `none` the point at infinity. -/
def ecAdd : Option (Nat × Nat) → Option (Nat × Nat) → Option (Nat × Nat)
  | none, q => q
  | p, none => p
  | some (x1, y1), some (x2, y2) =>
    if x1 = x2 && (y1 + y2) % ecP = 0 then none
    else
      let m := if x1 = x2 then (3 * x1 * x1 + (ecP - 3)) * invMod ecP (2 * y1) % ecP
        else (y2 + ecP - y1) * invMod ecP (x2 + ecP - x1) % ecP
      let x := (m * m + 2 * ecP - x1 - x2) % ecP
      some (x, (m * (x1 + ecP - x) + ecP - y1) % ecP)
/-- A multiple of a point, by the multiplier's `fuel` low bits. -/
def ecMul : Nat → Nat → Option (Nat × Nat) → Option (Nat × Nat)
  | 0, _, _ => none
  | fuel + 1, k, p => ecAdd (if k % 2 = 1 then p else none) (ecMul fuel (k / 2) (ecAdd p p))
/-- Whether a signature of r then s, 66 big-endian bytes each, is a key's on a digest. -/
def ecdsaValid (key : Nat × Nat) (digest : BitVec 512) (sig : List Byte) : Bool :=
  let r := beNat (sig.take 66)
  let v := beNat ((sig.drop 66).take 66)
  if r = 0 || ecN ≤ r || v = 0 || ecN ≤ v then false
  else
    let w := invMod ecN v
    match ecAdd (ecMul 521 (digest.toNat * w % ecN) (some ecG)) (ecMul 521 (r * w % ecN) (some key)) with
    | some (x, _) => x % ecN == r
    | none => false

end Sys2Proof.Machine
end

