-- ==== Sys2Proof/Machine/Translate.lean ====
section
/-! DEFINITION. Translation and access checks (R283 to R288), and what is read through them: the tables a context keeps in its
own memory. -/

namespace Sys2Proof.Machine

/-- What an access needs of a page (R285). -/
structure Need where
  x : Bool
  r : Bool
  w : Bool
  deriving DecidableEq, Repr

def needX : Need := ⟨true, false, false⟩
def needR : Need := ⟨false, true, false⟩
def needW : Need := ⟨false, false, true⟩
def needRW : Need := ⟨false, true, true⟩

/-- The fields of a translation entry (R284). -/
def pteV (e : Word) : Bool := e.getLsbD 0
def pteL (e : Word) : Bool := e.getLsbD 1
def pteR (e : Word) : Bool := e.getLsbD 2
def pteW (e : Word) : Bool := e.getLsbD 3
def pteX (e : Word) : Bool := e.getLsbD 4
def pteSup (e : Word) : Bool := e.getLsbD 6
def ptePpn (e : Word) : Nat := bitsOf e.toNat 12 40
def ptePeer (e : Word) : Nat := bitsOf e.toNat 52 6

/-- Whether a frame of device memory is owned by a context (R287). -/
def State.frameOwned (s : State) (ctx pa : Nat) : Bool :=
  match tget s.frames (pa / 2097152) with
  | some f => f.getLsbD 24 && bitsOf f.toNat 20 4 == ctx
  | none => false
/-- Whether a context may reach a frame, and may write it (R287). -/
def State.frameReach (s : State) (ctx pa : Nat) (write : Bool) : Bool :=
  match tget s.frames (pa / 2097152) with
  | some f => f.getLsbD 24 &&
      (bitsOf f.toNat 20 4 == ctx || (f.getLsbD ctx && !(write && f.getLsbD 16)))
  | none => false

/-- The walk of R283 below a table: level by level, to a leaf and its level, or to a translation failure (R285, rows 1 and 2). -/
def walkFrom (s : State) (ctx : Nat) (va : Nat) : Nat → Nat → Option (Word × Nat)
  | 0, tab =>
    let e := w64 (leNat (mbytes s.mem (tab + 8 * bitsOf va 12 9) 8))
    if s.frameOwned ctx tab && pteV e && pteL e && decide (ptePeer e ≤ 32) then some (e, 0) else none
  | lv + 1, tab =>
    let idx := if lv + 1 = 4 then bitsOf va 48 8 else bitsOf va (12 + 9 * (lv + 1)) 9
    let e := w64 (leNat (mbytes s.mem (tab + 8 * idx) 8))
    if !(lv + 1 == 4 || s.frameOwned ctx tab) then none
    else if !pteV e then none
    else if pteL e then
      if lv + 1 ≤ 2 && decide (ptePeer e ≤ 32) then some (e, lv + 1) else none
    else if ptePeer e != 0 then none
    else walkFrom s ctx va lv (ptePpn e * 4096)

/-- The granules of the entries that a walk below a table reads. -/
def walkReads (s : State) (ctx : Nat) (va : Nat) : Nat → Nat → List Nat
  | 0, tab => if s.frameOwned ctx tab then [(tab + 8 * bitsOf va 12 9) / 64] else []
  | lv + 1, tab =>
    let at_ := tab + 8 * (if lv + 1 = 4 then bitsOf va 48 8 else bitsOf va (12 + 9 * (lv + 1)) 9)
    let e := w64 (leNat (mbytes s.mem at_ 8))
    if !(lv + 1 == 4 || s.frameOwned ctx tab) then []
    else at_ / 64 :: (if pteV e && !pteL e && ptePeer e == 0 then walkReads s ctx va lv (ptePpn e * 4096) else [])

/-- The leaf for a virtual address by the tables in memory. An address above VA[55:0] names nothing (R283). -/
def State.walk (s : State) (ctx : Nat) (va : Word) : Option (Word × Nat) :=
  if 2 ^ 56 ≤ va.toNat then none
  else walkFrom s ctx va.toNat 4 (ptePpn (s.descWord ctx 0) * 4096)

/-- Bytes in a page of a leaf's level (R283): 4 KiB, 2 MiB or 1 GiB. -/
def pageSize (level : Nat) : Nat := 2 ^ (12 + 9 * level)
/-- Whether a cached translation serves an address: it serves every address of its page, whatever the page's size (R286). -/
def TlbEntry.serves (e : TlbEntry) (ctx : Nat) (va : Word) : Bool := e.ctx == ctx && e.vpn == va.toNat / pageSize e.level
/-- The cached translations that serve an address. -/
def State.cachedFor (s : State) (ctx : Nat) (va : Word) : List TlbEntry := s.tlb.filter fun e => e.serves ctx va
/-- The leaf an access uses: one of the cached ones, which may differ from the tables and from one another, or the tables', as Config leaves it
(R286, log 7). -/
def State.leafOf (s : State) (ctx : Nat) (va : Word) : Option (Word × Nat) :=
  match (s.cachedFor ctx va)[Config.tlbUse s.tick]? with
  | some e => some (e.leaf, e.level)
  | none => s.walk ctx va

/-- Whether an access uses a cached translation, and so makes no walk (R286, log 7). -/
def State.usesCached (s : State) (ctx : Nat) (va : Word) : Bool := decide (Config.tlbUse s.tick < (s.cachedFor ctx va).length)
/-- The granules of translation entries that an access at an address reads (R283). -/
def State.walksFor (s : State) (ctx : Nat) (va : Word) : List Nat :=
  if s.usesCached ctx va || decide (2 ^ 56 ≤ va.toNat) then [] else walkReads s ctx va.toNat 4 (ptePpn (s.descWord ctx 0) * 4096)
/-- Cells read by a step at their home slices: those held elsewhere are recalled (R192). -/
def State.recall (s : State) (gs : List Nat) : State := { s with places := s.places.filter fun e => !gs.contains e.1 }

/-- PA of a virtual address under a leaf (R283). -/
def leafPa (leaf : Word) (level : Nat) (va : Nat) : Nat :=
  let z := pageSize level
  ptePpn leaf * 4096 / z * z + va % z

/-- The windows of R288 that a context reaches: its control page and the status pages at supervisor level through a SUP leaf, the
firmware windows at firmware level. -/
def windowOk (ctx : Nat) (priv : BitVec 2) (sup : Bool) (pa : Nat) : Bool :=
  if 0xF800000000000 ≤ pa then priv == 2
  else if pa / 4096 = 0xF000000000000 / 4096 + ctx then sup && priv != 0
  else if 0xF000000100000 ≤ pa && pa < 0xF000000180000 then sup && priv != 0
  else false

/-- A translated and checked address: a peer index or this chip, and the physical address; or KIND of the failure (R285): 1
translation, 2 access. -/
def State.translate (s : State) (ctx : Nat) (priv : BitVec 2) (va : Word) (need : Need) : Except Nat (Option Nat × Nat) :=
  match s.leafOf ctx va with
  | none => .error 1
  | some (e, lv) =>
    let pa := leafPa e lv va.toNat
    if (need.x && (!pteX e || ptePeer e != 0)) || (need.r && !pteR e) || (need.w && !pteW e) then .error 2
    else if pteSup e && priv == 0 then .error 2
    else if ptePeer e != 0 then .ok (some (ptePeer e - 1), pa)
    else if pa < 0x8000000000 then (if s.frameReach ctx pa need.w then .ok (none, pa) else .error 2)
    else if windowOk ctx priv (pteSup e) pa && !need.x then .ok (none, pa)
    else .error 2

/-- A byte range cut at 4 KiB page boundaries: (address, length), at most `fuel` pieces. -/
def pieces : Nat → Nat → Nat → List (Nat × Nat)
  | 0, _, _ => []
  | fuel + 1, va, n =>
    if n = 0 then []
    else
      let k := min n (4096 - va % 4096)
      (va, k) :: pieces fuel (va + k) (n - k)

/-- Every page of a range translated and checked in ascending order; the first failing address and its KIND otherwise (R204). -/
def translatePieces (s : State) (ctx : Nat) (priv : BitVec 2) (need : Need) :
    List (Nat × Nat) → Except (Nat × Word) (List (Option Nat × Nat × Nat))
  | [] => .ok []
  | (va, k) :: r =>
    if two64 ≤ va then .error (1, w64 va)
    else
      match s.translate ctx priv (w64 va) need with
      | .error kind => .error (kind, w64 va)
      | .ok (peer, pa) =>
        match translatePieces s ctx priv need r with
        | .error e => .error e
        | .ok l => .ok ((peer, pa, k) :: l)
/-- The pieces of physical memory behind a virtual range. -/
def State.translateRange (s : State) (ctx : Nat) (priv : BitVec 2) (va : Word) (n : Nat) (need : Need) :
    Except (Nat × Word) (List (Option Nat × Nat × Nat)) :=
  translatePieces s ctx priv need (pieces (n / 4096 + 2) va.toNat n)

/-- What the translation of an access does besides: where no cached translation is used, the walk reads the table entries as direct loads do, which
recalls their cells, and its leaf is remembered beside those cached before (R192, R283, R286). -/
def State.noteTlb (s : State) (ctx : Nat) (va : Word) : State :=
  if s.usesCached ctx va then s
  else
    let s' := s.recall (s.walksFor ctx va)
    match s.walk ctx va with
    | some (e, lv) =>
      let x : TlbEntry := ⟨ctx, va.toNat / pageSize lv, e, lv, ((s.walksFor ctx va).map (· / 32768)).eraseDups⟩
      if s'.tlb.contains x then s' else { s' with tlb := s'.tlb ++ [x] }
    | none => s'
/-- The translations of the first and last byte of a short access remembered. -/
def State.noteRange (s : State) (ctx : Nat) (va : Word) (n : Nat) : State := (s.noteTlb ctx va).noteTlb ctx (va + w64 (n - 1))

/-- The bytes of pieces as cells of this chip hold them, or as a peer answers (log 8). -/
def State.readPieces (s : State) : List (Option Nat × Nat × Nat) → List Byte
  | [] => []
  | (none, pa, k) :: r => mbytes s.mem pa k ++ s.readPieces r
  | (some p, pa, k) :: r => (List.range k).map (fun i => Config.peerByte s.tick p (pa + i)) ++ s.readPieces r

/-- Bytes of a context's own table, read through its translation at supervisor level (R278). -/
def State.vread (s : State) (ctx : Nat) (va : Word) (n : Nat) : Except (Nat × Word) (List Byte) :=
  match s.translateRange ctx 1 va n needR with
  | .error e => .error e
  | .ok ps => .ok (s.readPieces ps)

/-- The granules that a read of a context's own table touches: those of the walks, and its own. -/
def State.sawGrans (s : State) (ctx : Nat) (va : Word) (n : Nat) : List Nat :=
  (pieces (n / 4096 + 2) va.toNat n).flatMap fun p =>
    s.walksFor ctx (w64 p.1) ++ match s.translate ctx 1 (w64 p.1) needR with
      | .ok (none, pa) => gransOf pa p.2
      | _ => []
/-- What a read of a context's own table does besides: the cells it touches are recalled (R192). -/
def State.saw (s : State) (ctx : Nat) (va : Word) (n : Nat) : State := s.recall (s.sawGrans ctx va n)
/-- Where a context's core set tells of a logical core (R277, R278). -/
def State.coreSetVa (s : State) (ctx : Nat) (n : BitVec 13) : Word := s.descWord ctx 12 + w64 (n.toNat / 8)
/-- What a read of device memory by its address does besides: the cells it touches are recalled. -/
def State.sawPhys (s : State) (pa n : Nat) : State := s.recall (gransOf pa n)
/-- What a look into a context's core set does besides. -/
def State.sawCore (s : State) (ctx : Nat) (n : BitVec 13) : State := s.saw ctx (s.coreSetVa ctx n) 1
/-- Whether a logical core lies in a context's core set (R277, R278). -/
def State.inCoreSet (s : State) (ctx : Nat) (n : BitVec 13) : Bool :=
  match s.vread ctx (s.coreSetVa ctx n) 1 with
  | .ok (b :: _) => b.getLsbD (n.toNat % 8)
  | _ => false
/-- The physical core of a logical number that a context's program may name (R48, R277). -/
def State.targetCore (s : State) (ctx : Nat) (n : BitVec 13) : Option Nat :=
  match s.physOf n with
  | some c => if s.inCoreSet ctx n then some c else none
  | none => none

/-- The home slice of a physical address (R203). -/
def homeSlice (pa : Nat) : Nat :=
  bitsOf pa 6 7 ^^^ bitsOf pa 13 7 ^^^ bitsOf pa 20 7 ^^^ bitsOf pa 27 7 ^^^ bitsOf pa 34 7 ^^^ bitsOf pa 41 7
    ^^^ bitsOf pa 48 4
/-- The memory stack that holds a physical address's granule: `h div 16` (R203). -/
def homeStack (pa : Nat) : Nat := homeSlice pa / 16

end Sys2Proof.Machine
end

