-- ==== Sys2Proof/Machine/Ops.lean ====
section
/-! DEFINITION. The operations every meaning is built from: reading and writing registers under R55 and R56, the completion of a
unit, waiting under a deadline (R243), taking a trap (R295 to R300, R306) with containment (R305), and the ways back from a trap
(R303). -/

namespace Sys2Proof.Machine

/-! ## Completion of a unit (R55, R56) -/

/-- The A-slot result written into a slot (R55, R56). -/
def Slot.applyA (sl : Slot) (r : AResult) : Slot :=
  match r.write with
  | .none => sl
  | .g d x => { sl with thread := sl.thread.setG d x }
  | .p d x => { sl with thread := sl.thread.setP d x }
  | .v d x => sl.setV d x
  | .m d x => sl.setM d x

/-- The stores that lagging units still see, one unit later (R77). -/
def lagTick (l : List (Dict × Nat)) : List (Dict × Nat) :=
  l.filterMap fun e => if e.2 ≤ 1 then none else some (e.1, e.2 - 1)

/-- The slot after its unit: the A result is written last, FFLAGS gathers the unit's flags, and pc moves on (R55, R56, R121), or to where a
debugger has set it meanwhile (R369). -/
def Slot.finish (sl : Slot) (next : Word) (taken : Bool) : Slot :=
  let r := sl.pendA.getD ⟨.none, 0⟩
  let pc0 := sl.thread.pc
  let sl := sl.applyA r
  { sl with
    thread := { sl.thread with pc := sl.newPc.getD next, fflags := sl.thread.fflags ||| r.flags }
    wait := none, pendA := none, remote := none, skip := none, newPc := none
    branchFrom := if taken then some pc0 else none
    dictLag := if taken then [] else lagTick sl.dictLag
    task := sl.task.map fun k => { k with firstDone := true } }

/-- What a unit does, taken for another slot. -/
def State.asSlot (s : State) (c : Nat) (t : Fin 4) (f : State → State) : State :=
  let s' := f { s with curCore := c, curSlot := t }
  { s' with curCore := s.curCore, curSlot := s.curSlot }

/-- A thread's next pc, as a register branch gave it (R57). -/
def Slot.nextPc (sl : Slot) : Word := sl.misTarget.getD sl.thread.pc
/-- Forwarded units settled at a follower (R265): the head unit goes once the follower has completed it and the leader's next pc is
known; a follower whose own next pc differs detaches, and halts there where the unit was forwarded in a step command (R368). -/
def State.settleFwd (s : State) (c : Nat) (t : Fin 4) : State :=
  let sl := s.slotAt c t
  match sl.group, sl.fwd with
  | some (.follower lc lt pos true), f :: r =>
    match f.done, f.next with
    | true, some n =>
      if sl.nextPc = n then s.setSlot c t { sl with fwd := r }
      else
        let halt := if f.stepped then some ⟨5, 0⟩ else sl.halt
        let s := s.setSlot c t { sl with fwd := [], group := some (.follower lc lt pos false), halt := halt }
        (match (s.slotAt lc lt).group with
          | some (.leader ms p mask) =>
            s.setSlot lc lt { s.slotAt lc lt with group := some (.leader ms p (mask &&& ~~~ BitVec.twoPow 16 pos)) }
          | _ => s)
    | _, _ => s
  | _, _ => s
/-- The leader's next pc told to the oldest forwarded unit that does not hold it yet (R265). -/
def tellNext (next : Word) : List Fwd → List Fwd
  | [] => []
  | f :: r => match f.next with
    | none => { f with next := some next } :: r
    | some _ => f :: tellNext next r
/-- What the end of a unit does in a vector group (R265). -/
def State.groupDone (s : State) (next : Word) : State :=
  match s.sl.group with
  | none => s
  | some (.leader ms _ _) =>
    ms.foldl (fun s m =>
      if m == (s.curCore, s.curSlot) then s
      else
        let sl := s.slotAt m.1 m.2
        (s.setSlot m.1 m.2 { sl with fwd := tellNext next sl.fwd }).settleFwd m.1 m.2) s
  | some (.follower _ _ _ true) =>
    let sl := s.sl
    (s.setSl { sl with fwd := match sl.fwd with | f :: r => { f with done := true } :: r | [] => [] }).settleFwd
      s.curCore s.curSlot
  | some (.follower _ _ _ false) => s

/-- The end of a step command halts the thread again (R368). -/
def State.stepDone (s : State) : State :=
  if s.sl.stepping then s.setSl { s.sl with stepping := false, halt := some ⟨5, 0⟩, dictLag := [] } else s

/-- The duration of a wait that ends with its unit, as a monitor sample (R358). -/
def State.sampleWait (s : State) : State :=
  match s.sl.wait with
  | some w => s.sample (dieOf s.curCore) 2 (s.instant - w.t0)
  | none => s
/-- The unit completes and the next one is at `next`; `taken` marks a taken branch. A vector group is told the next pc as given. -/
def State.completeVia (s : State) (next told : Word) (taken : Bool) : State :=
  let flags := (s.sl.pendA.getD ⟨.none, 0⟩).flags
  let ctx := s.curCtx
  let s := s.sampleWait
  (((s.setSl (s.sl.finish next taken)).raise (clusterOf s.curCore) ctx flags).groupDone told).stepDone
def State.completeTo (s : State) (next : Word) (taken : Bool) : State := s.completeVia next next taken
/-- The unit completes and the next unit follows it (R51). -/
def State.complete (s : State) : State := s.completeTo (s.th.pc + 8) false
/-- An A-slot instruction's result held with its unit (R55). -/
def State.latch (s : State) (r : AResult) : State := s.setSl { s.sl with pendA := some r }
/-- A unit whose only effect is its A-slot result. -/
def State.finishA (s : State) (r : AResult) : State := (s.latch r).complete

/-! ## Waiting (R243) -/

/-- The selected deadline at an instant (R243). -/
def State.selAt (s : State) : Sel → Word
  | .dla => s.th.dla
  | .dlb => s.th.dlb
  | .cap => BitVec.allOnes 64
  | .poll => s.instant
/-- The wait of the current unit: the one begun, or a fresh one with its bounds formed now (R243). -/
def State.waitOf (s : State) (i : Instr) (ds : Sel) : Wait :=
  match s.sl.wait with
  | some w => w
  | none => ⟨i, s.instant, s.selAt ds, satAdd s.instant s.th.waitcap, s.th.waitcap, 0, 0, none, none, 0, none, none⟩
/-- The deadline step's instant D (R243). -/
def Wait.due (w : Wait) : Word := if w.sel ≤ w.capAt then w.sel else w.capAt
/-- The code of the deadline step (R243). -/
def Wait.code (w : Wait) : BitVec 8 := if w.sel ≤ w.capAt then codeDeadline else codeCap

/-- The opcode of a waiting C instruction, for the wait-cap record (R245). -/
def opcodeOf (i : Instr) : Nat :=
  match encodeParts i with
  | .c _ w0 _ => fld w0 24 7
  | _ => 0

/-- The wait of the current unit reported as one that its cap has ended (R245). -/
def State.reportCap (s : State) : State :=
  match s.sl.wait with
  | some w => s.waitCapEvent s.curCore s.curSlot s.curCtx (opcodeOf w.instr) s.th.lid s.th.pc w.cap
  | none => s
/-- Whether a wait is that of `bar.sync`, whose deadline step is its withdrawal: what that finds says whether the wait ends CAP (R226). -/
def Wait.isSync (w : Wait) : Bool := match w.instr with | .barSync .. => true | _ => false
/-- The deadline step of the current unit's wait reported where it ends CAP (R245). -/
def State.capEvent (s : State) (w : Wait) (code : BitVec 8) : State :=
  if code = codeCap && !w.isSync then s.reportCap else s

/-- The key of an object in `State.suspended`: a local device object by its address, a peer's with its chip; others are never suspended. -/
def State.objKey (s : State) (ctx : Nat) : BarRef → Option Nat
  | .dev pa _ => some pa
  | .peer p pa => match s.ctx? ctx with
    | some x => x.peers[p]?.map fun e => (e.chip.toNat + 1) * 2 ^ 52 + pa
    | none => none
  | _ => none
/-- Whether a wait is one that R253 suspends: in `bar.wait` or `bar.sync`, on an object. -/
def Wait.onObject (w : Wait) : Option BarRef :=
  match w.instr with
  | .barWait .. => w.obj
  | .barSync .. => w.obj
  | _ => none
/-- A wait begun on a suspended object is suspended from its start (R253). -/
def State.suspendNew (s : State) (w : Wait) : Wait :=
  match w.onObject with
  | some r =>
    if w.suspended.isNone && (match s.objKey s.curCtx r with | some k => s.suspended.contains k | none => false) then
      { w with suspended := some s.instant }
    else w
  | none => w

/-- One attempt of a wait that is not over: it goes on with the given wait, unless its deadline had already passed when it began, at this
instant, where it ends at once (R243, `poll` and deadlines already past). -/
def State.holdWait (s : State) (w : Wait) (ended : BitVec 8 → State → State) : State :=
  let w := s.suspendNew w
  if (s.sl.wait.all fun v => v.t0 == s.instant) && w.suspended.isNone && decide (w.due ≤ s.instant) then
    ended w.code ((s.setSl { s.sl with wait := some w }).capEvent w w.code)
  else s.setSl { s.sl with wait := some w }

/-- The wait of a unit whose condition holds at its first check: it begins and ends at the same instant, and counts as a wait (R243, R358). -/
def State.beginWait (s : State) (i : Instr) (ds : Sel) : State := s.setSl { s.sl with wait := some (s.waitOf i ds) }
/-- One attempt at a condition: done where it holds, held otherwise (R243). -/
def State.await (s : State) (i : Instr) (ds : Sel) (stage : Nat) (holds : Bool) (done : State → State)
    (ended : BitVec 8 → State → State) : State :=
  if holds then done (s.beginWait i ds)
  else s.holdWait { s.waitOf i ds with stage := stage } ended

/-- The stage of a wait that stands for the transition to irrevocability (R195, R262). -/
def stageCommit : Nat := 9

/-- The transition of R195: an irrevocable task goes on at once, with no wait (R255, R262); a speculative one waits for its commit step. -/
def State.transition (s : State) (i : Instr) (ds : Sel) (go : State → State) (ended : BitVec 8 → State → State) : State :=
  if !s.spec then go s else s.holdWait { s.waitOf i ds with stage := stageCommit } ended
/-- The stage of a wait that stands for a page walk (R286). -/
def stageWalk : Nat := 8
/-- Whether the answer of a walk for some address is still awaited: no cached translation serves it, and answers are late. -/
def State.missing (s : State) (vas : List Word) : Bool := s.late && vas.any fun va => (s.cachedFor s.curCtx va).isEmpty
/-- A miss of the translation caches is part of the unit's wait (R286): where no cached translation serves an address and the walk's answer is
late, the unit waits, and a deadline step taken during the walk ends it with nothing else done. -/
def State.walked (s : State) (i : Instr) (ds : Sel) (vas : List Word) (go : State → State) (ended : BitVec 8 → State → State) : State :=
  let walking := match s.sl.wait with | none => true | some w => w.stage == stageWalk
  if walking && s.missing vas then s.holdWait { s.waitOf i ds with stage := stageWalk } ended
  else go s

/-- The ending that most instructions give a wait: ws with the status, DETAIL 0, and the next unit (R243). -/
def State.endPlain (code : BitVec 8) (s : State) : State := (s.writeWs code 0).complete
/-- An ending with a DETAIL. -/
def State.endWith (code : BitVec 8) (detail : BitVec 32) (s : State) : State := (s.writeWs code detail).complete
/-- A refusal: nothing else is done. -/
def State.refuse (s : State) (detail : BitVec 32) : State := s.endWith codeRefused detail

/-! ## The action table (R298, R299) -/

/-- The 16 bytes of an action entry; none where the context has no readable table. -/
def State.actEntry (s : State) (ctx cause : Nat) : Option (List Byte) :=
  match s.ctx? ctx with
  | some x => x.actions.map fun l => (l.drop (16 + 16 * cause)).take 16
  | none => none
/-- The action of a cause: 0 kill, 1 replay, 2 park, 3 forward. Causes 16, 17, 18 and 20 act as forward (R298); without a table
every action is kill (R299). -/
def State.actionOf (s : State) (ctx cause : Nat) : Fin 4 :=
  if cause = 16 || cause = 17 || cause = 18 || cause = 20 then 3
  else match s.actEntry ctx cause with
    | some e => Fin.ofNat 4 (leNat (e.take 1))
    | none => 0
def State.evtOf (s : State) (ctx cause : Nat) : BitVec 2 :=
  match s.actEntry ctx cause with
  | some e => BitVec.ofNat 2 (leNat (e.take 1) / 4)
  | none => 0
def State.ptimeOf (s : State) (ctx cause : Nat) : BitVec 16 :=
  match s.actEntry ctx cause with
  | some e => BitVec.ofNat 16 (leNat ((e.drop 2).take 2))
  | none => 0
/-- CCTX (R298, R299). -/
def State.cctxOf (s : State) (ctx : Nat) : BitVec 2 :=
  match s.ctx? ctx with
  | some x => match x.actions with
    | some l => BitVec.ofNat 2 (leNat (l.take 1))
    | none => 3
  | none => 3

/-! ## Fault records (R296, R297, R304) -/

/-- The handle of a copy (R304). -/
def State.copyItem (s : State) (c : Nat) (ch : Fin 8) (cseq : BitVec 32) : Word :=
  w64 (2 ^ 62 + cseq.toNat * 65536 + ch.val * 8192 + (s.logOf c).toNat)
/-- The handle of a task record (`kind` 2) or a message (`kind` 3) of a core (R304). -/
def State.entryItem (s : State) (kind c : Nat) : Word := w64 (kind * 2 ^ 62 + (s.logOf c).toNat)

/-- Doubleword 0 of a fault record (R296). -/
def faultWord (cause slot kind nest : Nat) (lid : BitVec 20) (info : Nat) : Word :=
  w64 (cause * 2 ^ 58 + slot * 2 ^ 56 + kind * 2 ^ 54 + nest * 2 ^ 53 + lid.toNat * 2 ^ 32 + info % 2 ^ 32)

/-- The core a record is queued for (R298): the entry's TGT core where it is valid and in the core set, else the faulting core. -/
def State.recordCore (s : State) (ctx cause c : Nat) : Nat :=
  match s.actEntry ctx cause with
  | some e =>
    let h := leNat ((e.drop 4).take 4)
    if bitsOf h 31 1 = 1 then (s.targetCore ctx (BitVec.ofNat 13 (bitsOf h 0 13))).getD c else c
  | none => c
/-- A fault record (R296): handler from the action entry, DICT the handler kernel's default, LID 0, PRIO 3, IRR 1. -/
def State.faultRec (s : State) (ctx cause : Nat) (a0 a1 a2 a3 : Word) : Rec :=
  let e := (s.actEntry ctx cause).getD []
  let kh := leNat ((e.drop 8).take 4)
  let dict := match s.ctx? ctx with
    | some x => match tget x.kernels kh with | some k => k.dict | none => 0
    | none => 0
  mkRec (BitVec.ofNat 32 kh) (BitVec.ofNat 32 (leNat ((e.drop 12).take 4))) dict 0 0 0 0xD a0 a1 a2 a3
/-- A fault record queued (R300). -/
def State.queueFault (s : State) (ctx cause c : Nat) (a0 a1 a2 a3 : Word) (src : PrivSrc) (carried : Option (BitVec 512)) :
    State :=
  s.pushPriv ⟨0, s.recordCore ctx cause c, ctx, s.faultRec ctx cause a0 a1 a2 a3, carried, src, s.instant, false⟩

/-- A notice to the host (R339 kinds 5 and 6): to the lowest-numbered mapped NOTIFY queue of the context, or held, at most 16. -/
def eventWord (kind reason : Nat) (lid : BitVec 20) (cookie instant count : Word) (data : Nat) : BitVec 512 :=
  BitVec.ofNat 512 (kind + reason * 2 ^ 8 + lid.toNat * 2 ^ 32 + cookie.toNat * 2 ^ 64 + instant.toNat * 2 ^ 128
    + count.toNat * 2 ^ 192 + data * 2 ^ 256)
def State.notice (s : State) (ctx kind : Nat) (lid : BitVec 20) (data : Nat) : State :=
  let ev := eventWord kind 0 lid 0 s.instant 0 data
  let cand := s.dies.flatMap fun d => d.2.queues.filterMap fun q =>
    if q.2.qctx = ctx && q.2.notify && !q.2.closing then some (d.1, q.1) else none
  let best := cand.foldl (fun (acc : Option (Nat × Nat)) x => match acc with
    | none => some x
    | some y => if x.2 < y.2 then some x else some y) none
  match best with
  | some (d, q) =>
    let x := s.dieAt d
    match tget x.queues q with
    | some hq => s.setDie d { x with queues := tset x.queues q { hq with events := hq.events ++ [ev] } }
    | none => s
  | none =>
    match s.ctx? ctx with
    | some x => s.setCtx ctx { x with
        notices := if x.notices.length < 16 then x.notices ++ [ev] else x.notices, noticeCount := x.noticeCount + 1 }
    | none => s

/-! ## Containment (R305) -/

/-- What a kill spreads to: the four levels in turn. -/
inductive Spread where
  | stop
  | retry
  | parent
  | lineage
  | context
  | escalate
  deriving DecidableEq, Repr

/-- The level at which a kill stops (R305), from CTASK, the retries made, CANC, whether a spawn parent runs or is parked, CLIN, whether
the lineage is LID 0, and CCTX. -/
def spread (ctask : BitVec 2) (retries : Nat) (canc : BitVec 2) (hasParent : Bool) (clin : BitVec 2) (isRoot : Bool)
    (cctx : BitVec 2) : Spread :=
  let act (f : BitVec 2) (self up : Spread) : Spread :=
    if f = 0 then .stop else if f = 1 then (if retries < 3 then .retry else self) else if f = 2 then self else up
  act ctask .stop (act canc (if hasParent then .parent else .stop)
    (act clin (if isRoot then .stop else .lineage) (act cctx .context .escalate)))

/-- The running or parked thread of a number (R305, level 1). -/
def State.findThread (s : State) (id : Nat) : Option (Nat × Fin 4) :=
  (s.cores.flatMap fun e => ([0, 1, 2, 3] : List (Fin 4)).filterMap fun t =>
    let sl := e.2.slots.get t
    if sl.task.isSome && (sl.thread.tid == id || sl.inline.any fun i => i.saved.tid == id) then some (e.1, t) else none).head?

/-- A core of a context made resident for none (R333 CTXDEL). -/
def vacate (ctx : Nat) (e : Nat × Core) : Nat × Core :=
  if e.2.ctx == some ctx then (e.1, { e.2 with ctx := none, inbox := [], deque := [] }) else e
/-- Every thread of a context's core asked to park (R305 level 3). -/
def parkAll (ctx : Nat) (e : Nat × Core) : Nat × Core :=
  if e.2.ctx == some ctx then
    (e.1, { e.2 with slots := e.2.slots.map fun sl => { sl with parkAsked := sl.parkAsked || (sl.task.isSome && sl.park.isNone) } })
  else e

/-- A queue of a context unmapped: it takes no further command. It stays until the SUBMIT in progress, whose lineage is annulled, has been refused (R337),
its reset has ended (R313), and its events are written, since no event is dropped (R333, R339, log 84). -/
def unmapOf (ctx : Nat) (q : Nat × HostQueue) : Option (Nat × HostQueue) :=
  if q.2.qctx != ctx then some q
  else if q.2.events.isEmpty && (q.2.cur.isNone || q.2.stopped) && !q.2.resetting then none
  else some (q.1, { q.2 with closing := true, cur := q.2.cur.map fun c => { c with gone := true }, notify := false })
/-- A context torn down (R305 level 3, R333 CTXDEL): its lineages are annulled, its flag summaries cleared, its queues unmapped, and the
context is no longer live. -/
def State.teardown (s : State) (ctx : Nat) : State :=
  let roots := s.lidsOf ctx
  let s := roots.foldl (fun s l => s.annulNotices ctx l) s
  let s := { s with lineages := s.lineages.map fun (e : Nat × Lineage) =>
      if e.1 / 1048576 = ctx then (e.1, { e.2 with state := LState.annulled }) else e }
  let s := s.annulSweepBy State.endTask
  let gone := s.priv.filter fun r => r.ctx == ctx && r.carried.isSome
  { s with
    lineages := s.lineages.filter fun e => e.1 / 1048576 != ctx
    clusters := s.clusters.map fun e =>
      (e.1, { e.2 with cfsum := terase e.2.cfsum ctx, objs := e.2.objs.filter fun o => o.2.ctx != ctx })
    dies := s.dies.map fun e => (e.1, { e.2 with
      queues := e.2.queues.filterMap (unmapOf ctx)
      carriedPlaces := e.2.carriedPlaces - (gone.filter fun r => dieOf r.core == e.1).length })
    cores := (s.cores.filter fun e => e.1 / 8192 != ctx + 1).map (vacate ctx)
    priv := s.priv.filter fun r => r.ctx != ctx
    dq := s.dq.filter fun e => e.ctx != ctx
    tlb := s.tlb.filter fun x => x.ctx != ctx
    contexts := terase s.contexts ctx }

/-- Whom a delegation request's completion goes to (R233). -/
def DelegReq.who (d : DelegReq) : Issuer := ⟨d.requester, 0, d.ctx, d.lid, 0, 0, 0⟩
/-- The end of a killed thread without containment (R305). -/
def State.endKilled (s : State) (c : Nat) (t : Fin 4) : State :=
  match (s.slotAt c t).task with
  | none => s
  | some k =>
    let s := match k.kind with
      | .deleg d => if d.nte then
          (s.postCompletion d.requester d.who (mkMsg d.ctag 32 (s.logOf c) s.chip d.lid 0 1 0) none none).liveUp k.ctx d.lid else s
      | _ => s
    (s.cancelOps fun w => w.tid == k.id).endTask c t
/-- A killed task re-run from its record on the same core, keeping its place in DQ (R305, R34); a lease that it has won ends (R46). -/
def State.retryKilled (s : State) (c : Nat) (t : Fin 4) : State :=
  match (s.slotAt c t).task with
  | none => s
  | some k =>
    let s := ((s.cancelOps fun w => w.tid == k.id).abortTask c t).endLeaseOf k.id
    let x := s.coreAt c
    s.setCore c { x with rerun := x.rerun.map fun r =>
      if r.q.id = k.id then { r with q := { r.q with retries := r.q.retries + 1 } } else r }
/-- A thread killed with containment (R305). `args` are the doublewords a notice carries. A follower's kill ends it alone (R44). -/
def State.killThread (s : State) (c : Nat) (t : Fin 4) (args : Nat) : State :=
  let sl := s.slotAt c t
  match sl.task with
  | none => s
  | some k =>
    let isFollower := match sl.group with | some (.follower ..) => true | _ => false
    if isFollower then s.endKilled c t else
    let lid := sl.thread.lid
    let parent := match k.kind with | .plain => sl.parent.bind s.findThread | _ => none
    let clin := match s.lineage? k.ctx lid with | some l => l.clin | none => 0
    match spread (recCtask k.record) k.retries (recCanc k.record) parent.isSome clin (lid == 0) (s.cctxOf k.ctx) with
    | .stop => s.endKilled c t
    | .retry => s.retryKilled c t
    | .parent =>
      let s := s.endKilled c t
      (match parent with | some p => s.endKilled p.1 p.2 | none => s)
    | .lineage => (s.endKilled c t).annulLineage k.ctx lid
    | .context =>
      let s := (s.endKilled c t).teardown k.ctx
      { s with replies := s.replies ++ [⟨w64 5, leBytes 32 args⟩] }
    | .escalate =>
      let s := s.endKilled c t
      let s := { s with cores := s.cores.map (parkAll k.ctx) }
      s.notice k.ctx 5 lid args

/-! ## Taking a trap (R57, R295 to R300, R306) -/

/-- The unit in progress forgotten: neither slot has taken effect (R57). A request that has left the core stays with the unit, whose replay goes
on with it (R311). A wait of stage 0 has claimed nothing. -/
def State.dropUnit (s : State) : State :=
  let s := match s.sl.wait with | some w => if w.stage = 0 then s else s.giveUp s.curCore s.curSlot false | none => s
  s.setSl { s.sl with wait := none, pendA := none, dictLag := [], skip := none, newPc := none, lastLoad := none
                      thread := { s.th with pc := s.sl.newPc.getD s.th.pc } }

/-- The current thread parked on a fault (R300): the fields of its record, then the action, EVT and PTIME. -/
def State.parkCur (s : State) (cause slotF kind info : Nat) (addr pc : Word) (action : Fin 5) (evt : BitVec 2) (ptime : BitVec 16) :
    State :=
  s.setSl { s.sl with
    park := some ⟨BitVec.ofNat 6 cause, BitVec.ofNat 2 slotF, BitVec.ofNat 2 kind, BitVec.ofNat 32 info, addr, pc, action, evt, s.instant, ptime⟩
    stepping := false }

/-- Whether a fault of a task is nested: a fault-record task whose first unit is not complete (R306). -/
def Task.isNested (k : Task) : Bool := (match k.kind with | .supervisor isFault _ => isFault | _ => false) && !k.firstDone
/-- A fault of a fault-record task before its first unit completes (R306): its thread is parked and a double-fault record is queued under
entry 20, whose PTIME it takes (R300); a second one goes to the host, and its thread stays parked. -/
def State.nestedFault (s : State) (k : Task) (cause : Nat) (pc : Word) (slotF : Nat) : State :=
  let orig := recArg k.record 0
  let origCause := bitsOf orig.toNat 58 6
  let a0 := faultWord 20 slotF 0 1 s.th.lid (origCause * 256 + cause)
  let item := s.threadItem s.curCore s.curSlot
  let a2 := recArg k.record 3
  let info := origCause * 256 + cause
  if origCause = 20 then
    (s.parkCur cause slotF 0 info a2 pc 2 0 0).notice k.ctx 6 0
      (a0.toNat + pc.toNat * 2 ^ 64 + a2.toNat * 2 ^ 128 + item.toNat * 2 ^ 192)
  else (s.parkCur cause slotF 0 info a2 pc 3 0 (s.ptimeOf k.ctx 20)).queueFault k.ctx 20 s.curCore a0 pc a2 item
    (.thread s.curCore s.curSlot) none

/-- The one operation that takes a trap of the current thread: cause, SLOT, KIND, INFO, ADDR, and the address at which it is precise.
The action of the context's table decides what becomes of the thread (R300): killed, re-executed at once or parked for its resolving
event, parked, or parked with a fault record queued for a handler. -/
def State.takeTrap (s : State) (cause slotF kind info : Nat) (addr pc : Word) : State :=
  let s := s.dropUnit
  match s.sl.task with
  | none => s
  | some k =>
    if k.isNested then s.nestedFault k cause pc slotF
    else
      let a0 := faultWord cause slotF kind 0 s.th.lid info
      let item := s.threadItem s.curCore s.curSlot
      let evt := s.evtOf k.ctx cause
      let ptime := s.ptimeOf k.ctx cause
      match s.actionOf k.ctx cause with
      | 0 => s.killThread s.curCore s.curSlot
          (a0.toNat + pc.toNat * 2 ^ 64 + addr.toNat * 2 ^ 128 + item.toNat * 2 ^ 192)
      | 1 => if evt = 0 then
               (if cause = 19 then s.setTh { s.th with remain := if recBudget k.record = 0 then 0xFFFFFFFF else recBudget k.record }
                else s)
             else s.parkCur cause slotF kind info addr pc 1 evt ptime
      | 2 => s.parkCur cause slotF kind info addr pc 2 evt ptime
      | 3 => (s.parkCur cause slotF kind info addr pc 3 evt ptime).queueFault k.ctx cause s.curCore a0 pc addr item
               (.thread s.curCore s.curSlot) none
/-- An execution fault of the C instruction (R57, row 5). -/
def State.execFault (s : State) (cause : Nat) : State := s.takeTrap cause 0 0 0 0 s.th.pc
/-- The fault "device translation" (R204, R295): KIND and the first failing address, whose walk has recalled what it read (R192). -/
def State.devFault (s : State) (e : Nat × Word) : State := (s.recall (s.walksFor s.curCtx e.2)).takeTrap 6 0 e.1 0 e.2 s.th.pc
/-- The illegal-instruction fault of a slot (R57, row 3). -/
def State.illegal (s : State) (slotF : Nat) : State := s.takeTrap 4 slotF 0 0 0 s.th.pc
/-- The privilege fault (R57, row 4). -/
def State.privFault (s : State) : State := s.takeTrap 5 0 0 0 0 s.th.pc

/-! ## The ways back from a trap (R301 to R303) -/

/-- A parked thread re-executes its unit (RESUME); after a budget overrun REMAIN is loaded from the record (R252). -/
def State.resumeThread (s : State) (c : Nat) (t : Fin 4) : State :=
  let s := if c < 8192 then s.dropToken c t else s
  let sl := s.slotAt c t
  match sl.park, sl.task with
  | some p, some k =>
    let th := if p.cause = 19 then
        { sl.thread with remain := if recBudget k.record = 0 then 0xFFFFFFFF else recBudget k.record } else sl.thread
    s.setSlot c t { sl with park := none, thread := th, dictLag := [] }
  | _, _ => s
/-- The causes that CONTINUE skips (R303). -/
def skippable (cause : BitVec 6) : Bool := cause == 4 || cause == 5 || cause == 21 || cause == 22 || decide (32 ≤ cause.toNat)
/-- CONTINUE: the thread resumes after the faulting unit where its cause allows, else as under RESUME (R303). In a vector group the unit is then
over, as a completed one is: the leader's next pc is told, and a follower's own is compared (R265, log 24). -/
def State.continueThread (s : State) (c : Nat) (t : Fin 4) : State :=
  let sl := s.slotAt c t
  match sl.park with
  | some p =>
    if skippable p.cause && p.action != 4 then
      (s.setSlot c t { sl with park := none, thread := { sl.thread with pc := p.pc + 8 }, dictLag := []
                               task := sl.task.map fun k => { k with firstDone := true }, branchFrom := none }).asSlot c t
        fun s => s.groupDone (p.pc + 8)
    else s.resumeThread c t
  | none => s

/-- A parked copy goes on at DONEB (R219, R303). -/
def State.resumeCopy (s : State) (c : Nat) (ch : Fin 8) : State :=
  let x := s.coreAt c
  let k := x.chans.get ch
  match k.queue with
  | y :: r => s.setCore c { x with chans := x.chans.set ch.val { k with queue := { y with park := none } :: r } ch.isLt }
  | [] => s
/-- A copy killed (R219): the channel is freed, no completion is posted, no further byte is counted. -/
def State.killCopy (s : State) (c : Nat) (ch : Fin 8) : State :=
  let x := s.coreAt c
  let k := x.chans.get ch
  match k.queue with
  | y :: r =>
    let s := (s.setCore c { x with chans := x.chans.set ch.val (Channel.start { k with queue := r }) ch.isLt }).dropLocks [y.lock]
    s.liveDown y.who.ctx y.who.lid
  | [] => s

/-- A harp command that a soft error has stopped (R312): the handle of the task that issued it names it (log 98). -/
def State.stoppedHarp (s : State) (id : Nat) : Option (Nat × HarpCmd) :=
  (s.clusters.flatMap fun e => (e.2.harp.queue.filter fun o => o.who.tid == id && o.park.isSome).map fun o => (e.1, o)).head?
/-- A stopped command changed in its queue. -/
def State.setHarpPark (s : State) (k : Nat) (o : HarpCmd) (p : Option Park) : State :=
  let x := s.clusterAt k
  s.setCluster k { x with harp := { x.harp with queue := x.harp.queue.map fun q => if q.id = o.id then { q with park := p } else q } }
/-- A harp command killed (R219, R312): it posts nothing, its flags are recorded, and it leaves what a cancelled command does (R183). -/
def State.killHarp (s : State) (k : Nat) (o : HarpCmd) : State :=
  let x := s.clusterAt k
  let h := { x.harp with queue := x.harp.queue.filterMap fun (q : HarpCmd) => if q.id = o.id then q.cancelled fun _ => true else some q }
  (((s.setCluster k { x with harp := h.settle }).raise k o.who.ctx o.flags).dropLocks [o.id]).liveDown o.who.ctx o.who.lid
/-- The stopped command of a slot's task. -/
def State.slotHarp (s : State) (c : Nat) (t : Fin 4) : Option (Nat × HarpCmd) :=
  match (s.slotAt c t).task with
  | some k => s.stoppedHarp k.id
  | none => none
/-- A stopped command of a slot's task goes on (R303, log 98). -/
def State.resumeHarp (s : State) (c : Nat) (t : Fin 4) : State :=
  match s.slotHarp c t with
  | some (k, o) => s.setHarpPark k o none
  | none => s

/-- An item that a handle names (R304), where it stands now and belongs to the context: a thread or a copy. -/
inductive Item where
  | thread (c : Nat) (t : Fin 4)
  | copy (c : Nat) (ch : Fin 8)
  deriving DecidableEq, Repr
def State.item? (s : State) (ctx : Nat) (h : Word) : Option Item :=
  let n := h.toNat
  match s.physOf (BitVec.ofNat 13 (bitsOf n 0 13)) with
  | none => none
  | some c0 =>
    let c := s.homeNum ctx c0
    if bitsOf n 62 2 = 0 then
      let t : Fin 4 := Fin.ofNat 4 (bitsOf n 13 2)
      let sl := s.slotAt c t
      match sl.task with
      | some k => if k.ctx = ctx && sl.tseq.toNat = bitsOf n 15 16 then some (.thread c t) else none
      | none => none
    else if bitsOf n 62 2 = 1 then
      let ch : Fin 8 := Fin.ofNat 8 (bitsOf n 13 3)
      match ((s.coreAt c).chans.get ch).queue with
      | y :: _ => if y.who.ctx = ctx && y.cseq.toNat = bitsOf n 16 32 then some (.copy c ch) else none
      | [] => none
    else none

/-- The disposition RESUME on an item (R303). -/
def State.resumeItem (s : State) (ctx : Nat) (h : Word) : State :=
  match s.item? ctx h with
  | some (.thread c t) => (s.resumeThread c t).resumeHarp c t
  | some (.copy c ch) => s.resumeCopy c ch
  | none => s
/-- The disposition CONTINUE (R303): a copy resumes. -/
def State.continueItem (s : State) (ctx : Nat) (h : Word) : State :=
  match s.item? ctx h with
  | some (.thread c t) => (s.continueThread c t).resumeHarp c t
  | some (.copy c ch) => s.resumeCopy c ch
  | none => s
/-- The disposition KILL on a parked item, with containment (R303, R305). -/
def State.killItem (s : State) (ctx : Nat) (h : Word) : State :=
  match s.item? ctx h with
  | some (.thread c t) =>
    match (s.slotAt c t).park with
    | some p =>
      let sl := s.slotAt c t
      let nested := match sl.task with | some k => k.isNested | none => false
      let a0 := faultWord (if nested then 20 else p.cause.toNat) p.slotF.toNat p.kind.toNat nested.toNat sl.thread.lid p.info.toNat
      s.killThread c t (a0.toNat + p.pc.toNat * 2 ^ 64 + p.addr.toNat * 2 ^ 128 + h.toNat * 2 ^ 192)
    | none => (match s.slotHarp c t with | some (k, o) => s.killHarp k o | none => s)
  | some (.copy c ch) =>
    match ((s.coreAt c).chans.get ch).queue with
    | y :: _ => if y.park.isSome then s.killCopy c ch else s
    | [] => s
  | none => s

/-- Whether MAPPED resumes a parked item (R303): KIND 1 or 2, waiting for a mapping or for a disposition, and ADDR in the page. -/
def Park.mappedBy (p : Park) (page : Word) (size : Nat) : Bool :=
  (p.kind == 1 || p.kind == 2) && ((p.action == 1 && p.evt == 1) || p.action == 2 || p.action == 3)
    && (size == 3 || p.addr.toNat / 2 ^ (12 + 9 * size) == page.toNat / 2 ^ (12 + 9 * size))
/-- The disposition MAPPED (R303). -/
def State.mapped (s : State) (ctx : Nat) (page : Word) (size : Nat) : State :=
  let s := (s.cores.flatMap fun e => ([0, 1, 2, 3] : List (Fin 4)).map fun t => (e.1, t)).foldl (fun s e =>
    let sl := s.slotAt e.1 e.2
    match sl.park, sl.task with
    | some p, some k => if k.ctx = ctx && p.mappedBy page size then s.resumeThread e.1 e.2 else s
    | _, _ => s) s
  (s.cores.flatMap fun e => ([0, 1, 2, 3, 4, 5, 6, 7] : List (Fin 8)).map fun t => (e.1, t)).foldl (fun s e =>
    match ((s.coreAt e.1).chans.get e.2).queue with
    | y :: _ => match y.park with
      | some p => if y.who.ctx = ctx && p.mappedBy page size then s.resumeCopy e.1 e.2 else s
      | none => s
    | [] => s) s
/-- The disposition PARK (R303): a running thread is parked at the end of its unit. -/
def State.askPark (s : State) (ctx : Nat) (h : Word) : State :=
  match s.item? ctx h with
  | some (.thread c t) =>
    let sl := s.slotAt c t
    if sl.park.isNone then s.setSlot c t { sl with parkAsked := true } else s
  | _ => s
/-- The action table copied again from ACTBASE; one that cannot be read leaves the copy in force (R299). -/
def State.reload (s : State) (ctx : Nat) : State :=
  match s.ctx? ctx, s.vread ctx (s.descWord ctx 5) 1040 with
  | some x, .ok l => (s.saw ctx (s.descWord ctx 5) 1040).setCtx ctx { x with actions := some l }
  | some _, .error _ => s.saw ctx (s.descWord ctx 5) 1040
  | none, _ => s

end Sys2Proof.Machine
end

