-- ==== Sys2Proof/Machine/Operands.lean ====
section
/-! DEFINITION. Operand forms: typed-buffer addresses and the bytes they reach or miss (R7, R61, R99 to R102, R107, R169), device
addresses (R61, R204), register operands by type (R126), and the descriptors engine commands take. -/

namespace Sys2Proof.Machine

/-- What a meaning answers. -/
abbrev Step := Host.Outcome State Fault Refusal

/-! ## Allocations and wrapping (R7, R99, R100) -/

/-- The least power of two at or above n. -/
def pow2Above (n : Nat) : Nat := if n ≤ 1 then 1 else 2 ^ (Nat.log2 (n - 1) + 1)
/-- The whole M buffer (R99). -/
def Alloc.m : Alloc := ⟨0, 0x8000, 0x8000⟩
def Thread.alloc (th : Thread) : Buf → Alloc
  | .w => th.bufW
  | .a => th.bufA
  | .c => th.bufC
  | .m => Alloc.m
/-- WrapOff (R7): modulo the allocation rounded up to a power of two. Offsets are 64-bit sums. -/
def wrapOff (al : Alloc) (off : Nat) : Nat := off % pow2Above al.size.toNat
/-- Physical size of a buffer (R14). -/
def bufSize : Buf → Nat
  | .w => 0xC000
  | .a => 0x8000
  | .c => 0x4000
  | .m => 0x8000
/-- The physical place of byte i of an access at `off` (R100), none where it falls at or above SIZE. -/
def physByte (al : Alloc) (off i : Nat) : Option Nat :=
  let o := wrapOff al (off + i)
  if o < al.size.toNat then some (al.base.toNat * 64 + o) else none

/-- The bytes of a core's W, A or C buffer. -/
def Core.bufMem (x : Core) : Buf → Memory
  | .w => x.bufW
  | .a => x.bufA
  | .c => x.bufC
  | .m => x.frames
def Core.setBufMem (x : Core) (b : Buf) (m : Memory) : Core :=
  match b with
  | .w => { x with bufW := m }
  | .a => { x with bufA := m }
  | .c => { x with bufC := m }
  | .m => { x with frames := m }

/-- Bytes of a buffer under an allocation, as engines and threads read them (R100). -/
def bufRead (m : Memory) (al : Alloc) (off n : Nat) : List Byte :=
  (List.range n).map fun i => match physByte al off i with | some p => mget m p | none => 0
/-- Bytes written under an allocation; a byte at or above SIZE is discarded (R100, R212). -/
def bufWrite (m : Memory) (al : Alloc) : Nat → List Byte → Memory
  | _, [] => m
  | off, b :: r => bufWrite (match physByte al off 0 with | some p => mset m p b | none => m) al (off + 1) r

/-! ## What a thread reaches (R101, R102) -/

/-- Which typed-buffer access it is: a scalar load or store, or a vector one. -/
inductive AccKind where
  | load
  | store
  | vload
  | vstore
  deriving DecidableEq, Repr
/-- The table of R101 for W, A and C. -/
def reaches (k : AccKind) (b : Buf) : Bool :=
  match k, b with
  | .load, .a | .store, .a => true
  | .load, _ | .store, _ => false
  | .vload, _ => true
  | .vstore, .w => false
  | .vstore, _ => true

/-- The frame a byte of the inline region belongs to, where the current thread holds it (R102, R258). -/
def Slot.holdsFrame (sl : Slot) (f : Nat) : Bool := sl.inline.any fun i => i.frame == f
/-- A byte of the M buffer as a thread reads it (R102). -/
def State.mByte (s : State) (o : Nat) : Byte :=
  if o < 0x2000 then
    match tget s.co.inbox (o / 64) with
    | some e =>
      if e.ctx != s.curCtx then 0
      else
        let at_ (v : BitVec 512) : Byte := BitVec.ofNat 8 (bitsOf v.toNat (8 * (o % 64)) 8)
        match e.entry with
        | .record q => at_ q.record
        | .message m _ => at_ m
        | .completion m => at_ m
        | .carried b => at_ b
        | .package .. => 0
    | none => 0
  else if o < 0x6000 then 0
  else if o % 1024 < 256 then 0
  else if s.sl.holdsFrame ((o - 0x6000) / 1024) then mget s.co.frames o else 0
/-- Whether a thread's store to a byte of the M buffer lands (R102). -/
def State.mOpen (s : State) (o : Nat) : Bool :=
  decide (0x6000 ≤ o) && decide (256 ≤ o % 1024) && s.sl.holdsFrame ((o - 0x6000) / 1024)

/-- The bytes a thread's load delivers (R100 to R102). -/
def State.bufLoad (s : State) (k : AccKind) (b : Buf) (off n : Nat) : List Byte :=
  match b with
  | .m => (List.range n).map fun i => s.mByte (wrapOff Alloc.m (off + i))
  | _ => if reaches k b then bufRead (s.co.bufMem b) (s.th.alloc b) off n else List.replicate n 0
/-- A thread's store of bytes (R100 to R102). -/
def State.bufStore (s : State) (k : AccKind) (b : Buf) (off : Nat) (bytes : List Byte) : State :=
  match b with
  | .m =>
    let x := s.co
    s.setCo { x with frames := (bytes.zipIdx).foldl (fun m e =>
      let o := wrapOff Alloc.m (off + e.2)
      if s.mOpen o then mset m o e.1 else m) x.frames }
  | _ =>
    if reaches k b then
      let x := s.co
      s.setCo (x.setBufMem b (bufWrite (x.bufMem b) (s.th.alloc b) off bytes))
    else s

/-- The base and scaled displacement of the CM layout (R61): DISP13 unsigned with NB = 1. -/
def State.cmOff (s : State) (m : CmAddr) (size : Nat) : Nat :=
  if m.nb then m.disp.toNat * size
  else (s.g m.rb + w64 (2 ^ 64 + m.disp.toInt.toNat * size - (-m.disp.toInt).toNat * size)).toNat
/-- The sync slot of the CQ layout (R61, R220): the 16-byte slot of the sync region that the offset names. -/
def State.cqSlot (s : State) (o : CqAddr) : Nat :=
  let off := if o.nb then o.disp.toNat * 8
    else (s.g o.rb + w64 (2 ^ 64 + o.disp.toInt.toNat * 8 - (-o.disp.toInt).toNat * 8)).toNat
  wrapOff Alloc.m off % 0x1000 / 16
/-- The sync slot of an engine command's BOFF (R212, R220). -/
def boffSlot (boff : BitVec 9) : Nat := boff.toNat * 8 % 0x1000 / 16
/-- The virtual address of the CG layout (R61). -/
def State.cgVa (s : State) (m : CgAddr) : Word := s.g m.rb + sext64 m.disp

/-! ## Locks (R169) -/

/-- The physical segments that bytes of an access touch: one segment per byte run is enough for a test of overlap. -/
def physSegs (al : Alloc) (off n : Nat) : List (Nat × Nat) :=
  let size := pow2Above al.size.toNat
  let o := wrapOff al off
  let lim (a len : Nat) : List (Nat × Nat) :=
    if al.size.toNat ≤ a then [] else [(al.base.toNat * 64 + a, min len (al.size.toNat - a))]
  if size ≤ n then lim 0 size
  else if o + n ≤ size then lim o n else lim o (size - o) ++ lim 0 (o + n - size)
def segOverlap (a b : Nat × Nat) : Bool := decide (a.1 < b.1 + b.2) && decide (b.1 < a.1 + a.2)
def segsOverlap (xs ys : List (Nat × Nat)) : Bool := xs.any fun a => ys.any fun b => segOverlap a b
def Lock.covers (l : Lock) (b : Buf) (segs : List (Nat × Nat)) : Bool :=
  (match b with | .w => l.buf == .w && !l.isC | .a => l.buf == .a && !l.isC | .c => l.isC | .m => false)
    && segsOverlap l.segs segs
/-- Whether a thread access must wait for a lock: stores wait for every lock, loads for the locks of accumulator tiles. -/
def State.lockStall (s : State) (b : Buf) (off n : Nat) (isStore : Bool) : Bool :=
  let segs := physSegs (s.th.alloc b) off n
  s.co.locks.any fun l => (isStore || l.loads) && l.covers b segs

/-- Whether an access of a kind is a store. -/
def AccKind.isStore : AccKind → Bool
  | .store => true
  | .vstore => true
  | _ => false
/-- Whether an access stalls on a lock: one that the table of R101 makes null has no effect at all, and never does. -/
def State.stalls (s : State) (k : AccKind) (b : Buf) (off n : Nat) : Bool := reaches k b && s.lockStall b off n k.isStore
/-- The unit stalls, and is issued again (R250, log 79). -/
def State.stall (s : State) : State := s.setSl { s.sl with stalled := true }

/-! ## Resident blocks (R107) -/

/-- The kernel the current task runs. -/
def State.kernel? (s : State) : Option Kernel :=
  match s.sl.task, s.ctx? s.curCtx with
  | some k, some x => tget x.kernels k.khandle.toNat
  | _, _ => none
def Kernel.resident (k : Kernel) (b : Buf) (p : Nat) : Bool :=
  match b with
  | .w => k.resW.getLsbD (p / 1024)
  | .a => k.resA.getLsbD (p / 1024)
  | .c => k.resC.getLsbD (p / 1024)
  | .m => false
/-- Whether a store would write a byte of a resident block. -/
def State.hitsResident (s : State) (k : AccKind) (b : Buf) (off n : Nat) : Bool :=
  match s.kernel? with
  | none => false
  | some kn =>
    (b != .m) && reaches k b && (List.range n).any fun i =>
      match physByte (s.th.alloc b) (off + i) 0 with
      | some p => kn.resident b p
      | none => false
/-- Whether an engine would write a byte of a resident block (R107, R172, R213). -/
def State.engineHits (s : State) (b : Buf) (al : Alloc) (off n : Nat) : Bool :=
  match s.kernel? with
  | none => false
  | some kn => (physSegs al off n).any fun g =>
      (List.range (g.2 / 1024 + 2)).any fun j => decide (j * 1024 < g.1 % 1024 + g.2) && kn.resident b (g.1 + j * 1024 - g.1 % 1024)

/-! ## Register operands by type (R111, R126) -/

/-- The n-bit pattern of a register operand read as TY reads it. -/
def readInt (ty : Ty) (x : Word) : Int :=
  let n := ty.bits
  let v := x.toNat % 2 ^ n
  if ty.isZ then (v : Int) else if v < 2 ^ (n - 1) then (v : Int) else (v : Int) - (2 ^ n : Nat)
/-- The result register of an integer of type TY: reduced to n bits and extended by its suffix (R126). -/
def extendTy (ty : Ty) (v : Nat) : Word :=
  let n := ty.bits
  let r := v % 2 ^ n
  if ty.isZ then w64 r else if r < 2 ^ (n - 1) then w64 r else w64 (2 ^ 64 - 2 ^ n + r)
/-- An integer reduced modulo 2^64, as a natural number. -/
def intMod (v : Int) : Nat := (v % (two64 : Int)).toNat
/-- The least and greatest values of an integer type (R111). -/
def tyMin (ty : Ty) : Int := if ty.isZ then 0 else -((2 ^ (ty.bits - 1) : Nat) : Int)
def tyMax (ty : Ty) : Int := if ty.isZ then ((2 ^ ty.bits : Nat) : Int) - 1 else ((2 ^ (ty.bits - 1) : Nat) : Int) - 1

end Sys2Proof.Machine
end

