-- ==== Sys2Proof/Machine/Flags.lean ====
section
/-! DEFINITION. Flag computations: the comparisons that write predicates (R91), the IEEE flags an operation raises (R121), and
the status word of a fence (R200). -/

namespace Sys2Proof.Machine

/-- A comparison of unbounded integers (R91). -/
def Cc.holds (cc : Cc) (a b : Int) : Bool :=
  match cc with
  | .eq => decide (a = b)
  | .ne => decide (a ≠ b)
  | .lt => decide (a < b)
  | .le => decide (a ≤ b)
  | .gt => decide (b < a)
  | .ge => decide (b ≤ a)

/-- The five IEEE flags in FFLAGS order: NV, DZ, OF, UF, NX (R121). -/
def flagNV : BitVec 5 := 16
def flagDZ : BitVec 5 := 8
def flagOF : BitVec 5 := 4
def flagUF : BitVec 5 := 2
def flagNX : BitVec 5 := 1

/-- A comparison of two floating-point values (R137), from whether they are unordered, less, equal. -/
def FCc.holds (cc : FCc) (unord lt eq : Bool) : Bool :=
  match cc with
  | .eq => !unord && eq
  | .ne => unord || !eq
  | .lt => !unord && lt
  | .le => !unord && (lt || eq)
  | .gt => !unord && !lt && !eq
  | .ge => !unord && !lt
  | .uo => unord
  | .ord => !unord
/-- The integer comparisons of `vcmp` (R146); the unordered codes are unassigned for integers. -/
def FCc.holdsInt (cc : FCc) (a b : Int) : Bool := FCc.holds cc false (decide (a < b)) (decide (a = b))

/-- The entries of a thread's fence tracker that a scope covers (R200). -/
def State.ftIn (s : State) (owner : Nat) (scope : Scope) : List FtEntry :=
  s.ft.filter fun e => e.owner == owner && (match scope with
    | .core => false
    | .clu | .dev => e.peer.isNone
    | .sys => true)
/-- The fence status word of some entries (R200): REASON [57:56], CHIPS [55:24], UNCONF [23:0]. -/
def fenceWord (es : List FtEntry) : Word :=
  let dead := es.any fun e => e.failed == some .deadLink
  let refused := es.any fun e => e.failed == some .refused
  let chips := es.foldl (fun acc e => match e.peer with | some p => acc ||| BitVec.twoPow 32 p | none => acc) (0 : BitVec 32)
  w64 ((dead.toNat + 2 * refused.toNat) * 2 ^ 56 + chips.toNat * 2 ^ 24 + min es.length (2 ^ 24 - 1))
/-- UNCONF of a status word. -/
def fenceUnconf (es : List FtEntry) : BitVec 32 := BitVec.ofNat 32 (min es.length (2 ^ 24 - 1))

end Sys2Proof.Machine
end

