-- ==== Sys2Proof/Machine/Control.lean ====
section
/-! DEFINITION. The thread's own sequence (R88 to R98): branches, predicates, literals, loops, `trap` and `brk`. -/

namespace Sys2Proof.Machine

/-- `nop` in the C slot (R88). -/
def execNopC (s : State) : Step := .next s.complete
/-- `nop` in the A slot (R88). -/
def execNopA (s : State) : Step := .next (s.finishA ⟨.none, 0⟩)

/-! ## Branches (R89, R90) -/

/-- The unit DISP units away (R51). -/
def relTarget {n : Nat} (pc : Word) (d : BitVec n) : Word := pc + 8 * sext64 d
/-- A branch on a condition to a displaced unit. -/
def State.branchIf {n : Nat} (s : State) (c : Bool) (d : BitVec n) : State :=
  if c then s.completeTo (relTarget s.th.pc d) true else s.complete
/-- The link of a call: g15 receives the next unit's address (R51). -/
def State.link (s : State) : State := s.writeG 15 (s.th.pc + 8)

def execB (d : BitVec 24) (s : State) : Step := .next (s.branchIf true d)
def execBc (p : Fin 4) (d : BitVec 22) (s : State) : Step := .next (s.branchIf (s.th.p.get p) d)
def execBnc (p : Fin 4) (d : BitVec 22) (s : State) : Step := .next (s.branchIf (!s.th.p.get p) d)
def execBok (d : BitVec 24) (s : State) : Step := .next (s.branchIf (wsCode s.th.ws == 0) d)
def execBfail (d : BitVec 24) (s : State) : Step := .next (s.branchIf (wsCode s.th.ws != 0) d)
def execCall (d : BitVec 24) (s : State) : Step := .next (s.link.completeTo (relTarget s.th.pc d) true)

/-- A branch through a register (R90): the unit completes with every effect. A target whose bits [2:0] are not zero is kept as given, and the
fetch there raises the fetch-alignment fault (R57), after the breakpoints are checked (R366). -/
def State.jumpTo (s : State) (target : Word) : State :=
  if target &&& 7#64 = 0 then s.completeTo target true
  else (s.setSl { s.sl with misTarget := some target }).completeVia (target &&& ~~~7#64) target true

def execCallReg (a : Fin 16) (s : State) : Step := .next (s.link.jumpTo (s.g a))
def execJ (a : Fin 16) (s : State) : Step := .next (s.jumpTo (s.g a))
def execRet (s : State) : Step := .next (s.jumpTo (s.g 15))

/-! ## Predicates and selection (R91 to R93) -/

def execCmp (d : Fin 4) (a b : Fin 16) (cc : Cc) (ty : Ty) (s : State) : Step :=
  .next (s.writeP d (Cc.holds cc (readInt ty (s.g a)) (readInt ty (s.g b)))).complete
def execSel (d a b : Fin 16) (q : Fin 4) (s : State) : Step :=
  .next (s.writeG d (if s.th.p.get q then s.g a else s.g b)).complete
def execPset (d : Fin 4) (a : Fin 16) (s : State) : Step := .next (s.writeP d (s.g a != 0)).complete
def execPsetAnd (d a b : Fin 4) (s : State) : Step := .next (s.writeP d (s.th.p.get a && s.th.p.get b)).complete
def execPsetOr (d a b : Fin 4) (s : State) : Step := .next (s.writeP d (s.th.p.get a || s.th.p.get b)).complete
def execPsetXor (d a b : Fin 4) (s : State) : Step := .next (s.writeP d (s.th.p.get a != s.th.p.get b)).complete
def execPsetNot (d a : Fin 4) (s : State) : Step := .next (s.writeP d (!s.th.p.get a)).complete

/-! ## Literals and C-slot immediates (R94, R132) -/

def execLdi (d : Fin 16) (lit : BitVec 32) (s : State) : Step := .next (s.writeG d (sext64 lit)).complete
/-- LIT32 over the upper half of a register (R94). -/
def highHalf (old : Word) (lit : BitVec 32) : Word := w64 (old.toNat % 2 ^ 32 + lit.toNat * 2 ^ 32)
def execLdiHi (d : Fin 16) (lit : BitVec 32) (s : State) : Step := .next (s.writeG d (highHalf (s.g d) lit)).complete
def execAddiC (d a : Fin 16) (imm : BitVec 16) (s : State) : Step := .next (s.writeG d (s.g a + sext64 imm)).complete
def execMoviC (d : Fin 16) (imm : BitVec 16) (s : State) : Step := .next (s.writeG d (sext64 imm)).complete

/-! ## Loops (R95 to R98) -/

/-- `loop` (R97): the shape record is 16 bytes of the A buffer. -/
def execLoop (ri rb : Fin 16) (nb : Bool) (disp : BitVec 13) (dist : BitVec 24) (s : State) : Step :=
  let r := leNat (s.bufLoad .load .a (s.cmOff ⟨rb, .a, nb, disp⟩ 16) 16)
  let start := w64 (bitsOf r 0 64)
  let count : BitVec 32 := BitVec.ofNat 32 (bitsOf r 64 32)
  let step : BitVec 32 := BitVec.ofNat 32 (bitsOf r 96 32)
  if count = 0 then .next ((s.writeG ri start).completeTo (s.th.pc + 8 * (zext64 dist + 1)) true)
  else if 4 ≤ s.th.loops.length then .next (s.execFault 8)
  else
    let s := s.writeG ri start
    .next (s.setTh { s.th with loops := ⟨count, sext64 step, ri⟩ :: s.th.loops }).complete

/-- `lend`: the top entry counts down and the body repeats, or it is popped (R98). -/
def execLend (d : BitVec 24) (s : State) : Step :=
  match s.th.loops with
  | [] => .next (s.execFault 8)
  | e :: r =>
    if 1 < e.rem.toNat then
      let s := s.writeG e.ri (s.g e.ri + e.step)
      .next ((s.setTh { s.th with loops := { e with rem := e.rem - 1 } :: r }).completeTo (relTarget s.th.pc d) true)
    else .next (s.setTh { s.th with loops := r }).complete
/-- `lend.pop` (R98). -/
def execLendPop (s : State) : Step :=
  match s.th.loops with
  | [] => .next (s.execFault 8)
  | _ :: r => .next (s.setTh { s.th with loops := r }).complete

/-! ## `trap`, `brk` and the fault opcodes (R83, R316, R317) -/

/-- `trap` (R316): software trap n, INFO the low half of a register. -/
def execTrap (a : Fin 16) (n : BitVec 5) (s : State) : Step :=
  .next (s.takeTrap (32 + n.toNat) 0 0 (bitsOf (s.g a).toNat 0 32) 0 s.th.pc)
/-- `brk` (R317): a breakpoint trap, or a halt where a debugger has claimed the context. -/
def execBrk (imm : BitVec 16) (s : State) : Step :=
  match s.ctx? s.curCtx with
  | some x =>
    if Option.isSome x.debug then
      let s := s.dropUnit
      .next (s.setSl { s.sl with halt := some ⟨4, 0⟩, stepping := false })
    else .next (s.takeTrap 21 0 0 imm.toNat 0 s.th.pc)
  | none => .next (s.takeTrap 21 0 0 imm.toNat 0 s.th.pc)
def execUdf (s : State) : Step := .next (s.illegal 0)
def execUdfa (s : State) : Step := .next (s.illegal 1)

end Sys2Proof.Machine
end

