-- ==== Sys2Proof/Machine/Buffers.lean ====
section
/-! DEFINITION. Typed-buffer loads and stores by threads (R99 to R108). -/

namespace Sys2Proof.Machine

/-- A load that no lock of an accumulator tile holds back (R169); a stalled unit is issued again. -/
def State.loading (s : State) (k : AccKind) (b : Buf) (off n : Nat) (go : State) : State :=
  if s.stalls k b off n then s.stall else go
/-- The ending of a store's transition: a CAP ending raises "irrevocable wait failed" with the wait status as ADDR (R107, R297). -/
def endStore (code : BitVec 8) (s : State) : State := s.sampleWait.takeTrap 10 0 0 0 (wsWord code 0) s.th.pc
/-- The stage of a store whose transition is over, and which a range locked meanwhile still holds back. -/
def stageLocked : Nat := 7
/-- A store whose wait for the transition has ended DONE by the commit step, and writes ws so (R66, R107): it is performed, or, on a range locked since,
it is held until that is free, and no deadline ends it any more. -/
def State.storeOn (s : State) (w : Wait) (locked : Bool) (go : State → State) : State :=
  if w.stage = stageLocked then (if locked then s else go ((s.setSl { s.sl with wait := none }).writeWs codeDone 0))
  else if locked then
    s.sampleWait.setSl { s.sl with wait := some { w with stage := stageLocked, sel := BitVec.allOnes 64, capAt := BitVec.allOnes 64 } }
  else go (s.writeWs codeDone 0)
/-- A store (R107, R108, R169): it stalls on a locked range (log 106); into a resident block a speculative task first makes the transition under
`cap`. -/
def State.storeWith (s : State) (i : Instr) (locked resident : Bool) (go : State → State) : State :=
  match s.sl.wait with
  | some w => if s.spec then s.transition i .cap go endStore else s.storeOn w locked go
  | none => if locked then s.stall else if resident then s.transition i .cap go endStore else go s
def State.storing (s : State) (i : Instr) (k : AccKind) (b : Buf) (off n : Nat) (go : State → State) : State :=
  s.storeWith i (s.stalls k b off n) (s.hitsResident k b off n) go

/-- The value of S loaded bytes, extended as the form says (R103). -/
def State.loadScalar (s : State) (t : Fin 16) (m : CmAddr) (size : Nat) (ext : Nat → Word) : State :=
  let off := s.cmOff m size
  s.loading .load m.buf off size (s.writeG t (ext (leNat (s.bufLoad .load m.buf off size)))).complete
/-- S bytes of a register stored (R103). -/
def State.storeScalar (s : State) (i : Instr) (t : Fin 16) (m : CmAddr) (size : Nat) : State :=
  let off := s.cmOff m size
  s.storing i .store m.buf off size fun s => (s.bufStore .store m.buf off (leBytes size (s.g t).toNat)).complete

def execLdB (t : Fin 16) (m : CmAddr) (s : State) : Step := .next (s.loadScalar t m 1 (extendTy .b))
def execLdH (t : Fin 16) (m : CmAddr) (s : State) : Step := .next (s.loadScalar t m 2 (extendTy .h))
def execLdW (t : Fin 16) (m : CmAddr) (s : State) : Step := .next (s.loadScalar t m 4 (extendTy .w))
def execLdD (t : Fin 16) (m : CmAddr) (s : State) : Step := .next (s.loadScalar t m 8 (extendTy .d))
def execLdZb (t : Fin 16) (m : CmAddr) (s : State) : Step := .next (s.loadScalar t m 1 (extendTy .zb))
def execLdZh (t : Fin 16) (m : CmAddr) (s : State) : Step := .next (s.loadScalar t m 2 (extendTy .zh))
def execLdZw (t : Fin 16) (m : CmAddr) (s : State) : Step := .next (s.loadScalar t m 4 (extendTy .zw))
def execStB (t : Fin 16) (m : CmAddr) (s : State) : Step := .next (s.storeScalar (.stB t m) t m 1)
def execStH (t : Fin 16) (m : CmAddr) (s : State) : Step := .next (s.storeScalar (.stH t m) t m 2)
def execStW (t : Fin 16) (m : CmAddr) (s : State) : Step := .next (s.storeScalar (.stW t m) t m 4)
def execStD (t : Fin 16) (m : CmAddr) (s : State) : Step := .next (s.storeScalar (.stD t m) t m 8)

/-- `vld` (R104). -/
def execVld (t : Fin 16) (m : CmAddr) (s : State) : Step :=
  let off := s.cmOff m 64
  .next (s.loading .vload m.buf off 64
    (s.setSl (s.sl.setV t (BitVec.ofNat 512 (leNat (s.bufLoad .vload m.buf off 64))))).complete)
/-- `vst` (R104). -/
def execVst (t : Fin 16) (m : CmAddr) (s : State) : Step :=
  let off := s.cmOff m 64
  .next (s.storing (.vst t m) .vstore m.buf off 64 fun s =>
    (s.bufStore .vstore m.buf off (leBytes 64 (s.sl.v.get t).toNat)).complete)

/-- Whether lane i of `vldx` and `vstx` is active: Q 0b00 opens every lane, else mask m[Q] (R105). -/
def State.laneOn (s : State) (q : Fin 4) (i : Nat) : Bool :=
  q == 0 || (s.sl.m.get ⟨q.val, by omega⟩).getLsbD i
/-- The offset of lane i (R105). -/
def State.laneOff (s : State) (a b : Fin 16) (n i : Nat) : Nat :=
  (s.g b).toNat + n * bitsOf (s.sl.v.get a).toNat (8 * n * i) (8 * n)
/-- `vldx` (R105): a gather; inactive lanes keep their part. -/
def execVldx (d a b : Fin 16) (bu : Buf) (ty : Ty) (q : Fin 4) (s : State) : Step :=
  let n := ty.size
  let lanes := (List.range ty.lanes).filter (s.laneOn q)
  if lanes.any fun i => s.stalls .vload bu (s.laneOff a b n i) n then .next s.stall
  else
    let old := leBytes 64 (s.sl.v.get d).toNat
    let bytes := (List.range 64).map fun k =>
      if s.laneOn q (k / n) then (s.bufLoad .vload bu (s.laneOff a b n (k / n) + k % n) 1).headD 0 else old.getD k 0
    .next (s.setSl (s.sl.setV d (BitVec.ofNat 512 (leNat bytes)))).complete
/-- The scatter of `vstx`, lanes in ascending order (R105). -/
def State.scatter (s : State) (d a b : Fin 16) (bu : Buf) (n : Nat) (lanes : List Nat) : State :=
  lanes.foldl (fun st i => st.bufStore .vstore bu (s.laneOff a b n i)
    (leBytes n (bitsOf (s.sl.v.get d).toNat (8 * n * i) (8 * n)))) s
def execVstx (d a b : Fin 16) (bu : Buf) (ty : Ty) (q : Fin 4) (s : State) : Step :=
  let n := ty.size
  let lanes := (List.range ty.lanes).filter (s.laneOn q)
  .next (s.storeWith (.vstx d a b bu ty q) (lanes.any fun i => s.stalls .vstore bu (s.laneOff a b n i) n)
    (lanes.any fun i => s.hitsResident .vstore bu (s.laneOff a b n i) n) fun s => (s.scatter d a b bu n lanes).complete)

end Sys2Proof.Machine
end

