-- ==== Sys2Proof/Machine/Float.lean ====
section
/-! DEFINITION. Floating point: the formats (R112 to R114), the one rounding of R118 and R119, the operations of R134 to R143 and
the conversions of R120, each on bit patterns, with the IEEE flags it raises (R121). -/

namespace Sys2Proof.Machine

/-! ## Formats and values -/

/-- A floating-point format (R110, R112): width, precision p, emin, emax; `noInf` marks E4M3. -/
structure FFmt where
  n : Nat
  p : Nat
  emin : Int
  emax : Int
  noInf : Bool
  deriving DecidableEq, Repr

/-- The format of a floating-point type; types that are none take the FP32 row. -/
def ffmtOf : Ty → FFmt
  | .bf16 => ⟨16, 8, -126, 127, false⟩
  | .f16 => ⟨16, 11, -14, 15, false⟩
  | .e4m3 => ⟨8, 4, -6, 8, true⟩
  | .e5m2 => ⟨8, 3, -14, 15, false⟩
  | _ => ⟨32, 24, -126, 127, false⟩

/-- The all-ones exponent field. -/
def FFmt.eTop (f : FFmt) : Nat := 2 ^ (f.n - f.p) - 1
/-- Canonical NaN (R112). -/
def FFmt.nan (f : FFmt) : Nat := if f.noInf then 0x7F else f.eTop * 2 ^ (f.p - 1) + 2 ^ (f.p - 2)
/-- Significand of the largest finite value, on the grid of emax. -/
def FFmt.maxSig (f : FFmt) : Nat := if f.noInf then 2 ^ f.p - 2 else 2 ^ f.p - 1
/-- The sign bit at its place. -/
def FFmt.signBit (f : FFmt) (s : Bool) : Nat := if s then 2 ^ (f.n - 1) else 0
/-- Pattern of the largest finite value (R112). -/
def FFmt.maxF (f : FFmt) (s : Bool) : Nat :=
  f.signBit s + ((f.emax - f.emin).toNat * 2 ^ (f.p - 1) + f.maxSig)
/-- Pattern of an infinity; the canonical NaN where the format has none (R119). -/
def FFmt.inf (f : FFmt) (s : Bool) : Nat := if f.noInf then f.nan else f.signBit s + f.eTop * 2 ^ (f.p - 1)
/-- Pattern of 1. -/
def FFmt.one (f : FFmt) : Nat := (-f.emin).toNat * 2 ^ (f.p - 1) + 2 ^ (f.p - 1)

/-- What a pattern denotes (R113): a NaN, signalling or not; an infinity; or (−1)^s × m × 2^e, where m = 0 is a zero. -/
inductive FVal where
  | nan (sig : Bool)
  | inf (s : Bool)
  | fin (s : Bool) (m : Nat) (e : Int)
  deriving DecidableEq, Repr

/-- The value of a pattern (R113, R114). -/
def FFmt.val (f : FFmt) (x : Nat) : FVal :=
  let s := bitsOf x (f.n - 1) 1 = 1
  let e := bitsOf x (f.p - 1) (f.n - f.p)
  let m := bitsOf x 0 (f.p - 1)
  if e = f.eTop && (!f.noInf || m = 7) then
    if m = 0 then .inf s else .nan (!f.noInf && bitsOf m (f.p - 2) 1 = 0)
  else if e = 0 then .fin s m (f.emin - (f.p - 1 : Nat))
  else .fin s (m + 2 ^ (f.p - 1)) (f.emin + (e - 1 : Nat) - (f.p - 1 : Nat))

/-- A pattern and the flags raised on the way to it. -/
abbrev FRes := Nat × BitVec 5

/-- Rounding modes (R117). -/
def modeNe : BitVec 2 := 0
def modeTz : BitVec 2 := 1
def modeUp : BitVec 2 := 2
def modeDn : BitVec 2 := 3

/-- Whether the multiple above is chosen, from the lower multiple, the remainder and the step (R118). -/
def roundsUp (mode : BitVec 2) (s : Bool) (lo r step : Nat) : Bool :=
  if r = 0 then false
  else if mode = modeNe then decide (step < 2 * r) || (2 * r = step && lo % 2 = 1)
  else if mode = modeTz then false
  else if mode = modeUp then !s
  else s

/-- The result of an overflow (R119). -/
def FFmt.overflow (f : FFmt) (mode : BitVec 2) (sat : Bool) (s : Bool) : Nat :=
  if sat then f.maxF s
  else if mode = modeNe then f.inf s
  else if mode = modeTz then f.maxF s
  else if mode = modeUp then (if s then f.maxF s else f.inf s)
  else (if s then f.inf s else f.maxF s)

/-- `RoundTo` (R118) of (−1)^s × m × 2^e with m not 0; `sat` is the saturating form of R119. -/
def FFmt.round (f : FFmt) (mode : BitVec 2) (sat : Bool) (s : Bool) (m : Nat) (e : Int) : FRes :=
  let k := (Nat.log2 m : Int) + e
  let g := (if k < f.emin then f.emin else k) - (f.p - 1 : Nat)
  let sh := (g - e).toNat
  let lo := if g ≤ e then m * 2 ^ (e - g).toNat else m / 2 ^ sh
  let r := if g ≤ e then 0 else m % 2 ^ sh
  let y := if roundsUp mode s lo r (2 ^ sh) then lo + 1 else lo
  let top := f.emax - (f.p - 1 : Nat)
  let nx := if r = 0 then 0 else flagNX
  if top < g || (g = top && f.maxSig < y) then (f.overflow mode sat s, flagOF ||| flagNX)
  else
    (f.signBit s + ((g - (f.emin - (f.p - 1 : Nat))).toNat * 2 ^ (f.p - 1) + y),
      nx ||| (if k < f.emin && r != 0 then flagUF else 0))

/-- A finite value rounded; a zero keeps the sign given. -/
def FFmt.roundZ (f : FFmt) (mode : BitVec 2) (sat : Bool) (s : Bool) (m : Nat) (e : Int) : FRes :=
  if m = 0 then (f.signBit s, 0) else f.round mode sat s m e

/-! ## NaNs -/

def FVal.isNan : FVal → Bool
  | .nan _ => true
  | _ => false
def FVal.isSig : FVal → Bool
  | .nan sig => sig
  | _ => false
def FVal.isInf : FVal → Bool
  | .inf _ => true
  | _ => false
def FVal.isZero : FVal → Bool
  | .fin _ m _ => m = 0
  | _ => false
def FVal.sign : FVal → Bool
  | .nan _ => false
  | .inf s => s
  | .fin s _ _ => s
def FVal.neg : FVal → FVal
  | .nan g => .nan g
  | .inf s => .inf !s
  | .fin s m e => .fin (!s) m e
/-- NV where the condition holds. -/
def nvIf (c : Bool) : BitVec 5 := if c then flagNV else 0

/-! ## Sums and products (R134) -/

/-- The signed magnitude at a lower exponent. -/
def alignInt (s : Bool) (m : Nat) (e lo : Int) : Int :=
  let v : Int := (m * 2 ^ (e - lo).toNat : Nat)
  if s then -v else v
/-- The exact sum of two finite values, rounded; the sign of a zero sum by R134. -/
def FFmt.sumFin (f : FFmt) (mode : BitVec 2) (s1 : Bool) (m1 : Nat) (e1 : Int) (s2 : Bool) (m2 : Nat) (e2 : Int) : FRes :=
  let lo := if e1 < e2 then e1 else e2
  let v := alignInt s1 m1 e1 lo + alignInt s2 m2 e2 lo
  if v = 0 then
    (f.signBit (if m1 = 0 && m2 = 0 && s1 == s2 then s1 else mode == modeDn), 0)
  else f.round mode false (decide (v < 0)) v.natAbs lo
/-- a + b (R134). -/
def FFmt.addV (f : FFmt) (mode : BitVec 2) (a b : FVal) : FRes :=
  match a, b with
  | .fin s1 m1 e1, .fin s2 m2 e2 => f.sumFin mode s1 m1 e1 s2 m2 e2
  | .inf s1, .inf s2 => if s1 == s2 then (f.inf s1, 0) else (f.nan, flagNV)
  | .inf s1, .fin .. => (f.inf s1, 0)
  | .fin .., .inf s2 => (f.inf s2, 0)
  | _, _ => (f.nan, nvIf (a.isSig || b.isSig))
def FFmt.fadd (f : FFmt) (mode : BitVec 2) (a b : Nat) : FRes := f.addV mode (f.val a) (f.val b)
def FFmt.fsub (f : FFmt) (mode : BitVec 2) (a b : Nat) : FRes := f.addV mode (f.val a) (f.val b).neg
/-- a × b (R134). -/
def FFmt.fmul (f : FFmt) (mode : BitVec 2) (a b : Nat) : FRes :=
  let x := f.val a
  let y := f.val b
  match x, y with
  | .fin s1 m1 e1, .fin s2 m2 e2 => f.roundZ mode false (s1 != s2) (m1 * m2) (e1 + e2)
  | .nan _, _ => (f.nan, nvIf (x.isSig || y.isSig))
  | _, .nan _ => (f.nan, nvIf (x.isSig || y.isSig))
  | _, _ => if x.isZero || y.isZero then (f.nan, flagNV) else (f.inf (x.sign != y.sign), 0)
/-- a × b + c with one rounding (R134). -/
def FFmt.ffma (f : FFmt) (mode : BitVec 2) (a b c : Nat) : FRes :=
  let x := f.val a
  let y := f.val b
  let z := f.val c
  if (x.isZero && y.isInf) || (x.isInf && y.isZero) then (f.nan, flagNV)
  else if x.isNan || y.isNan || z.isNan then (f.nan, nvIf (x.isSig || y.isSig || z.isSig))
  else
    let s := x.sign != y.sign
    match x, y, z with
    | .fin _ m1 e1, .fin _ m2 e2, .fin s3 m3 e3 => f.sumFin mode s (m1 * m2) (e1 + e2) s3 m3 e3
    | .fin .., .fin .., .inf s3 => (f.inf s3, 0)
    | _, _, .inf s3 => if s == s3 then (f.inf s3, 0) else (f.nan, flagNV)
    | _, _, _ => (f.inf s, 0)

/-! ## Order (R135, R137) -/

/-- The place of a pattern that is no NaN in the order of values; `zeros` puts −0 below +0. -/
def FFmt.key (f : FFmt) (zeros : Bool) (x : Nat) : Int :=
  let mag : Int := (bitsOf x 0 (f.n - 1) : Nat)
  if bitsOf x (f.n - 1) 1 = 1 then (if zeros then -mag - 1 else -mag) else mag
/-- `fmin` and `fmax` (R135); `num` prefers the number over a quiet NaN (R145). -/
def FFmt.minmax (f : FFmt) (isMax num : Bool) (a b : Nat) : FRes :=
  let x := f.val a
  let y := f.val b
  let a := a % 2 ^ f.n
  let b := b % 2 ^ f.n
  if x.isSig || y.isSig then (f.nan, flagNV)
  else if x.isNan || y.isNan then
    if num && !y.isNan then (b, 0) else if num && !x.isNan then (a, 0) else (f.nan, 0)
  else
    let less := decide (f.key true a < f.key true b)
    (if less == isMax then b else a, 0)
/-- `fcmp` (R137). -/
def FFmt.fcmp (f : FFmt) (cc : FCc) (a b : Nat) : Bool × BitVec 5 :=
  let x := f.val a
  let y := f.val b
  let unord := x.isNan || y.isNan
  let quiet := match cc with | .eq | .ne | .uo | .ord => true | _ => false
  (FCc.holds cc unord (decide (f.key false a < f.key false b)) (decide (f.key false a = f.key false b)),
    nvIf (if quiet then x.isSig || y.isSig else unord))

/-! ## Bit-level forms (R136, R138) -/

/-- Magnitude of a under a new sign (R136). -/
def FFmt.withSign (f : FFmt) (a : Nat) (s : Bool) : Nat := bitsOf a 0 (f.n - 1) + f.signBit s
def FFmt.signOf (f : FFmt) (a : Nat) : Bool := bitsOf a (f.n - 1) 1 = 1
/-- `fclass` (R138). -/
def FFmt.fclass (f : FFmt) (a : Nat) : Nat :=
  match f.val a with
  | .nan sig => if sig then 256 else 512
  | .inf s => if s then 1 else 128
  | .fin s m _ =>
    if m = 0 then (if s then 8 else 16)
    else if m < 2 ^ (f.p - 1) then (if s then 4 else 32)
    else (if s then 2 else 64)

/-! ## Roots and reciprocals (R139) -/

/-- The greatest r with r² ≤ n among r below 2^i, built on r0. -/
def isqrtFrom : Nat → Nat → Nat → Nat
  | 0, _, r => r
  | i + 1, n, r => let c := r + 2 ^ i; isqrtFrom i n (if c * c ≤ n then c else r)
/-- The integer square root. -/
def isqrt (n : Nat) : Nat := isqrtFrom (Nat.log2 n / 2 + 1) n 0
/-- A significand one bit longer whose last bit says that something is left over: it rounds as the exact value does. -/
def sticky (q : Nat) (exact : Bool) : Nat := 2 * q + (if exact then 0 else 1)

/-- `frcp` (R139). -/
def FFmt.frcp (f : FFmt) (mode : BitVec 2) (a : Nat) : FRes :=
  match f.val a with
  | .nan sig => (f.nan, nvIf sig)
  | .inf s => (f.signBit s, 0)
  | .fin s m e =>
    if m = 0 then (f.inf s, flagDZ)
    else
      let k := Nat.log2 m + 40
      f.round mode false s (sticky (2 ^ k / m) (2 ^ k % m = 0)) (-e - k - 1)
/-- m × 2^e with an even exponent. -/
def evenExp (m : Nat) (e : Int) : Nat × Int := if e % 2 = 0 then (m, e) else (2 * m, e - 1)
/-- `fsqrt` (R139). -/
def FFmt.fsqrt (f : FFmt) (mode : BitVec 2) (a : Nat) : FRes :=
  match f.val a with
  | .nan sig => (f.nan, nvIf sig)
  | .inf s => if s then (f.nan, flagNV) else (f.inf false, 0)
  | .fin s m e =>
    if m = 0 then (f.signBit s, 0)
    else if s then (f.nan, flagNV)
    else
      let (m, e) := evenExp m e
      let n := m * 2 ^ 60
      let r := isqrt n
      f.round mode false false (sticky r (r * r = n)) ((e - 60) / 2 - 1)
/-- `frsq` (R139): toward zero in every mode. -/
def FFmt.frsq (f : FFmt) (a : Nat) : FRes :=
  match f.val a with
  | .nan sig => (f.nan, nvIf sig)
  | .inf s => if s then (f.nan, flagNV) else (0, 0)
  | .fin s m e =>
    if m = 0 then (f.inf s, flagDZ)
    else if s then (f.nan, flagNV)
    else
      let (m, e) := evenExp m e
      let r := isqrt (2 ^ 120 / m)
      f.round modeTz false false (sticky r (r * r * m = 2 ^ 120)) (-(e / 2) - 60 - 1)

/-! ## Integral values, exponents (R140, R142, R143) -/

/-- m × 2^e rounded to an integer, and whether that changed it. -/
def toInteger (mode : BitVec 2) (s : Bool) (m : Nat) (e : Int) : Nat × Bool :=
  if 0 ≤ e then (m * 2 ^ e.toNat, false)
  else
    let step := 2 ^ (-e).toNat
    let lo := m / step
    let r := m % step
    (if roundsUp mode s lo r step then lo + 1 else lo, r != 0)
/-- The mode that `frint` and `vrint` select (R85, R148). -/
def roundMode (md : RMode) (rmode : BitVec 2) : BitVec 2 :=
  match md with
  | .dyn => rmode
  | .rne => modeNe
  | .rtz => modeTz
  | .rup => modeUp
  | .rdn => modeDn
/-- `frint` (R140). -/
def FFmt.frint (f : FFmt) (mode : BitVec 2) (a : Nat) : FRes :=
  match f.val a with
  | .nan sig => (f.nan, nvIf sig)
  | .inf s => (f.inf s, 0)
  | .fin s m e =>
    let (v, changed) := toInteger mode s m e
    if changed then ((f.roundZ mode false s v 0).1, 0) else (a % 2 ^ f.n, 0)

/-- `fscaleb` (R143). A count beyond ±1000 gives the same rounding as ±1000 in every format. -/
def FFmt.fscaleb (f : FFmt) (mode : BitVec 2) (a : Nat) (k : Int) : FRes :=
  match f.val a with
  | .nan sig => (f.nan, nvIf sig)
  | .inf s => (f.inf s, 0)
  | .fin s m e => if m = 0 then (f.signBit s, 0) else f.round mode false s m (e + satInt k (-1000) 1000)

/-- 2^320: the unit of the fixed-point series of `fexp2f` (log 11). -/
def fixOne : Int := (2 ^ 320 : Nat)
/-- ln 2 as the sum of 1 ÷ (k × 2^k) for k up to n, in units of 2^−320. -/
def ln2Sum : Nat → Int
  | 0 => 0
  | n + 1 => ln2Sum n + fixOne / (((n + 1) * 2 ^ (n + 1) : Nat) : Int)
/-- The exponential series of t to its n-th term by Horner's rule from term i on. -/
def expHorner (t : Int) : Nat → Int → Int
  | 0, acc => acc
  | n + 1, acc => expHorner t n (fixOne + t * acc / (fixOne * (n + 1 : Nat)))
/-- `fexp2f` (R142): 2^a toward zero. -/
def fexp2f (a : Nat) : FRes :=
  let f := ffmtOf .f32
  match f.val a with
  | .nan sig => (f.nan, nvIf sig)
  | .inf _ => (f.nan, flagNV)
  | .fin s m e =>
    if m = 0 then (f.one, 0)
    else if 0 ≤ e || 2 ^ (-e).toNat < 2 * m then (f.nan, flagNV)
    else
      let t := ln2Sum 330 * m / ((2 ^ (-e).toNat : Nat) : Int)
      let v := expHorner (if s then -t else t) 70 fixOne
      f.round modeTz false false (sticky v.toNat false) (-321)

/-! ## Conversions (R120, R141) -/

/-- Float to float. -/
def cvtFF (dst src : FFmt) (mode : BitVec 2) (sat : Bool) (a : Nat) : FRes :=
  match src.val a with
  | .nan sig => (dst.nan, nvIf sig)
  | .inf s => if dst.noInf then (if sat then dst.maxF s else dst.nan, flagNV) else (dst.inf s, 0)
  | .fin s m e => dst.roundZ mode sat s m e
/-- Integer to float. -/
def cvtIF (dst : FFmt) (mode : BitVec 2) (sat : Bool) (v : Int) : FRes :=
  dst.roundZ mode sat (decide (v < 0)) v.natAbs 0
/-- Float to integer: the pattern before its extension by suffix. -/
def cvtFI (dst : Ty) (src : FFmt) (mode : BitVec 2) (sat : Bool) (a : Nat) : FRes :=
  let bad := 2 ^ (dst.bits - 1)
  match src.val a with
  | .nan _ => (if sat then 0 else bad, flagNV)
  | .inf s => (if sat then intMod (if s then tyMin dst else tyMax dst) % 2 ^ dst.bits else bad, flagNV)
  | .fin s m e =>
    let (v, changed) := toInteger mode s m e
    let v : Int := if s then -(v : Int) else v
    let nx := if changed then flagNX else 0
    if v < tyMin dst || tyMax dst < v then
      (if sat then intMod (satInt v (tyMin dst) (tyMax dst)) % 2 ^ dst.bits else bad, nx ||| flagNV)
    else (intMod v % 2 ^ dst.bits, nx)
/-- A conversion of one value between the pairs of R141 (R120). -/
def convert (dst src : Ty) (mode : BitVec 2) (sat : Bool) (a : Nat) : FRes :=
  if dst.isFloat then
    if src.isFloat then cvtFF (ffmtOf dst) (ffmtOf src) mode sat a else cvtIF (ffmtOf dst) mode sat (readInt src (w64 a))
  else cvtFI dst (ffmtOf src) mode sat a

end Sys2Proof.Machine
end

