-- ==== Sys2Proof/Machine/ScalarInt.lean ====
section
/-! DEFINITION. Scalar integer arithmetic of the A slot (R126 to R132). The operations stand first, on n-bit patterns as natural
numbers, since the vector lanes use them too (R144). -/

namespace Sys2Proof.Machine

/-! ## Operations on n-bit patterns (R126 to R128) -/

/-- An n-bit pattern read as two's complement. -/
def signedOf (n x : Nat) : Int := if x < 2 ^ (n - 1) then (x : Int) else (x : Int) - (2 ^ n : Nat)
/-- An unbounded integer reduced to n bits. -/
def wrapInt (n : Nat) (v : Int) : Nat := (v % ((2 ^ n : Nat) : Int)).toNat

def opAdd (n a b : Nat) : Nat := (a + b) % 2 ^ n
def opSub (n a b : Nat) : Nat := (a + 2 ^ n - b) % 2 ^ n
def opMul (n a b : Nat) : Nat := a * b % 2 ^ n
def opMulh (n a b : Nat) : Nat := wrapInt n (signedOf n a * signedOf n b / ((2 ^ n : Nat) : Int))
def opMulhz (n a b : Nat) : Nat := a * b / 2 ^ n
/-- Truncated division; a zero divisor gives −1 (R128). -/
def opDiv (n a b : Nat) : Nat :=
  if b = 0 then 2 ^ n - 1 else wrapInt n (tdivInt (signedOf n a) (signedOf n b))
/-- A zero divisor gives 2^n − 1 (R128). -/
def opDivz (n a b : Nat) : Nat := if b = 0 then 2 ^ n - 1 else a / b
/-- A zero divisor gives the dividend (R128). -/
def opRem (n a b : Nat) : Nat :=
  if b = 0 then a else wrapInt n (signedOf n a - signedOf n b * tdivInt (signedOf n a) (signedOf n b))
def opRemz (a b : Nat) : Nat := if b = 0 then a else a % b
def opAndn (n a b : Nat) : Nat := a &&& (2 ^ n - 1 - b)
def opShl (n a k : Nat) : Nat := if n ≤ k then 0 else a * 2 ^ k % 2 ^ n
def opShr (n a k : Nat) : Nat := if n ≤ k then 0 else a / 2 ^ k
def opSra (n a k : Nat) : Nat := wrapInt n (signedOf n a / ((2 ^ min k (n - 1) : Nat) : Int))
def opRotl (n a k : Nat) : Nat := (a * 2 ^ (k % n) + a / 2 ^ (n - k % n)) % 2 ^ n
/-- Zero bits above the highest one bit. -/
def opClz (n a : Nat) : Nat := if a = 0 then n else n - 1 - Nat.log2 a
/-- Zero bits below the lowest one bit, looking at bits lo on. -/
def ctzFrom (a : Nat) : Nat → Nat → Nat
  | 0, lo => lo
  | fuel + 1, lo => if bitsOf a lo 1 = 1 then lo else ctzFrom a fuel (lo + 1)
def opCtz (n a : Nat) : Nat := ctzFrom a n 0
/-- One bits among the low n. -/
def opPopc (n a : Nat) : Nat := ((List.range n).filter fun i => bitsOf a i 1 = 1).length
def opMin (n a b : Nat) : Nat := if signedOf n b < signedOf n a then b else a
def opMax (n a b : Nat) : Nat := if signedOf n a < signedOf n b then b else a

/-! ## Fields (R130) -/

/-- Position and length of a field descriptor; the length ends at bit 64. -/
def fieldOf (d : Nat) : Nat × Nat :=
  let pos := bitsOf d 0 6
  (pos, min (min (bitsOf d 6 7) 64) (64 - pos))
def fieldExtract (a d : Nat) : Nat := bitsOf a (fieldOf d).1 (fieldOf d).2
def fieldInsert (old a d : Nat) : Nat :=
  let (pos, w) := fieldOf d
  old - bitsOf old pos w * 2 ^ pos + a % 2 ^ w * 2 ^ pos

/-! ## Instructions in the AR layout -/

/-- The n-bit pattern of a general register under a type. -/
def State.pat (s : State) (ty : Ty) (r : Fin 16) : Nat := (s.g r).toNat % 2 ^ ty.bits
/-- A narrow result written, extended by its suffix (R126). -/
def State.putInt (s : State) (d : Fin 16) (ty : Ty) (v : Nat) : AResult := ⟨.g d (extendTy ty v), 0⟩
/-- Two operands at the width of the type. -/
def State.intBin (s : State) (op : Nat → Nat → Nat → Nat) (d a b : Fin 16) (ty : Ty) : AResult :=
  s.putInt d ty (op ty.bits (s.pat ty a) (s.pat ty b))
/-- A pattern and a count, the whole of a register (R127). -/
def State.intShift (s : State) (op : Nat → Nat → Nat → Nat) (d a b : Fin 16) (ty : Ty) : AResult :=
  s.putInt d ty (op ty.bits (s.pat ty a) (s.g b).toNat)

def resAdd (d a b : Fin 16) (ty : Ty) (s : State) : AResult := s.intBin opAdd d a b ty
def resSub (d a b : Fin 16) (ty : Ty) (s : State) : AResult := s.intBin opSub d a b ty
def resMul (d a b : Fin 16) (ty : Ty) (s : State) : AResult := s.intBin opMul d a b ty
def resMulh (d a b : Fin 16) (ty : Ty) (s : State) : AResult := s.intBin opMulh d a b ty
def resMulhz (d a b : Fin 16) (ty : Ty) (s : State) : AResult := s.intBin opMulhz d a b ty
def resDiv (d a b : Fin 16) (ty : Ty) (s : State) : AResult := s.intBin opDiv d a b ty
def resDivz (d a b : Fin 16) (ty : Ty) (s : State) : AResult := s.intBin opDivz d a b ty
def resRem (d a b : Fin 16) (ty : Ty) (s : State) : AResult := s.intBin opRem d a b ty
def resRemz (d a b : Fin 16) (ty : Ty) (s : State) : AResult := s.intBin (fun _ => opRemz) d a b ty
def resAnd (d a b : Fin 16) (ty : Ty) (s : State) : AResult := s.intBin (fun _ x y => x &&& y) d a b ty
def resOr (d a b : Fin 16) (ty : Ty) (s : State) : AResult := s.intBin (fun _ x y => x ||| y) d a b ty
def resXor (d a b : Fin 16) (ty : Ty) (s : State) : AResult := s.intBin (fun _ x y => x ^^^ y) d a b ty
def resAndn (d a b : Fin 16) (ty : Ty) (s : State) : AResult := s.intBin opAndn d a b ty
def resShl (d a b : Fin 16) (ty : Ty) (s : State) : AResult := s.intShift opShl d a b ty
def resShr (d a b : Fin 16) (ty : Ty) (s : State) : AResult := s.intShift opShr d a b ty
def resSra (d a b : Fin 16) (ty : Ty) (s : State) : AResult := s.intShift opSra d a b ty
def resRotl (d a b : Fin 16) (ty : Ty) (s : State) : AResult := s.intShift opRotl d a b ty
def resClz (d a : Fin 16) (ty : Ty) (s : State) : AResult := s.putInt d ty (opClz ty.bits (s.pat ty a))
def resCtz (d a : Fin 16) (ty : Ty) (s : State) : AResult := s.putInt d ty (opCtz ty.bits (s.pat ty a))
def resPopc (d a : Fin 16) (ty : Ty) (s : State) : AResult := s.putInt d ty (opPopc ty.bits (s.pat ty a))
def resMin (d a b : Fin 16) (ty : Ty) (s : State) : AResult := s.intBin opMin d a b ty
def resMax (d a b : Fin 16) (ty : Ty) (s : State) : AResult := s.intBin opMax d a b ty
def resMinz (d a b : Fin 16) (ty : Ty) (s : State) : AResult := s.intBin (fun _ x y => min x y) d a b ty
def resMaxz (d a b : Fin 16) (ty : Ty) (s : State) : AResult := s.intBin (fun _ x y => max x y) d a b ty

def resBfx (d a b : Fin 16) (s : State) : AResult := s.putInt d .d (fieldExtract (s.g a).toNat (s.g b).toNat)
def resBfi (d a b : Fin 16) (s : State) : AResult :=
  s.putInt d .d (fieldInsert (s.g d).toNat (s.g a).toNat (s.g b).toNat)
/-- `lea` (R131). -/
def resLea (d a b : Fin 16) (k : Fin 4) (s : State) : AResult := s.putInt d .d ((s.g a).toNat + (s.g b).toNat * 2 ^ k.val)

/-! ## Immediate forms (R132) -/

/-- IMM17 sign-extended. -/
def imm17 (imm : BitVec 17) : Nat := (sext64 imm).toNat
/-- A register and a sign-extended immediate at 64 bits. -/
def State.immBin (s : State) (op : Nat → Nat → Nat → Nat) (d a : Fin 16) (v : Nat) : AResult :=
  s.putInt d .d (op 64 (s.g a).toNat v)

def resAddiA (d a : Fin 16) (imm : BitVec 17) (s : State) : AResult := s.immBin opAdd d a (imm17 imm)
def resMoviA (d : Fin 16) (imm : BitVec 17) (s : State) : AResult := s.putInt d .d (imm17 imm)
def resMulImm (d a : Fin 16) (imm : BitVec 17) (s : State) : AResult := s.immBin opMul d a (imm17 imm)
def resAndImm (d a : Fin 16) (imm : BitVec 17) (s : State) : AResult := s.immBin (fun _ x y => x &&& y) d a (imm17 imm)
def resOrImm (d a : Fin 16) (imm : BitVec 17) (s : State) : AResult := s.immBin (fun _ x y => x ||| y) d a (imm17 imm)
def resXorImm (d a : Fin 16) (imm : BitVec 17) (s : State) : AResult := s.immBin (fun _ x y => x ^^^ y) d a (imm17 imm)
def resShlImm (d a : Fin 16) (k : BitVec 6) (s : State) : AResult := s.immBin opShl d a k.toNat
def resShrImm (d a : Fin 16) (k : BitVec 6) (s : State) : AResult := s.immBin opShr d a k.toNat
def resSraImm (d a : Fin 16) (k : BitVec 6) (s : State) : AResult := s.immBin opSra d a k.toNat
def resRotlImm (d a : Fin 16) (k : BitVec 6) (s : State) : AResult := s.immBin opRotl d a k.toNat
def resMinImm (d a : Fin 16) (imm : BitVec 17) (s : State) : AResult := s.immBin opMin d a (imm17 imm)
def resMaxImm (d a : Fin 16) (imm : BitVec 17) (s : State) : AResult := s.immBin opMax d a (imm17 imm)
def resMinzImm (d a : Fin 16) (imm : BitVec 17) (s : State) : AResult := s.immBin (fun _ x y => min x y) d a imm.toNat
def resMaxzImm (d a : Fin 16) (imm : BitVec 17) (s : State) : AResult := s.immBin (fun _ x y => max x y) d a imm.toNat
def resBfxImm (d a : Fin 16) (desc : BitVec 13) (s : State) : AResult :=
  s.putInt d .d (fieldExtract (s.g a).toNat desc.toNat)
def resBfiImm (d a : Fin 16) (desc : BitVec 13) (s : State) : AResult :=
  s.putInt d .d (fieldInsert (s.g d).toNat (s.g a).toNat desc.toNat)

/-! ## The meanings: a unit with a `nop` beside it completes with the result (R55) -/

def execAdd (d a b : Fin 16) (ty : Ty) (s : State) : Step := .next (s.finishA (resAdd d a b ty s))
def execSub (d a b : Fin 16) (ty : Ty) (s : State) : Step := .next (s.finishA (resSub d a b ty s))
def execMul (d a b : Fin 16) (ty : Ty) (s : State) : Step := .next (s.finishA (resMul d a b ty s))
def execMulh (d a b : Fin 16) (ty : Ty) (s : State) : Step := .next (s.finishA (resMulh d a b ty s))
def execMulhz (d a b : Fin 16) (ty : Ty) (s : State) : Step := .next (s.finishA (resMulhz d a b ty s))
def execDiv (d a b : Fin 16) (ty : Ty) (s : State) : Step := .next (s.finishA (resDiv d a b ty s))
def execDivz (d a b : Fin 16) (ty : Ty) (s : State) : Step := .next (s.finishA (resDivz d a b ty s))
def execRem (d a b : Fin 16) (ty : Ty) (s : State) : Step := .next (s.finishA (resRem d a b ty s))
def execRemz (d a b : Fin 16) (ty : Ty) (s : State) : Step := .next (s.finishA (resRemz d a b ty s))
def execAnd (d a b : Fin 16) (ty : Ty) (s : State) : Step := .next (s.finishA (resAnd d a b ty s))
def execOr (d a b : Fin 16) (ty : Ty) (s : State) : Step := .next (s.finishA (resOr d a b ty s))
def execXor (d a b : Fin 16) (ty : Ty) (s : State) : Step := .next (s.finishA (resXor d a b ty s))
def execAndn (d a b : Fin 16) (ty : Ty) (s : State) : Step := .next (s.finishA (resAndn d a b ty s))
def execShl (d a b : Fin 16) (ty : Ty) (s : State) : Step := .next (s.finishA (resShl d a b ty s))
def execShr (d a b : Fin 16) (ty : Ty) (s : State) : Step := .next (s.finishA (resShr d a b ty s))
def execSra (d a b : Fin 16) (ty : Ty) (s : State) : Step := .next (s.finishA (resSra d a b ty s))
def execRotl (d a b : Fin 16) (ty : Ty) (s : State) : Step := .next (s.finishA (resRotl d a b ty s))
def execClz (d a : Fin 16) (ty : Ty) (s : State) : Step := .next (s.finishA (resClz d a ty s))
def execCtz (d a : Fin 16) (ty : Ty) (s : State) : Step := .next (s.finishA (resCtz d a ty s))
def execPopc (d a : Fin 16) (ty : Ty) (s : State) : Step := .next (s.finishA (resPopc d a ty s))
def execMin (d a b : Fin 16) (ty : Ty) (s : State) : Step := .next (s.finishA (resMin d a b ty s))
def execMax (d a b : Fin 16) (ty : Ty) (s : State) : Step := .next (s.finishA (resMax d a b ty s))
def execMinz (d a b : Fin 16) (ty : Ty) (s : State) : Step := .next (s.finishA (resMinz d a b ty s))
def execMaxz (d a b : Fin 16) (ty : Ty) (s : State) : Step := .next (s.finishA (resMaxz d a b ty s))
def execBfx (d a b : Fin 16) (s : State) : Step := .next (s.finishA (resBfx d a b s))
def execBfi (d a b : Fin 16) (s : State) : Step := .next (s.finishA (resBfi d a b s))
def execLea (d a b : Fin 16) (k : Fin 4) (s : State) : Step := .next (s.finishA (resLea d a b k s))
def execAddiA (d a : Fin 16) (imm : BitVec 17) (s : State) : Step := .next (s.finishA (resAddiA d a imm s))
def execMoviA (d : Fin 16) (imm : BitVec 17) (s : State) : Step := .next (s.finishA (resMoviA d imm s))
def execMulImm (d a : Fin 16) (imm : BitVec 17) (s : State) : Step := .next (s.finishA (resMulImm d a imm s))
def execAndImm (d a : Fin 16) (imm : BitVec 17) (s : State) : Step := .next (s.finishA (resAndImm d a imm s))
def execOrImm (d a : Fin 16) (imm : BitVec 17) (s : State) : Step := .next (s.finishA (resOrImm d a imm s))
def execXorImm (d a : Fin 16) (imm : BitVec 17) (s : State) : Step := .next (s.finishA (resXorImm d a imm s))
def execShlImm (d a : Fin 16) (k : BitVec 6) (s : State) : Step := .next (s.finishA (resShlImm d a k s))
def execShrImm (d a : Fin 16) (k : BitVec 6) (s : State) : Step := .next (s.finishA (resShrImm d a k s))
def execSraImm (d a : Fin 16) (k : BitVec 6) (s : State) : Step := .next (s.finishA (resSraImm d a k s))
def execRotlImm (d a : Fin 16) (k : BitVec 6) (s : State) : Step := .next (s.finishA (resRotlImm d a k s))
def execMinImm (d a : Fin 16) (imm : BitVec 17) (s : State) : Step := .next (s.finishA (resMinImm d a imm s))
def execMaxImm (d a : Fin 16) (imm : BitVec 17) (s : State) : Step := .next (s.finishA (resMaxImm d a imm s))
def execMinzImm (d a : Fin 16) (imm : BitVec 17) (s : State) : Step := .next (s.finishA (resMinzImm d a imm s))
def execMaxzImm (d a : Fin 16) (imm : BitVec 17) (s : State) : Step := .next (s.finishA (resMaxzImm d a imm s))
def execBfxImm (d a : Fin 16) (desc : BitVec 13) (s : State) : Step := .next (s.finishA (resBfxImm d a desc s))
def execBfiImm (d a : Fin 16) (desc : BitVec 13) (s : State) : Step := .next (s.finishA (resBfiImm d a desc s))

end Sys2Proof.Machine
end

