-- ==== Sys2Proof/Machine/ScalarFp.lean ====
section
/-! DEFINITION. Scalar floating-point instructions (R133 to R143): operands and results in general registers, the operations of
Float.lean. -/

namespace Sys2Proof.Machine

/-- A floating-point result and its flags held with the unit (R133, R121). -/
def State.putFp (s : State) (d : Fin 16) (r : FRes) : AResult := ⟨.g d (w64 r.1), r.2⟩

def resFadd (d a b : Fin 16) (ty : Ty) (s : State) : AResult :=
  s.putFp d ((ffmtOf ty).fadd s.th.rmode (s.g a).toNat (s.g b).toNat)
def resFsub (d a b : Fin 16) (ty : Ty) (s : State) : AResult :=
  s.putFp d ((ffmtOf ty).fsub s.th.rmode (s.g a).toNat (s.g b).toNat)
def resFmul (d a b : Fin 16) (ty : Ty) (s : State) : AResult :=
  s.putFp d ((ffmtOf ty).fmul s.th.rmode (s.g a).toNat (s.g b).toNat)
def resFfma (d a b c : Fin 16) (ty : Ty) (s : State) : AResult :=
  s.putFp d ((ffmtOf ty).ffma s.th.rmode (s.g a).toNat (s.g b).toNat (s.g c).toNat)
def resFmin (d a b : Fin 16) (ty : Ty) (s : State) : AResult :=
  s.putFp d ((ffmtOf ty).minmax false false (s.g a).toNat (s.g b).toNat)
def resFmax (d a b : Fin 16) (ty : Ty) (s : State) : AResult :=
  s.putFp d ((ffmtOf ty).minmax true false (s.g a).toNat (s.g b).toNat)
/-- The sign-injection forms (R136): no flag. -/
def State.fsgnBy (s : State) (d a b : Fin 16) (ty : Ty) (sign : Bool → Bool → Bool) : AResult :=
  let f := ffmtOf ty
  s.putFp d (f.withSign (s.g a).toNat (sign (f.signOf (s.g a).toNat) (f.signOf (s.g b).toNat)), 0)
def resFsgn (d a b : Fin 16) (ty : Ty) (s : State) : AResult := s.fsgnBy d a b ty fun _ y => y
def resFsgnN (d a b : Fin 16) (ty : Ty) (s : State) : AResult := s.fsgnBy d a b ty fun _ y => !y
def resFsgnX (d a b : Fin 16) (ty : Ty) (s : State) : AResult := s.fsgnBy d a b ty fun x y => x != y
/-- `fcmp` writes a predicate and no general register (R137). -/
def resFcmp (d : Fin 4) (a b : Fin 16) (ty : Ty) (cc : FCc) (s : State) : AResult :=
  let r := (ffmtOf ty).fcmp cc (s.g a).toNat (s.g b).toNat
  ⟨.p d r.1, r.2⟩
/-- `fcvt` (R141): an integer result is extended by its suffix (R120). -/
def resFcvt (d a : Fin 16) (ty : Ty) (sat : Bool) (src : Ty) (s : State) : AResult :=
  let r := convert ty src s.th.rmode sat (s.g a).toNat
  ⟨.g d (if ty.isFloat then w64 r.1 else extendTy ty r.1), r.2⟩
def resFrint (d a : Fin 16) (ty : Ty) (md : RMode) (s : State) : AResult :=
  s.putFp d ((ffmtOf ty).frint (roundMode md s.th.rmode) (s.g a).toNat)
def resFexp2f (d a : Fin 16) (s : State) : AResult := s.putFp d (fexp2f (s.g a).toNat)
def resFscaleb (d a b : Fin 16) (ty : Ty) (s : State) : AResult :=
  s.putFp d ((ffmtOf ty).fscaleb s.th.rmode (s.g a).toNat (s.g b).toInt)
def resFclass (d a : Fin 16) (ty : Ty) (s : State) : AResult := s.putFp d ((ffmtOf ty).fclass (s.g a).toNat, 0)
def resFrcp (d a : Fin 16) (ty : Ty) (s : State) : AResult := s.putFp d ((ffmtOf ty).frcp s.th.rmode (s.g a).toNat)
def resFrsq (d a : Fin 16) (ty : Ty) (s : State) : AResult := s.putFp d ((ffmtOf ty).frsq (s.g a).toNat)
def resFsqrt (d a : Fin 16) (ty : Ty) (s : State) : AResult := s.putFp d ((ffmtOf ty).fsqrt s.th.rmode (s.g a).toNat)

/-! ## The meanings: a unit with a `nop` beside it completes with the result (R55) -/

def execFadd (d a b : Fin 16) (ty : Ty) (s : State) : Step := .next (s.finishA (resFadd d a b ty s))
def execFsub (d a b : Fin 16) (ty : Ty) (s : State) : Step := .next (s.finishA (resFsub d a b ty s))
def execFmul (d a b : Fin 16) (ty : Ty) (s : State) : Step := .next (s.finishA (resFmul d a b ty s))
def execFfma (d a b c : Fin 16) (ty : Ty) (s : State) : Step := .next (s.finishA (resFfma d a b c ty s))
def execFmin (d a b : Fin 16) (ty : Ty) (s : State) : Step := .next (s.finishA (resFmin d a b ty s))
def execFmax (d a b : Fin 16) (ty : Ty) (s : State) : Step := .next (s.finishA (resFmax d a b ty s))
def execFsgn (d a b : Fin 16) (ty : Ty) (s : State) : Step := .next (s.finishA (resFsgn d a b ty s))
def execFsgnN (d a b : Fin 16) (ty : Ty) (s : State) : Step := .next (s.finishA (resFsgnN d a b ty s))
def execFsgnX (d a b : Fin 16) (ty : Ty) (s : State) : Step := .next (s.finishA (resFsgnX d a b ty s))
def execFcmp (d : Fin 4) (a b : Fin 16) (ty : Ty) (cc : FCc) (s : State) : Step := .next (s.finishA (resFcmp d a b ty cc s))
def execFcvt (d a : Fin 16) (ty : Ty) (sat : Bool) (src : Ty) (s : State) : Step := .next (s.finishA (resFcvt d a ty sat src s))
def execFrint (d a : Fin 16) (ty : Ty) (md : RMode) (s : State) : Step := .next (s.finishA (resFrint d a ty md s))
def execFexp2f (d a : Fin 16) (s : State) : Step := .next (s.finishA (resFexp2f d a s))
def execFscaleb (d a b : Fin 16) (ty : Ty) (s : State) : Step := .next (s.finishA (resFscaleb d a b ty s))
def execFclass (d a : Fin 16) (ty : Ty) (s : State) : Step := .next (s.finishA (resFclass d a ty s))
def execFrcp (d a : Fin 16) (ty : Ty) (s : State) : Step := .next (s.finishA (resFrcp d a ty s))
def execFrsq (d a : Fin 16) (ty : Ty) (s : State) : Step := .next (s.finishA (resFrsq d a ty s))
def execFsqrt (d a : Fin 16) (ty : Ty) (s : State) : Step := .next (s.finishA (resFsqrt d a ty s))

end Sys2Proof.Machine
end

