-- ==== Sys2Proof/Machine/Vector.lean ====
section
/-! DEFINITION. Vector instructions (R144 to R153): lanes and masks (R64), the elementwise operations by the scalar rules, and the
instructions that move or combine lanes. -/

namespace Sys2Proof.Machine

/-! ## Lanes and masks (R64) -/

/-- Lane i of a vector at n bits. -/
def laneOf (n : Nat) (v : VWord) (i : Nat) : Nat := bitsOf v.toNat (n * i) n
/-- The vector whose lanes, lane 0 first, are n-bit patterns. -/
def ofLanes (n : Nat) (l : List Nat) : VWord := BitVec.ofNat 512 (l.foldr (fun x acc => acc * 2 ^ n + x % 2 ^ n) 0)
/-- Whether lane i is active. -/
def State.active (s : State) (k : VMask) (i : Nat) : Bool := k.um || (s.sl.m.get k.mi).getLsbD i
/-- Lanes of VD with the active ones replaced, and the flags of the active lanes ORed (R121, R144). -/
def State.lanes (s : State) (d : Fin 16) (k : VMask) (ty : Ty) (f : Nat → FRes) : AResult :=
  let n := ty.bits
  let old := s.sl.v.get d
  let rs := (List.range ty.lanes).map fun i => if s.active k i then f i else (laneOf n old i, 0)
  ⟨.v d (ofLanes n (rs.map (·.1))), rs.foldl (fun acc r => acc ||| r.2) 0⟩
/-- Lane i of a vector register. -/
def State.vl (s : State) (ty : Ty) (r : Fin 16) (i : Nat) : Nat := laneOf ty.bits (s.sl.v.get r) i
/-- The operand of a vector-scalar form: the low n bits of a general register in every lane (R144). -/
def State.gl (s : State) (ty : Ty) (r : Fin 16) (_ : Nat) : Nat := s.pat ty r

/-! ## Lane operations (R145) -/

/-- An integer saturated to the range of a type, as its pattern. -/
def satTy (ty : Ty) (v : Int) : Nat := wrapInt ty.bits (satInt v (tyMin ty) (tyMax ty))
/-- The value of a lane by the signedness of its type. -/
def laneInt (ty : Ty) (x : Nat) : Int := readInt ty (w64 x)
def laneAdd (ty : Ty) (mode : BitVec 2) (sat : Bool) (a b : Nat) : FRes :=
  if ty.isFs then (ffmtOf ty).fadd mode a b
  else if sat then (satTy ty (laneInt ty a + laneInt ty b), 0) else (opAdd ty.bits a b, 0)
def laneSub (ty : Ty) (mode : BitVec 2) (sat : Bool) (a b : Nat) : FRes :=
  if ty.isFs then (ffmtOf ty).fsub mode a b
  else if sat then (satTy ty (laneInt ty a - laneInt ty b), 0) else (opSub ty.bits a b, 0)
def laneMul (ty : Ty) (mode : BitVec 2) (a b : Nat) : FRes :=
  if ty.isFs then (ffmtOf ty).fmul mode a b else (opMul ty.bits a b, 0)
def laneFma (ty : Ty) (mode : BitVec 2) (a b c : Nat) : FRes :=
  if ty.isFs then (ffmtOf ty).ffma mode a b c else ((a * b + c) % 2 ^ ty.bits, 0)
/-- `vmin` and `vmax`: `num` is their FN. -/
def laneMinmax (ty : Ty) (isMax num : Bool) (a b : Nat) : FRes :=
  if ty.isFs then (ffmtOf ty).minmax isMax num a b
  else if ty.isZ then (if isMax then max a b else min a b, 0)
  else (if isMax then opMax ty.bits a b else opMin ty.bits a b, 0)

/-! ## Elementwise instructions (R145, R148) -/

def resVadd (d a b : Fin 16) (k : VMask) (ty : Ty) (fn : Bool) (s : State) : AResult :=
  s.lanes d k ty fun i => laneAdd ty s.th.rmode fn (s.vl ty a i) (s.vl ty b i)
def resVsub (d a b : Fin 16) (k : VMask) (ty : Ty) (fn : Bool) (s : State) : AResult :=
  s.lanes d k ty fun i => laneSub ty s.th.rmode fn (s.vl ty a i) (s.vl ty b i)
def resVmul (d a b : Fin 16) (k : VMask) (ty : Ty) (s : State) : AResult :=
  s.lanes d k ty fun i => laneMul ty s.th.rmode (s.vl ty a i) (s.vl ty b i)
def resVfma (d a b c : Fin 16) (k : VMask) (ty : Ty) (s : State) : AResult :=
  s.lanes d k ty fun i => laneFma ty s.th.rmode (s.vl ty a i) (s.vl ty b i) (s.vl ty c i)
def resVmin (d a b : Fin 16) (k : VMask) (ty : Ty) (fn : Bool) (s : State) : AResult :=
  s.lanes d k ty fun i => laneMinmax ty false fn (s.vl ty a i) (s.vl ty b i)
def resVmax (d a b : Fin 16) (k : VMask) (ty : Ty) (fn : Bool) (s : State) : AResult :=
  s.lanes d k ty fun i => laneMinmax ty true fn (s.vl ty a i) (s.vl ty b i)
def resVand (d a b : Fin 16) (k : VMask) (ty : Ty) (s : State) : AResult :=
  s.lanes d k ty fun i => (s.vl ty a i &&& s.vl ty b i, 0)
def resVor (d a b : Fin 16) (k : VMask) (ty : Ty) (s : State) : AResult :=
  s.lanes d k ty fun i => (s.vl ty a i ||| s.vl ty b i, 0)
def resVxor (d a b : Fin 16) (k : VMask) (ty : Ty) (s : State) : AResult :=
  s.lanes d k ty fun i => (s.vl ty a i ^^^ s.vl ty b i, 0)
def resVshl (d a b : Fin 16) (k : VMask) (ty : Ty) (s : State) : AResult :=
  s.lanes d k ty fun i => (opShl ty.bits (s.vl ty a i) (s.vl ty b i), 0)
def resVshr (d a b : Fin 16) (k : VMask) (ty : Ty) (s : State) : AResult :=
  s.lanes d k ty fun i => (opShr ty.bits (s.vl ty a i) (s.vl ty b i), 0)
def resVsra (d a b : Fin 16) (k : VMask) (ty : Ty) (s : State) : AResult :=
  s.lanes d k ty fun i => (opSra ty.bits (s.vl ty a i) (s.vl ty b i), 0)
def resVaddS (d a b : Fin 16) (k : VMask) (ty : Ty) (fn : Bool) (s : State) : AResult :=
  s.lanes d k ty fun i => laneAdd ty s.th.rmode fn (s.vl ty a i) (s.gl ty b i)
def resVsubS (d a b : Fin 16) (k : VMask) (ty : Ty) (fn : Bool) (s : State) : AResult :=
  s.lanes d k ty fun i => laneSub ty s.th.rmode fn (s.vl ty a i) (s.gl ty b i)
def resVmulS (d a b : Fin 16) (k : VMask) (ty : Ty) (s : State) : AResult :=
  s.lanes d k ty fun i => laneMul ty s.th.rmode (s.vl ty a i) (s.gl ty b i)
/-- The general register is the multiplier, VC the addend (R145). -/
def resVfmaS (d a b c : Fin 16) (k : VMask) (ty : Ty) (s : State) : AResult :=
  s.lanes d k ty fun i => laneFma ty s.th.rmode (s.vl ty a i) (s.gl ty b i) (s.vl ty c i)
def resVminS (d a b : Fin 16) (k : VMask) (ty : Ty) (fn : Bool) (s : State) : AResult :=
  s.lanes d k ty fun i => laneMinmax ty false fn (s.vl ty a i) (s.gl ty b i)
def resVmaxS (d a b : Fin 16) (k : VMask) (ty : Ty) (fn : Bool) (s : State) : AResult :=
  s.lanes d k ty fun i => laneMinmax ty true fn (s.vl ty a i) (s.gl ty b i)
def resVshlS (d a b : Fin 16) (k : VMask) (ty : Ty) (s : State) : AResult :=
  s.lanes d k ty fun i => (opShl ty.bits (s.vl ty a i) (s.gl ty b i), 0)
def resVshrS (d a b : Fin 16) (k : VMask) (ty : Ty) (s : State) : AResult :=
  s.lanes d k ty fun i => (opShr ty.bits (s.vl ty a i) (s.gl ty b i), 0)
def resVsraS (d a b : Fin 16) (k : VMask) (ty : Ty) (s : State) : AResult :=
  s.lanes d k ty fun i => (opSra ty.bits (s.vl ty a i) (s.gl ty b i), 0)
def resVrint (d a : Fin 16) (md : RMode) (k : VMask) (ty : Ty) (s : State) : AResult :=
  s.lanes d k ty fun i => (ffmtOf ty).frint (roundMode md s.th.rmode) (s.vl ty a i)
/-- `vexp2f` has 32-bit lanes (R148). -/
def resVexp2f (d a : Fin 16) (k : VMask) (s : State) : AResult :=
  s.lanes d k .f32 fun i => fexp2f (s.vl .f32 a i)
/-- The count is a lane of VB, signed at the lane width (R148). -/
def resVscaleb (d a b : Fin 16) (k : VMask) (ty : Ty) (s : State) : AResult :=
  s.lanes d k ty fun i => (ffmtOf ty).fscaleb s.th.rmode (s.vl ty a i) (signedOf ty.bits (s.vl ty b i))
def resVpopc (d a : Fin 16) (k : VMask) (ty : Ty) (s : State) : AResult :=
  s.lanes d k ty fun i => (opPopc ty.bits (s.vl ty a i), 0)

/-! ## Compare and select (R146) -/

/-- One lane's comparison with its flags. -/
def laneCmp (ty : Ty) (cc : FCc) (a b : Nat) : Bool × BitVec 5 :=
  if ty.isFs then (ffmtOf ty).fcmp cc a b else (FCc.holdsInt cc (laneInt ty a) (laneInt ty b), 0)
/-- `vcmp` writes a mask: inactive bits keep their value, bits at or above the lane count are 0. -/
def resVcmp (d : Fin 8) (a b : Fin 16) (cc : FCc) (k : VMask) (ty : Ty) (s : State) : AResult :=
  let old := s.sl.m.get d
  let rs := (List.range ty.lanes).map fun i =>
    if s.active k i then laneCmp ty cc (s.vl ty a i) (s.vl ty b i) else (old.getLsbD i, 0)
  ⟨.m d (w64 (rs.foldr (fun r acc => 2 * acc + r.1.toNat) 0)), rs.foldl (fun acc r => acc ||| r.2) 0⟩
def resVsel (d a b : Fin 16) (c : Fin 8) (k : VMask) (ty : Ty) (s : State) : AResult :=
  s.lanes d k ty fun i => (if (s.sl.m.get c).getLsbD i then s.vl ty a i else s.vl ty b i, 0)

/-! ## Conversions (R147) -/

/-- One lane converted by R141, with integer to integer of `vnarrow` and `vwiden` added. -/
def laneCvt (dst src : Ty) (mode : BitVec 2) (sat : Bool) (x : Nat) : FRes :=
  if dst.isInt && src.isInt then
    (if sat then satTy dst (laneInt src x) else wrapInt dst.bits (laneInt src x), 0)
  else convert dst src mode sat x
def resVcvt (d a : Fin 16) (src : Ty) (k : VMask) (ty : Ty) (fn : Bool) (s : State) : AResult :=
  s.lanes d k ty fun i => laneCvt ty src s.th.rmode fn (s.vl src a i)
def resVnarrow (d a b : Fin 16) (src : Ty) (k : VMask) (ty : Ty) (fn : Bool) (s : State) : AResult :=
  let half := ty.lanes / 2
  s.lanes d k ty fun i =>
    laneCvt ty src s.th.rmode fn (if i < half then s.vl src a i else s.vl src b (i - half))
def resVwiden (d a : Fin 16) (h : Bool) (src : Ty) (k : VMask) (ty : Ty) (s : State) : AResult :=
  s.lanes d k ty fun i => laneCvt ty src s.th.rmode false (s.vl src a ((if h then ty.lanes else 0) + i))

/-! ## Permutes and single lanes (R149, R150) -/

/-- `vperm` picks bytes of VA and VB together. -/
def resVperm (d a b c : Fin 16) (k : VMask) (ty : Ty) (fn : Bool) (s : State) : AResult :=
  s.lanes d k ty fun i =>
    let x := s.vl ty c i
    (if fn && 128 ≤ x then 0 else if x % 128 < 64 then s.vl ty a (x % 64) else s.vl ty b (x % 64), 0)
/-- The place in the lanes of VA followed by VB that each pattern takes for lane i (R149). -/
def patternAt (pat : Pattern) (l i : Nat) : Nat :=
  match pat with
  | .ilo => if i % 2 = 0 then i / 2 else l + i / 2
  | .ihi => if i % 2 = 0 then l / 2 + i / 2 else l + l / 2 + i / 2
  | .even => 2 * i
  | .odd => 2 * i + 1
  | .rev => l - 1 - i
  | .swap => i ^^^ 1
  | .rot => i + 1
  | .cat => if i < l / 2 then i else l + i - l / 2
def resVpermi (d a b : Fin 16) (pat : Pattern) (k : VMask) (ty : Ty) (s : State) : AResult :=
  s.lanes d k ty fun i =>
    let j := patternAt pat ty.lanes i
    (if j < ty.lanes then s.vl ty a j else s.vl ty b (j - ty.lanes), 0)
def resVbcast (d b : Fin 16) (k : VMask) (ty : Ty) (s : State) : AResult := s.lanes d k ty fun i => (s.gl ty b i, 0)
/-- `vext`: the lane is sign-extended for `.b`, `.h` and `.w` only. -/
def resVext (d a b : Fin 16) (ty : Ty) (s : State) : AResult :=
  let x := s.vl ty a ((s.g b).toNat % ty.lanes)
  ⟨.g d (if ty.isSigned then extendTy ty x else w64 x), 0⟩
def resVins (d a b : Fin 16) (ty : Ty) (s : State) : AResult :=
  let j := (s.g b).toNat % ty.lanes
  ⟨.v d (ofLanes ty.bits ((List.range ty.lanes).map fun i =>
    if i = j then s.pat ty a else s.vl ty d i)), 0⟩

/-! ## Reductions and scans (R151) -/

/-- The value of an empty combination, as its pattern. -/
def redIdentity (op : RedOp) (ty : Ty) : Nat :=
  match op with
  | .add | .or | .xor => 0
  | .and => 2 ^ ty.bits - 1
  | .min => if ty.isFs then (ffmtOf ty).inf false else wrapInt ty.bits (tyMax ty)
  | .max => if ty.isFs then (ffmtOf ty).inf true else wrapInt ty.bits (tyMin ty)
/-- One combination: one rounding, or one wrap. -/
def combine (op : RedOp) (ty : Ty) (mode : BitVec 2) (a b : Nat) : FRes :=
  match op with
  | .add => laneAdd ty mode false a b
  | .min => laneMinmax ty false false a b
  | .max => laneMinmax ty true false a b
  | .and => (a &&& b, 0)
  | .or => (a ||| b, 0)
  | .xor => (a ^^^ b, 0)
/-- Accumulators before and after each lane in ascending order, and the flags: (before, after) for every lane. The first active lane meets no
Combine: a NaN there keeps its bits and, where no lane follows, a signalling one raises no flag (R114 and R151 can be read otherwise: log 104). -/
def scanFrom (op : RedOp) (ty : Ty) (mode : BitVec 2) :
    List (Option Nat) → Option Nat → BitVec 5 → List (Option Nat × Option Nat) × Option Nat × BitVec 5
  | [], acc, fl => ([], acc, fl)
  | none :: r, acc, fl =>
    let (l, e) := scanFrom op ty mode r acc fl
    ((acc, acc) :: l, e)
  | some x :: r, acc, fl =>
    let (v, f) := match acc with | none => (x, (0 : BitVec 5)) | some a => combine op ty mode a x
    let (l, e) := scanFrom op ty mode r (some v) (fl ||| f)
    ((acc, some v) :: l, e)
def State.scan (s : State) (a : Fin 16) (op : RedOp) (k : VMask) (ty : Ty) :
    List (Option Nat × Option Nat) × Option Nat × BitVec 5 :=
  scanFrom op ty s.th.rmode ((List.range ty.lanes).map fun i => if s.active k i then some (s.vl ty a i) else none) none 0
/-- `vred` writes all of VD. -/
def resVred (d a : Fin 16) (op : RedOp) (k : VMask) (ty : Ty) (s : State) : AResult :=
  let (_, acc, fl) := s.scan a op k ty
  ⟨.v d (BitVec.ofNat 512 (acc.getD (redIdentity op ty))), fl⟩
def resVscan (d a : Fin 16) (op : RedOp) (k : VMask) (ty : Ty) (fn : Bool) (s : State) : AResult :=
  let (l, _, fl) := s.scan a op k ty
  let out := l.mapIdx fun i e =>
    if s.active k i then (if fn then e.1 else e.2).getD (redIdentity op ty) else s.vl ty d i
  ⟨.v d (ofLanes ty.bits out), fl⟩

/-! ## Digit counts and dot products (R152, R153) -/

def resVbin (d a b : Fin 16) (k : VMask) (ty : Ty) (s : State) : AResult :=
  let pos := bitsOf (s.g b).toNat 0 6
  let digits := ((List.range ty.lanes).filter (s.active k)).map fun i => bitsOf (s.vl ty a i) pos 4
  let old := s.sl.v.get d
  ⟨.v d (ofLanes 32 ((List.range 16).map fun j =>
    laneOf 32 old j + (digits.filter (· = j)).length)), 0⟩
/-- `vdot4` has sixteen 32-bit groups under mask bits 0 to 15. -/
def resVdot4 (d a b : Fin 16) (k : VMask) (ty : Ty) (s : State) : AResult :=
  s.lanes d k .w fun i =>
    let sum := (List.range 4).foldl (fun acc j =>
      acc + laneInt ty (s.vl ty a (4 * i + j)) * laneInt ty (s.vl ty b (4 * i + j))) (s.vl .w d i : Int)
    (wrapInt 32 sum, 0)

/-! ## The meanings: a unit with a `nop` beside it completes with the result (R55) -/

def execVadd (d a b : Fin 16) (k : VMask) (ty : Ty) (fn : Bool) (s : State) : Step :=
  .next (s.finishA (resVadd d a b k ty fn s))
def execVsub (d a b : Fin 16) (k : VMask) (ty : Ty) (fn : Bool) (s : State) : Step :=
  .next (s.finishA (resVsub d a b k ty fn s))
def execVmul (d a b : Fin 16) (k : VMask) (ty : Ty) (s : State) : Step := .next (s.finishA (resVmul d a b k ty s))
def execVfma (d a b c : Fin 16) (k : VMask) (ty : Ty) (s : State) : Step := .next (s.finishA (resVfma d a b c k ty s))
def execVmin (d a b : Fin 16) (k : VMask) (ty : Ty) (fn : Bool) (s : State) : Step :=
  .next (s.finishA (resVmin d a b k ty fn s))
def execVmax (d a b : Fin 16) (k : VMask) (ty : Ty) (fn : Bool) (s : State) : Step :=
  .next (s.finishA (resVmax d a b k ty fn s))
def execVand (d a b : Fin 16) (k : VMask) (ty : Ty) (s : State) : Step := .next (s.finishA (resVand d a b k ty s))
def execVor (d a b : Fin 16) (k : VMask) (ty : Ty) (s : State) : Step := .next (s.finishA (resVor d a b k ty s))
def execVxor (d a b : Fin 16) (k : VMask) (ty : Ty) (s : State) : Step := .next (s.finishA (resVxor d a b k ty s))
def execVshl (d a b : Fin 16) (k : VMask) (ty : Ty) (s : State) : Step := .next (s.finishA (resVshl d a b k ty s))
def execVshr (d a b : Fin 16) (k : VMask) (ty : Ty) (s : State) : Step := .next (s.finishA (resVshr d a b k ty s))
def execVsra (d a b : Fin 16) (k : VMask) (ty : Ty) (s : State) : Step := .next (s.finishA (resVsra d a b k ty s))
def execVaddS (d a b : Fin 16) (k : VMask) (ty : Ty) (fn : Bool) (s : State) : Step :=
  .next (s.finishA (resVaddS d a b k ty fn s))
def execVsubS (d a b : Fin 16) (k : VMask) (ty : Ty) (fn : Bool) (s : State) : Step :=
  .next (s.finishA (resVsubS d a b k ty fn s))
def execVmulS (d a b : Fin 16) (k : VMask) (ty : Ty) (s : State) : Step := .next (s.finishA (resVmulS d a b k ty s))
def execVfmaS (d a b c : Fin 16) (k : VMask) (ty : Ty) (s : State) : Step := .next (s.finishA (resVfmaS d a b c k ty s))
def execVminS (d a b : Fin 16) (k : VMask) (ty : Ty) (fn : Bool) (s : State) : Step :=
  .next (s.finishA (resVminS d a b k ty fn s))
def execVmaxS (d a b : Fin 16) (k : VMask) (ty : Ty) (fn : Bool) (s : State) : Step :=
  .next (s.finishA (resVmaxS d a b k ty fn s))
def execVshlS (d a b : Fin 16) (k : VMask) (ty : Ty) (s : State) : Step := .next (s.finishA (resVshlS d a b k ty s))
def execVshrS (d a b : Fin 16) (k : VMask) (ty : Ty) (s : State) : Step := .next (s.finishA (resVshrS d a b k ty s))
def execVsraS (d a b : Fin 16) (k : VMask) (ty : Ty) (s : State) : Step := .next (s.finishA (resVsraS d a b k ty s))
def execVrint (d a : Fin 16) (md : RMode) (k : VMask) (ty : Ty) (s : State) : Step := .next (s.finishA (resVrint d a md k ty s))
def execVexp2f (d a : Fin 16) (k : VMask) (s : State) : Step := .next (s.finishA (resVexp2f d a k s))
def execVscaleb (d a b : Fin 16) (k : VMask) (ty : Ty) (s : State) : Step := .next (s.finishA (resVscaleb d a b k ty s))
def execVpopc (d a : Fin 16) (k : VMask) (ty : Ty) (s : State) : Step := .next (s.finishA (resVpopc d a k ty s))
def execVcmp (d : Fin 8) (a b : Fin 16) (cc : FCc) (k : VMask) (ty : Ty) (s : State) : Step :=
  .next (s.finishA (resVcmp d a b cc k ty s))
def execVsel (d a b : Fin 16) (c : Fin 8) (k : VMask) (ty : Ty) (s : State) : Step := .next (s.finishA (resVsel d a b c k ty s))
def execVcvt (d a : Fin 16) (src : Ty) (k : VMask) (ty : Ty) (fn : Bool) (s : State) : Step :=
  .next (s.finishA (resVcvt d a src k ty fn s))
def execVnarrow (d a b : Fin 16) (src : Ty) (k : VMask) (ty : Ty) (fn : Bool) (s : State) : Step :=
  .next (s.finishA (resVnarrow d a b src k ty fn s))
def execVwiden (d a : Fin 16) (h : Bool) (src : Ty) (k : VMask) (ty : Ty) (s : State) : Step :=
  .next (s.finishA (resVwiden d a h src k ty s))
def execVperm (d a b c : Fin 16) (k : VMask) (ty : Ty) (fn : Bool) (s : State) : Step :=
  .next (s.finishA (resVperm d a b c k ty fn s))
def execVpermi (d a b : Fin 16) (pat : Pattern) (k : VMask) (ty : Ty) (s : State) : Step :=
  .next (s.finishA (resVpermi d a b pat k ty s))
def execVbcast (d b : Fin 16) (k : VMask) (ty : Ty) (s : State) : Step := .next (s.finishA (resVbcast d b k ty s))
def execVext (d a b : Fin 16) (ty : Ty) (s : State) : Step := .next (s.finishA (resVext d a b ty s))
def execVins (d a b : Fin 16) (ty : Ty) (s : State) : Step := .next (s.finishA (resVins d a b ty s))
def execVred (d a : Fin 16) (op : RedOp) (k : VMask) (ty : Ty) (s : State) : Step := .next (s.finishA (resVred d a op k ty s))
def execVscan (d a : Fin 16) (op : RedOp) (k : VMask) (ty : Ty) (fn : Bool) (s : State) : Step :=
  .next (s.finishA (resVscan d a op k ty fn s))
def execVbin (d a b : Fin 16) (k : VMask) (ty : Ty) (s : State) : Step := .next (s.finishA (resVbin d a b k ty s))
def execVdot4 (d a b : Fin 16) (k : VMask) (ty : Ty) (s : State) : Step := .next (s.finishA (resVdot4 d a b k ty s))

end Sys2Proof.Machine
end

