-- ==== Sys2Proof/Machine/Windows.lean ====
section
/-! DEFINITION. The device register windows (R288): the control page (R289), the status pages (R123), and the registers of the
firmware windows (R315, R332, R355, R357, R359, R383 to R385), with the access codes of R5. -/

namespace Sys2Proof.Machine

/-! ## The configuration table (R382) -/

/-- A field of the table in force; 0 takes the default. -/
def State.tabField (s : State) (off n dflt : Nat) : Nat :=
  let v := leNat ((s.fw.table.drop off).take n)
  if v = 0 then dflt else v
def State.poolMax (s : State) : Nat := s.tabField 0x00C 4 64
/-- THERMLIM, in °C (R356, R382). -/
def State.thermLim (s : State) : Nat := s.tabField 0x00B 1 95
def State.thCore (s : State) : Nat := s.tabField 0x020 4 16
def State.thTerr (s : State) : Nat := s.tabField 0x024 4 1000
def State.thLane (s : State) : Nat := s.tabField 0x028 4 8
def State.thSoft (s : State) : Nat := s.tabField 0x02C 4 1
def State.reserve (s : State) : Nat := s.tabField 0x030 4 64

/-- A reason bit of HSTAT raised (R315). -/
def State.health (s : State) (bit : Fin 8) : State :=
  { s with fw := { s.fw with hstat := s.fw.hstat ||| BitVec.twoPow 8 bit.val } }

/-! ## Invalidation and revocation (R289) -/

/-- What an incomplete completion waits for: a page (VPN and SIZE) or a frame. -/
def pendPage (vpn size : Nat) : Nat := 4 * vpn + size
def pendFrame (f : Nat) : Nat := 2 ^ 60 + f
/-- The host's change of a frame's ownership (R287). -/
def pendOwner (f : Nat) : Nat := 2 ^ 61 + f
/-- Whether a page of a level, by its own number, overlaps the page that an invalidation names. -/
def pendHolds (pend vpn level : Nat) : Bool :=
  if pend < 2 ^ 60 then
    let size := pend % 4
    let z := max size level
    size == 3 || vpn * 2 ^ (9 * level) / 2 ^ (9 * z) == pend / 4 / 2 ^ (9 * z)
  else false
/-- Whether a cached translation reaches a frame of this chip: its page covers it, or lies in it, or its walk read a table there. -/
def TlbEntry.reachesFrame (e : TlbEntry) (f : Nat) : Bool :=
  let pa := leafPa e.leaf e.level (e.vpn * pageSize e.level)
  (ptePeer e.leaf == 0 && decide (pa < (f + 1) * 2097152) && decide (f * 2097152 < pa + pageSize e.level)) || e.tables.contains f
/-- The stale cached translations of a completion of a context: those that overlap the page; those that reach the frame from any other context
than the owner that changed its SHARE; or, after a change of ownership, those that reach the frame from any context that may not reach it now,
the old owner's own with them (R287, R289). -/
def State.stale (s : State) (ctx pend : Nat) (e : TlbEntry) : Bool :=
  if pend < 2 ^ 60 then e.ctx == ctx && pendHolds pend e.vpn e.level
  else if pend < 2 ^ 61 then e.ctx != ctx && e.reachesFrame (pend - 2 ^ 60)
  else e.reachesFrame (pend - 2 ^ 61) && !s.frameReach e.ctx ((pend - 2 ^ 61) * 2097152) false
/-- A completion begun for a context. -/
def State.pend (s : State) (ctx pend : Nat) : State :=
  match s.ctx? ctx with
  | some x => s.setCtx ctx { x with ipend := x.ipend ++ [pend] }
  | none => s

/-! ## The control page (R289) -/

def State.ctrlRead (s : State) (ctx off : Nat) : Word :=
  match s.ctx? ctx with
  | none => 0
  | some x =>
    if off = 0x008 then w64 ((if x.kbusy.isSome then 2 ^ 63 else 0) + x.kcode.toNat)
    else if off = 0x018 then w64 (if x.ipend.isEmpty then 0 else 1)
    else if off = 0x028 then w64 x.fserr.toNat
    else 0
/-- A store to 0x000 starts a kernel load; one made while KBUSY is set is ignored. -/
def State.startLoad (s : State) (ctx : Nat) (v : Word) : State :=
  match s.ctx? ctx with
  | some x => if x.kbusy.isSome then s else s.setCtx ctx { x with kbusy := some (BitVec.ofNat 16 (bitsOf v.toNat 0 16)) }
  | none => s
/-- A store to 0x010 starts an invalidation. -/
def State.startInvalidate (s : State) (ctx : Nat) (v : Word) : State :=
  s.pend ctx (pendPage (bitsOf v.toNat 12 44) (bitsOf v.toNat 0 2))
/-- A store to 0x020 sets SHARE and SHRO of an owned frame, and sets FSERR for one that is not; a change that takes access away starts a
completion. -/
def State.setShare (s : State) (ctx : Nat) (v : Word) : State :=
  let f := bitsOf v.toNat 0 18
  match s.ctx? ctx, tget s.frames f with
  | some x, some old =>
    if old.getLsbD 24 && bitsOf old.toNat 20 4 == ctx then
      let share := BitVec.ofNat 16 (bitsOf v.toNat 20 16) &&& ~~~ BitVec.twoPow 16 ctx
      let shro := bitsOf v.toNat 36 1
      let new : BitVec 32 := BitVec.ofNat 32 (2 ^ 24 + ctx * 2 ^ 20 + shro * 2 ^ 16 + share.toNat)
      let was : BitVec 16 := old.setWidth 16
      let lost := (was &&& ~~~ share) != 0 || (shro == 1 && !old.getLsbD 16 && was != 0)
      let s := { s with frames := tset s.frames f new }
      if lost then s.pend ctx (pendFrame f) else s
    else s.setCtx ctx { x with fserr := true }
  | some x, none => s.setCtx ctx { x with fserr := true }
  | none, _ => s
/-- A write of a control-page register (R5, R289). -/
def State.ctrlWrite (s : State) (ctx off : Nat) (v : Word) : State :=
  if off = 0x000 then s.startLoad ctx v
  else if off = 0x010 then s.startInvalidate ctx v
  else if off = 0x020 then s.setShare ctx v
  else if off = 0x028 then
    match s.ctx? ctx with
    | some x => if v.getLsbD 0 then s.setCtx ctx { x with fserr := false } else s
    | none => s
  else s

/-! ## Status pages (R123) -/

def State.cfsum (s : State) (k ctx : Nat) : BitVec 5 := (tget (s.clusterAt k).cfsum ctx).getD 0
/-- W1C of a summary word. -/
def State.clearSum (s : State) (k ctx : Nat) (v : Word) : State :=
  let x := s.clusterAt k
  let new := s.cfsum k ctx &&& ~~~ v.setWidth 5
  s.setCluster k { x with cfsum := if new = 0 then terase x.cfsum ctx else tset x.cfsum ctx new }

/-! ## Firmware windows -/

def State.hstatWord (s : State) : Word := w64 ((if s.fw.hstat = 0 then 0 else 2 ^ 63) + s.fw.hstat.toNat)
/-- Retired lanes of a port, and its rate in units of 100 Gb/s (R314, R385). -/
def State.portRate (s : State) (port : Nat) : Nat :=
  let n := (tget s.fw.lanes port).getD 0
  if n = 0 then 16 else if n ≤ 4 then 8 else 0
/-- The port that carries precision time: the first listed one that is up (R332). -/
def State.ptpPort (s : State) : Option Nat :=
  let listed := (List.range 4).map fun i => bitsOf (leNat ((s.fw.table.drop 0x18).take 2)) (4 * i) 4
  (listed.takeWhile fun p => p != 15).find? fun p => s.portRate p != 0
/-- TSYNC (R332): PORT is the port in use, and 0 where none is. -/
def State.tsyncWord (s : State) : Word :=
  let lock := s.fw.offsets.length ≥ 16 && s.fw.offsets.all fun o => decide (-40 ≤ o) && decide (o ≤ 40)
  w64 (lock.toNat * 2 ^ 63 + s.fw.tsyncHold.toNat * 2 ^ 62 + (s.ptpPort.getD 0) * 2 ^ 52 + s.fw.tsyncOffs.toNat)
/-- BOOTST (R383). -/
def State.bootst (s : State) : Word :=
  w64 ((match s.fw.boot with | .booting => 0 | .timing => 0 | .ready => 2 ^ 62 | .stopped f => 2 ^ 63 + f.toNat * 2 ^ 56) + s.fw.fsec.toNat)
/-- IDENT (R384): stepping 0x01, architecture 1.0, the table's CHIP once READY. -/
def State.ident (s : State) : Word :=
  w64 ((if s.fw.boot == .ready then s.chip.toNat else 0) * 2 ^ 48 + 0x01 * 2 ^ 40 + 0x01 * 2 ^ 32)
/-- Whether a harp is in service: at least 256 good rows of 264 (R181). -/
def Harp.inService (h : Harp) : Bool := decide (h.disabled.length ≤ 8)
/-- The capacity register of a die (R385); 0 until firmware has written the logical-to-physical table (R380, step 4). SPARES is the sum modulo
2^8, the width of its field (log 86). -/
def State.capacity (s : State) (d : Nat) : Word :=
  if s.fw.l2p.isEmpty then 0
  else
    let cores := (s.fw.l2p.filter fun e => e.2.getLsbD 31 && dieOf (bitsOf e.2.toNat 0 13) == d).length
    let harps := (List.range 32).map fun k => (s.clusterAt (32 * d + k)).harp
    let up := harps.filter Harp.inService
    let spares := up.foldl (fun acc h => acc + (8 - h.disabled.length)) 0
    let rate := if d = 0 then (List.range 16).foldl (fun acc p => acc + s.portRate p) 0 else 0
    let resv := if d = 0 then s.reserve - s.fw.reserveUsed else 0
    w64 (cores * 2 ^ 48 + up.length * 2 ^ 40 + spares % 256 * 2 ^ 32 + rate * 2 ^ 16 + resv)
/-- A register of a monitor unit by offset (R357). -/
def Monitor.read (m : Monitor) (off : Nat) : Word :=
  if off = 0x00 then m.sel
  else if off = 0x08 then m.epno
  else if off = 0x10 then m.rep.min
  else if off = 0x18 then m.rep.max
  else if off = 0x20 then m.rep.count
  else if 0x40 ≤ off && off < 0x80 then
    let b := (off - 0x40) / 4
    w64 (((m.rep.bins[b]?).getD 0).toNat + ((m.rep.bins[b + 1]?).getD 0).toNat * 2 ^ 32)
  else 0
def fwBase : Nat := 0xF800000000000
def Energy.zero : Energy := ⟨0, false, 0, []⟩
def State.energyAt (s : State) (acc : Nat) : Energy := (tget s.energy acc).getD Energy.zero
/-- The high half of an accumulator's count. -/
def Energy.high (e : Energy) : BitVec 32 := BitVec.ofNat 32 (bitsOf e.count.toNat 32 32)
/-- The energy accumulator whose LO, or with `hi` whose HI, an address of the windows lies in (R359). -/
def energyIn (pa : Nat) (hi : Bool) : Option Nat :=
  let o := pa - fwBase - 0x80000
  if decide (fwBase + 0x80000 ≤ pa) && decide (pa < fwBase + 0x82040) && o % 16 / 4 == (if hi then 1 else 0) then some (o / 16) else none
/-- The high half latched by a read of LO, for the host (none) or for a core that reads at firmware level (R359). -/
def Energy.latch (e : Energy) : Option Nat → Energy
  | none => { e with latchHost := e.high }
  | some c => { e with latchFw := tset e.latchFw c e.high }
/-- The high half of every accumulator whose LO a core reads is latched for that core (R359). -/
def State.latchRead (s : State) (core : Nat) (pas : List Nat) : State :=
  pas.foldl (fun s pa => match energyIn pa false with
    | some n =>
      let e := s.energyAt n
      { s with energy := tset s.energy n (e.latch (some core)) }
    | none => s) s
/-- An 8-byte read of the registers that HREAD reaches, by offset in the firmware windows; none where there is no such register
(R333, R357, R359, R383 to R385). The latch of an energy accumulator is the reader's matter. -/
def State.fwRead (s : State) (o : Nat) : Option Word :=
  if o = 0x10000 then some s.hstatWord
  else if o = 0x10008 then some s.tsyncWord
  else if o = 0x10010 then some s.bootst
  else if o = 0x10018 then some s.ident
  else if o = 0x10020 then some Config.serial
  else if 0x10028 ≤ o && o < 0x10048 && o % 8 = 0 then some (s.capacity ((o - 0x10028) / 8))
  else if 0x40000 ≤ o && o < 0x80000 && o % 65536 < 8192 && o % 8 = 0 then
    some (match tget (s.dieAt ((o - 0x40000) / 65536)).monitors (o % 65536 / 256) with
      | some m => m.read (o % 256)
      | none => 0)
  else if 0x80000 ≤ o && o < 0x82040 && o % 8 = 0 then
    let e := s.energyAt ((o - 0x80000) / 16)
    some (if o % 16 = 0 then e.count else w64 e.wrap.toNat)
  else none
/-- The logical-to-physical table as two entries a doubleword (R355). -/
def State.l2pRead (s : State) (o : Nat) : Word :=
  let e (n : Nat) : Nat := ((tget s.fw.l2p n).getD 0).toNat
  w64 (e ((o - 0x100000) / 4) + e ((o - 0x100000) / 4 + 1) * 2 ^ 32)

/-! ## Reads and writes by physical address -/

/-- Whether an address lies in a register window. -/
def isWindow (pa : Nat) : Bool := decide (0xF000000000000 ≤ pa)
/-- A register of the windows as a core reads it for context `ctx`: HI of an energy accumulator is what that core's last read of LO latched (R359).
Offsets not listed read 0. -/
def State.winRead (s : State) (core ctx pa : Nat) : Word :=
  if fwBase ≤ pa then
    let o := pa - fwBase
    if 0x80000 ≤ o && o < 0x82040 && o % 16 = 0 then
      let e := s.energyAt ((o - 0x80000) / 16)
      w64 (bitsOf e.count.toNat 0 32 + ((tget e.latchFw core).getD 0).toNat * 2 ^ 32)
    else if 0x100000 ≤ o && o < 0x108000 then s.l2pRead o else (s.fwRead o).getD 0
  else if pa < 0xF000000010000 then s.ctrlRead ((pa - 0xF000000000000) / 4096) (pa % 4096)
  else if 0xF000000100000 ≤ pa && pa < 0xF000000180000 then
    if pa % 4096 = 8 * ctx then (s.cfsum ((pa - 0xF000000100000) / 4096) ctx).setWidth 64 else 0
  else 0
/-- A byte of the windows. -/
def State.winByte (s : State) (core ctx pa : Nat) : Byte :=
  BitVec.ofNat 8 (bitsOf (s.winRead core ctx (pa / 8 * 8)).toNat (8 * (pa % 8)) 8)
/-- A write of a window register for context `ctx` (R5, R289, R123): of a status page only the context's own word takes it. Of the firmware windows
WRAP (R359) and the logical-to-physical table (R355), whose entries are registers of 32 bits, may be written. -/
def State.winWrite (s : State) (ctx pa : Nat) (v : Word) : State :=
  if fwBase ≤ pa then
    let o := pa - fwBase
    if 0x80000 ≤ o && o < 0x82040 && o % 16 = 8 then
      match tget s.energy ((o - 0x80000) / 16) with
      | some e => { s with energy := tset s.energy ((o - 0x80000) / 16) { e with wrap := e.wrap && !v.getLsbD 0 } }
      | none => s
    else if 0x100000 ≤ o && o < 0x108000 && o % 4 = 0 then
      { s with fw := { s.fw with
        l2p := tset s.fw.l2p ((o - 0x100000) / 4) (BitVec.ofNat 32 (bitsOf v.toNat 0 13 + bitsOf v.toNat 31 1 * 2 ^ 31)) } }
    else s
  else if pa < 0xF000000010000 then s.ctrlWrite ((pa - 0xF000000000000) / 4096) (pa % 4096) v
  else if 0xF000000100000 ≤ pa && pa < 0xF000000180000 && pa % 4096 = 8 * ctx then s.clearSum ((pa - 0xF000000100000) / 4096) ctx v
  else s
/-- The bytes of a register of the windows at an address: 4 in the logical-to-physical table, else 8. -/
def winWidth (pa : Nat) : Nat := if fwBase + 0x100000 ≤ pa && pa < fwBase + 0x108000 then 4 else 8
/-- A store's masked bytes of a granule of the windows: one write for each register with a byte stored; bytes not stored count as 0
(log 12). -/
def State.winGran (s : State) (ctx gran : Nat) (bytes : BitVec 512) (mask : BitVec 64) : State :=
  let w := winWidth (64 * gran)
  (List.range (64 / w)).foldl (fun s r =>
    let on := (List.range w).filter fun i => mask.getLsbD (w * r + i)
    if on.isEmpty then s
    else s.winWrite ctx (64 * gran + w * r)
      (w64 (on.foldl (fun acc i => acc + bitsOf bytes.toNat (8 * (w * r + i)) 8 * 2 ^ (8 * i)) 0))) s

end Sys2Proof.Machine
end

