-- ==== Sys2Proof/Machine/DeviceMem.lean ====
section
/-! DEFINITION. Device loads and stores, atomics and fences (R203 to R210) as the thread steps of the ordering machine (R193, R195,
R200), with watchpoints (R366). -/

namespace Sys2Proof.Machine

/-! ## Watchpoints (R366) -/

/-- Whether an address reaches a register window: its bytes never match (R366). -/
def State.windowVa (s : State) (va : Word) : Bool :=
  match s.leafOf s.curCtx va with
  | some (e, lv) => ptePeer e == 0 && isWindow (leafPa e lv va.toNat)
  | none => false
/-- The watchpoint that an access matches: its number, ACT, and the first matching byte. -/
def State.watchHit (s : State) (va n : Nat) (r w : Bool) : Option (Fin 4 × Bool × Nat) :=
  match s.ctx? s.curCtx with
  | none => none
  | some x =>
    match x.debug with
    | none => none
    | some pg =>
      ([0, 1, 2, 3] : List (Fin 4)).findSome? fun i =>
        let c := pg.wpctl.get i
        let size := 2 ^ bitsOf c.toNat 4 4
        let base := bitsOf (pg.wpaddr.get i).toNat 0 56 / size * size
        if c.getLsbD 0 && ((r && c.getLsbD 1) || (w && c.getLsbD 2)) && decide (va < base + size) && decide (base < va + n)
            && s.sl.skip != some ⟨3, BitVec.ofNat 4 i.val⟩ then
          ((List.range n).find? fun j => decide (base ≤ va + j) && decide (va + j < base + size) && !s.windowVa (w64 (va + j))).map
            fun j => (i, c.getLsbD 3, va + j)
        else none
/-- A device access behind its watchpoint check, made once for a unit (R366). -/
def State.watched (s : State) (va : Word) (n : Nat) (r w : Bool) (go : State → State) : State :=
  if s.sl.wait.isSome then go s
  else match s.watchHit va.toNat n r w with
    | none => go s
    | some (i, act, addr) =>
      if act then s.takeTrap 22 0 0 i.val (w64 addr) s.th.pc
      else
        let s := s.dropUnit
        s.setSl { s.sl with halt := some ⟨3, BitVec.ofNat 4 i.val⟩, stepping := false }

/-! ## Peers (R193, R205, R340) -/

/-- Whether a peer index acts as a dead link (R331, R340). -/
def State.deadPeer (s : State) (ctx p : Nat) : Bool :=
  match s.ctx? ctx with
  | some x => match x.peers[p]? with | some e => e.dead || !e.valid | none => true
  | none => true

/-! ## Loads (R193, R205) -/

/-- The addresses behind pieces, byte by byte. -/
def byteList (ps : List (Option Nat × Nat × Nat)) : List (Option Nat × Nat) :=
  ps.flatMap fun p => (List.range p.2.2).map fun i => (p.1, p.2.1 + i)
/-- A byte that the current thread's commit buffer holds (R193). -/
def State.cbByte (s : State) (g : Gran) (i : Nat) : Option Byte :=
  s.sl.cb.findSome? fun e => match e with
    | .store h b m => if s.sameGran s.curCtx h g && m.getLsbD i then some (BitVec.ofNat 8 (bitsOf b.toNat (8 * i) 8)) else none
    | _ => none
/-- A byte of the newest store on its way from a thread that covers it (R193). -/
def State.pathByte (s : State) (owner : Nat) (g : Gran) (i : Nat) : Option Byte :=
  (s.op.reverse.findSome? fun e => match e.body with
    | .store b m => if e.owner == owner && s.sameGran e.ctx e.gran g && m.getLsbD i then
        some (BitVec.ofNat 8 (bitsOf b.toNat (8 * i) 8)) else none
    | _ => none).orElse fun _ =>
  s.lq.reverse.findSome? fun e => match e.body with
    | .store h b m => if e.owner == owner && s.sameGran e.ctx ⟨some e.peer, h⟩ g && m.getLsbD i then
        some (BitVec.ofNat 8 (bitsOf b.toNat (8 * i) 8)) else none
    | _ => none
def granOf (a : Option Nat × Nat) : Gran := ⟨a.1, a.2 / 64⟩
/-- The current byte of a cell, of a window, or as a peer answers (log 8). -/
def State.cellByte (s : State) (a : Option Nat × Nat) : Byte :=
  match a.1 with
  | some p => Config.peerByte s.tick p a.2
  | none => if isWindow a.2 then s.winByte s.curCore s.curCtx a.2 else mget s.mem a.2
/-- What a read of bytes of this chip does besides (R192, R359): the cells are recalled to their home slices, and the reader's latches of energy
counts are loaded. -/
def State.touchCells (s : State) (core : Nat) (as : List (Option Nat × Nat)) : State :=
  let mine := (as.filter fun a => a.1.isNone).map (·.2)
  let s := (mine.filter fun a => !isWindow a).foldl (fun s a => s.placeCell (a / 64) none) s
  s.latchRead core mine
/-- The byte a load of the current thread delivers, and whether a cell supplied it. -/
def State.loadByte (s : State) (a : Option Nat × Nat) : Byte × Bool :=
  let held := if s.spec then s.cbByte (granOf a) (a.2 % 64) else s.pathByte s.curTask (granOf a) (a.2 % 64)
  match held with
  | some b => (b, false)
  | none => (s.cellByte a, true)
/-- Granules that supplied bytes from cells enter the read signature of a speculative task (R193). -/
def addSig (rs : List Gran) (gs : List Gran) : List Gran := gs.foldl (fun acc g => if acc.contains g then acc else acc ++ [g]) rs
/-- Whether `poll` finds every byte at hand (R205): in the commit buffer, or in the SRAM of a home slice as Config leaves it (log 9). -/
def State.atHand (s : State) (as : List (Option Nat × Nat)) : Bool :=
  as.all fun a => (s.spec && (s.cbByte (granOf a) (a.2 % 64)).isSome) || (a.1.isNone && Config.sliceHolds s.tick (a.2 / 64))
/-- The load step and its completion. -/
def State.deliver (s : State) (t : Fin 16) (as : List (Option Nat × Nat)) (ext : Nat → Word) : State :=
  let s := s.touchCells s.curCore as
  let bytes := as.map s.loadByte
  let sl := s.sl
  let s := if s.spec then
      s.setSl { sl with rs := addSig sl.rs (((as.zip bytes).filter fun e => e.2.2 && !isWindow e.1.2).map fun e => granOf e.1) }
    else s
  ((s.writeG t (ext (leNat (bytes.map (·.1))))).writeWs codeDone 0).complete
/-- A load whose pages are translated: it waits for its bytes under its selector; a dead link or a refusal at a peer ends it. -/
def State.loadFrom (s : State) (i : Instr) (t : Fin 16) (ds : Sel) (ps : List (Option Nat × Nat × Nat)) (ext : Nat → Word) :
    State :=
  let as := byteList ps
  if ps.any fun p => (match p.1 with | some q => s.deadPeer s.curCtx q | none => false) then s.refuse 1
  else if ds == .poll then
    s.await i ds 0 (s.atHand as) (fun s => s.deliver t as ext) State.endPlain
  else if !s.late && (ps.any fun p => p.1.isSome) && Config.peerRefuses s.tick then s.refuse 2
  else s.await i ds 0 (!s.late) (fun s => s.deliver t as ext) State.endPlain
/-- `ldg` (R205). A speculative task's load of a register window makes the transition first (R288). -/
def State.ldg (s : State) (i : Instr) (t : Fin 16) (m : CgAddr) (size : Nat) (ext : Nat → Word) : State :=
  let va := s.cgVa m
  s.watched va size true false fun s => s.walked i m.ds [va, va + w64 (size - 1)] (fun s =>
    match s.translateRange s.curCtx s.th.priv va size needR with
    | .error e => s.devFault e
    | .ok ps =>
      let s := s.noteRange s.curCtx va size
      if s.spec && (ps.any fun p => p.1.isNone && isWindow p.2.1) then
        s.transition i m.ds (fun s => s.loadFrom i t m.ds ps ext) State.endPlain
      else s.loadFrom i t m.ds ps ext) State.endPlain

def execLdgB (t : Fin 16) (m : CgAddr) (s : State) : Step := .next (s.ldg (.ldgB t m) t m 1 (extendTy .b))
def execLdgH (t : Fin 16) (m : CgAddr) (s : State) : Step := .next (s.ldg (.ldgH t m) t m 2 (extendTy .h))
def execLdgW (t : Fin 16) (m : CgAddr) (s : State) : Step := .next (s.ldg (.ldgW t m) t m 4 (extendTy .w))
def execLdgD (t : Fin 16) (m : CgAddr) (s : State) : Step := .next (s.ldg (.ldgD t m) t m 8 (extendTy .d))
def execLdgZb (t : Fin 16) (m : CgAddr) (s : State) : Step := .next (s.ldg (.ldgZb t m) t m 1 (extendTy .zb))
def execLdgZh (t : Fin 16) (m : CgAddr) (s : State) : Step := .next (s.ldg (.ldgZh t m) t m 2 (extendTy .zh))
def execLdgZw (t : Fin 16) (m : CgAddr) (s : State) : Step := .next (s.ldg (.ldgZw t m) t m 4 (extendTy .zw))

/-! ## Stores (R193, R195, R206) -/

/-- Bytes and mask of one granule. -/
structure GranStore where
  gran : Gran
  bytes : BitVec 512
  mask : BitVec 64
  deriving DecidableEq, Repr
/-- One byte laid into a list of granule stores. -/
def putByte (l : List GranStore) (a : Option Nat × Nat) (b : Byte) : List GranStore :=
  let g := granOf a
  let i := a.2 % 64
  let bit : BitVec 512 := BitVec.ofNat 512 (b.toNat * 2 ^ (8 * i))
  if l.any fun e => e.gran == g then
    l.map fun e => if e.gran == g then { e with bytes := e.bytes ||| bit, mask := e.mask ||| BitVec.twoPow 64 i } else e
  else l ++ [⟨g, bit, BitVec.twoPow 64 i⟩]
/-- A store's bytes by granule, in address order. A status page shows a context its own word only (R288). -/
def State.granStores (s : State) (as : List (Option Nat × Nat)) (bytes : List Byte) : List GranStore :=
  ((as.zip bytes).filter fun e =>
    !(e.1.1.isNone && decide (0xF000000100000 ≤ e.1.2) && decide (e.1.2 < 0xF000000180000) && e.1.2 % 4096 / 8 != s.curCtx)).foldl
    (fun l e => putByte l e.1 e.2) []
/-- Whether a commit buffer has a store entry for a granule. -/
def cbHas (same : Gran → Gran → Bool) (cb : List CbEntry) (g : Gran) : Bool := cb.any fun e => match e with | .store h _ _ => same h g | _ => false
/-- A granule's bytes merged into a commit buffer (R193). -/
def cbMerge (same : Gran → Gran → Bool) (cb : List CbEntry) (e : GranStore) : List CbEntry :=
  if cbHas same cb e.gran then
    cb.map fun x => match x with
      | .store h b m => if same h e.gran then .store h (overlay b e.bytes e.mask) (m ||| e.mask) else x
      | _ => x
  else cb ++ [.store e.gran e.bytes e.mask]
/-- A new fence-tracker entry of the current thread (R200). -/
def State.track (s : State) (peer : Option Nat) (parts : Nat) (msg : Option (Nat × BitVec 20)) : State × Nat :=
  let k := s.nextFt
  ({ s with
      nextFt := k + 1
      ft := s.ft ++ [⟨s.curTask, s.curCore, s.curSlot, k, peer, parts, none, none, msg, s.curCtx, s.instant⟩] }, k)
/-- The direct-store step: an entry for each granule, and one fence-tracker entry for each destination chip (R193, R200, log 13). -/
def State.directStore (s : State) (l : List GranStore) : State :=
  let chips := (l.map fun e => e.gran.peer).eraseDups
  chips.foldl (fun s c =>
    let mine := l.filter fun e => e.gran.peer == c
    let (s, k) := s.track c mine.length none
    { s with op := s.op ++ mine.map fun e => OpEntry.mk s.curTask s.curCore s.curSlot s.curCtx k e.gran (.store e.bytes e.mask) s.instant }) s
/-- A store performed by the state of its task (R206). -/
def State.storeNow (s : State) (l : List GranStore) : State :=
  let s := if s.spec then s.setSl { s.sl with cb := l.foldl (cbMerge (s.sameGran s.curCtx)) s.sl.cb } else s.directStore l
  (s.writeWs codeDone 0).complete
/-- `stg` (R206): a speculative task that needs a 33rd commit-buffer entry, or stores to a register window, makes the transition first
(R195, R288). -/
def State.stg (s : State) (i : Instr) (t : Fin 16) (m : CgAddr) (size : Nat) : State :=
  let va := s.cgVa m
  s.watched va size false true fun s => s.walked i m.ds [va, va + w64 (size - 1)] (fun s =>
    match s.translateRange s.curCtx s.th.priv va size needW with
    | .error e => s.devFault e
    | .ok ps =>
      let s := s.noteRange s.curCtx va size
      let l := s.granStores (byteList ps) (leBytes size (s.g t).toNat)
      let fresh := (l.filter fun e => !cbHas (s.sameGran s.curCtx) s.sl.cb e.gran).length
      if s.spec && (decide (32 < s.sl.cb.length + fresh) || (ps.any fun p => p.1.isNone && isWindow p.2.1)) then
        s.transition i m.ds (fun s => s.storeNow l) State.endPlain
      else s.storeNow l) State.endPlain

def execStgB (t : Fin 16) (m : CgAddr) (s : State) : Step := .next (s.stg (.stgB t m) t m 1)
def execStgH (t : Fin 16) (m : CgAddr) (s : State) : Step := .next (s.stg (.stgH t m) t m 2)
def execStgW (t : Fin 16) (m : CgAddr) (s : State) : Step := .next (s.stg (.stgW t m) t m 4)
def execStgD (t : Fin 16) (m : CgAddr) (s : State) : Step := .next (s.stg (.stgD t m) t m 8)

/-! ## Atomics (R207 to R209) -/

/-- The new value of an atomic from the old one (R208): 0 add, 1 min, 2 max, 3 and, 4 or, 5 xor, 6 swap, 7 cas, and 8 the gate of
`cp.rot` (R218). -/
def amoNew (op : Fin 9) (ty : Ty) (m b cmp : Nat) : Nat :=
  let n := ty.bits
  let x := laneInt ty m
  let y := laneInt ty b
  match op with
  | 0 => (m + b) % 2 ^ n
  | 1 => if y < x then b else m
  | 2 => if x < y then b else m
  | 3 => m &&& b
  | 4 => m ||| b
  | 5 => m ^^^ b
  | 6 => b
  | 7 => if m = cmp then b else m
  | 8 => if 0 < x then m - 1 else m
/-- The value of a cell, or of a register window as a core reads it for a context, before an atomic. -/
def State.amoRead (s : State) (core ctx pa n : Nat) : Nat :=
  if isWindow pa then leNat ((List.range n).map fun i => s.winByte core ctx (pa + i)) else leNat (mbytes s.mem pa n)
/-- The value an atomic leaves, written at the place its scope names (R192). -/
def State.amoWrite (s : State) (core ctx : Nat) (sc : Scope) (pa n v : Nat) : State :=
  if isWindow pa then
    let o := pa % 64
    s.winGran ctx (pa / 64) (BitVec.ofNat 512 (v * 2 ^ (8 * o))) (BitVec.ofNat 64 ((2 ^ n - 1) * 2 ^ o))
  else (s.writeCell pa (leBytes n v) none).placeCell (pa / 64)
    (match sc with | .clu => some (.cluster (clusterOf core)) | .sys => some .hot | _ => none)
/-- Whether an atomic's step is enabled: the gate of `cp.rot` waits for a count above 0 (R218). -/
def State.amoReady (s : State) (core ctx : Nat) (q : AmoReq) : Bool :=
  q.op != 8 || decide (0 < laneInt q.ty (s.amoRead core ctx q.pa q.ty.size))
/-- The read-modify-write of an atomic as one step (R193), with the old value. -/
def State.amoStep (s : State) (core ctx : Nat) (q : AmoReq) : State × Nat :=
  let n := q.ty.size
  let old := s.amoRead core ctx q.pa n
  ((s.latchRead core [q.pa]).amoWrite core ctx q.scope q.pa n (amoNew q.op q.ty old q.b.toNat q.cmp.toNat), old)
/-- The `.core` atomic: one step on the bytes of the A buffer, at the unit's completion, by a task in either state and in any block: it does not
wait (R209). A locked range stalls it as it does a store (R169). -/
def State.amoCore (s : State) (op : Fin 9) (d a b : Fin 16) (ty : Ty) : State :=
  let n := ty.size
  let off := (s.g a).toNat / n * n
  if s.stalls .store .a off n then s.stall
  else
    let old := leNat (s.bufLoad .load .a off n)
    let new := amoNew op ty old (s.pat ty b) (s.pat ty d)
    (((s.bufStore .store .a off (leBytes n new)).writeG d (extendTy ty old)).writeWs codeDone 0).complete
/-- The ending of an atomic's wait: DETAIL 1 once it has left the core, 0 before (R209). -/
def endAmo (code : BitVec 8) (s : State) : State := s.endWith code (if s.sl.remote.isSome then 1 else 0)
/-- An atomic leaves the core: an entry of the store path, whose result the unit then waits for (R193). -/
def State.launchAmo (s : State) (i : Instr) (ds : Sel) (peer : Option Nat) (req : AmoReq) : State :=
  let (s, k) := s.track peer 1 none
  let e : OpEntry := ⟨s.curTask, s.curCore, s.curSlot, s.curCtx, k, ⟨peer, req.pa / 64⟩, .atomic req, s.instant⟩
  let s := { s with op := s.op ++ [e] }
  let s := s.setSl { s.sl with remote := some ⟨.amo k, none⟩ }
  s.holdWait { s.waitOf i ds with stage := 1 } endAmo
/-- Atomics (R207 to R209). -/
def State.amo (s : State) (i : Instr) (op : Fin 9) (d a b : Fin 16) (ty : Ty) (sc : Scope) (ds : Sel) : State :=
  if sc == .core then s.amoCore op d a b ty
  else match s.sl.remote with
    | some ⟨_, some r⟩ =>
      if r.code = codeDone then ((s.writeG d (extendTy ty r.value.toNat)).writeWs codeDone 0).complete else s.refuse r.detail
    | some ⟨_, none⟩ => s.holdWait { s.waitOf i ds with stage := 1 } endAmo
    | none =>
      let va := s.g a
      s.watched va ty.size true true fun s =>
        if va.toNat % ty.size != 0 then s.execFault 7
        else s.walked i ds [va] (fun s =>
          match s.translate s.curCtx s.th.priv va needRW with
          | .error kind => s.devFault (kind, va)
          | .ok (peer, pa) =>
            let s := s.noteTlb s.curCtx va
            if peer.isSome && sc != .sys then s.refuse 3
            else
              let req : AmoReq := ⟨op, ty, sc, pa, w64 (s.pat ty b), w64 (s.pat ty d)⟩
              s.transition i ds (fun s => s.launchAmo i ds peer req) endAmo) endAmo

def execAmoAdd (d a b : Fin 16) (ty : Ty) (sc : Scope) (ds : Sel) (s : State) : Step :=
  .next (s.amo (.amoAdd d a b ty sc ds) 0 d a b ty sc ds)
def execAmoMin (d a b : Fin 16) (ty : Ty) (sc : Scope) (ds : Sel) (s : State) : Step :=
  .next (s.amo (.amoMin d a b ty sc ds) 1 d a b ty sc ds)
def execAmoMax (d a b : Fin 16) (ty : Ty) (sc : Scope) (ds : Sel) (s : State) : Step :=
  .next (s.amo (.amoMax d a b ty sc ds) 2 d a b ty sc ds)
def execAmoAnd (d a b : Fin 16) (ty : Ty) (sc : Scope) (ds : Sel) (s : State) : Step :=
  .next (s.amo (.amoAnd d a b ty sc ds) 3 d a b ty sc ds)
def execAmoOr (d a b : Fin 16) (ty : Ty) (sc : Scope) (ds : Sel) (s : State) : Step :=
  .next (s.amo (.amoOr d a b ty sc ds) 4 d a b ty sc ds)
def execAmoXor (d a b : Fin 16) (ty : Ty) (sc : Scope) (ds : Sel) (s : State) : Step :=
  .next (s.amo (.amoXor d a b ty sc ds) 5 d a b ty sc ds)
def execAmoSwap (d a b : Fin 16) (ty : Ty) (sc : Scope) (ds : Sel) (s : State) : Step :=
  .next (s.amo (.amoSwap d a b ty sc ds) 6 d a b ty sc ds)
def execAmoCas (d a b : Fin 16) (ty : Ty) (sc : Scope) (ds : Sel) (s : State) : Step :=
  .next (s.amo (.amoCas d a b ty sc ds) 7 d a b ty sc ds)

/-! ## Fence (R200, R210) -/

/-- The status word and the code in ws; failed entries that were counted leave the tracker. -/
def State.fenceDone (s : State) (d : Fin 16) (sc : Scope) (code : BitVec 8) : State :=
  let es := s.ftIn s.curTask sc
  let s := { s with ft := s.ft.filter fun e => !(es.contains e && e.failed.isSome) }
  ((s.writeG d (fenceWord es)).endWith code (fenceUnconf es))
/-- Whether no entry in scope is in flight, and the code that the fence then ends with (R200). -/
def fenceOver (es : List FtEntry) : Option (BitVec 8) :=
  if es.all fun e => e.failed.isSome then some (if es.isEmpty then codeDone else codePartial) else none
/-- The ending of a fence's wait: DEADLINE or CAP only while entries in scope are in flight (R200). -/
def endFence (d : Fin 16) (sc : Scope) (code : BitVec 8) (s : State) : State :=
  s.fenceDone d sc ((fenceOver (s.ftIn s.curTask sc)).getD code)
/-- `fence`. -/
def execFence (d : Fin 16) (sc : Scope) (ds : Sel) (s : State) : Step :=
  let ended := fenceOver (s.ftIn s.curTask sc)
  .next (s.await (.fence d sc ds) ds 0 ended.isSome (fun s => s.fenceDone d sc (ended.getD 0)) (endFence d sc))

end Sys2Proof.Machine
end

