-- ==== Sys2Proof/Machine/Dictionary.lean ====
section
/-! DEFINITION. The decode dictionary (R68 to R78): banks, images and the directory, reloads, and `dload`, `dset` and `dfence`.
Expansion of `dx` and `dxa` stands in Expand.lean, after every meaning it reaches. -/

namespace Sys2Proof.Machine

/-- A bank by its number (`true` is bank 1). -/
def Dict.bank (d : Dict) (b : Bool) : Bank := if b then d.bank1 else d.bank0
def Dict.setBank (d : Dict) (b : Bool) (x : Bank) : Dict := if b then { d with bank1 := x } else { d with bank0 := x }
def Dict.activeBank (d : Dict) : Bank := d.bank d.active
/-- The store that the next unit decodes with: the oldest state that units already fetched still see (R77). -/
def Slot.decodeDict (sl : Slot) : Dict :=
  match sl.dictLag with
  | (d, _) :: _ => d
  | [] => sl.dict
/-- The store of a slot as work of a context finds it: empty where the slot last ran another context's (R276). -/
def Slot.dictOf (sl : Slot) (ctx : Nat) : Dict := if sl.dictCtx == some ctx then sl.dict else Dict.empty
/-- A change of the store by the current unit: the three units after it decode with the state before (R77). -/
def State.changeDict (s : State) (d : Dict) : State :=
  let sl := s.sl
  s.setSl { sl with dict := d, dictLag := sl.dictLag ++ [(sl.dict, 4)] }

/-- An entry from its 16 bytes (R69). -/
def entryOf (l : List Byte) : DictEntry := ⟨w64 (leNat (l.take 8)), BitVec.ofNat 32 (leNat ((l.drop 8).take 4))⟩
/-- Entries FIRST to FIRST + n − 1 of an image's bytes after its header. -/
def entriesOf : Nat → Nat → List Byte → Tab DictEntry
  | _, 0, _ => []
  | i, n + 1, l => (i, entryOf (l.take 16)) :: entriesOf (i + 1) n (l.drop 16)

/-! ## Directory loads and reloads (R74, R78) -/

/-- What a look into the directory reads, in order, and what it finds: the bank, or KIND and ADDR of the failure. A handle that is not defined
fails with KIND 0 and ADDR 0 (log 14). -/
def State.dirScan (s : State) (ctx : Nat) (h : BitVec 32) : List (Word × Nat) × Except (Nat × Word) Bank :=
  let n := bitsOf (s.descWord ctx 2).toNat 32 32
  let entry := s.descWord ctx 3 + w64 (8 * h.toNat)
  if h.toNat = 0 || n ≤ h.toNat then ([], .error (0, 0))
  else match s.vread ctx entry 8 with
    | .error e => ([(entry, 8)], .error e)
    | .ok p =>
      let va := w64 (leNat p)
      if va = 0 then ([(entry, 8)], .error (0, 0))
      else match s.vread ctx va 64 with
        | .error e => ([(entry, 8), (va, 64)], .error e)
        | .ok hd =>
          let first := leNat ((hd.drop 4).take 1)
          let last := leNat ((hd.drop 5).take 1)
          if leNat (hd.take 4) != h.toNat || decide (last < first) then ([(entry, 8), (va, 64)], .error (0, 0))
          else
            let size := 16 * (last - first + 1)
            ([(entry, 8), (va, 64), (va + 64, size)],
              match s.vread ctx (va + 64) size with
              | .error e => .error e
              | .ok l => .ok ⟨h, entriesOf first (last - first + 1) l⟩)
/-- A directory load of a handle: the bank, or KIND and ADDR of the failure. -/
def State.dirLoad (s : State) (ctx : Nat) (h : BitVec 32) : Except (Nat × Word) Bank := (s.dirScan ctx h).2
/-- What a directory load does besides: the cells it reads are recalled (R192, log 105). -/
def State.sawDir (s : State) (ctx : Nat) (h : BitVec 32) : State := (s.dirScan ctx h).1.foldl (fun s r => s.saw ctx r.1 r.2) s
/-- `Reload h` (R78): the store afterwards, or the failure. -/
def State.reloadDict (s : State) (ctx : Nat) (d : Dict) (h : BitVec 32) : Except (Nat × Word) Dict :=
  if d.activeBank.handle = h then .ok d
  else if (d.bank !d.active).handle = h then .ok { d with active := !d.active }
  else if h = 0 then .ok { d.setBank (!d.active) Bank.empty with active := !d.active }
  else match s.dirLoad ctx h with
    | .error e => .error e
    | .ok b => .ok { d.setBank (!d.active) b with active := !d.active }
/-- What `Reload h` does besides: where it loads from the directory, the cells it reads are recalled. -/
def State.sawReload (s : State) (ctx : Nat) (d : Dict) (h : BitVec 32) : State :=
  if d.activeBank.handle = h || (d.bank !d.active).handle = h then s else s.sawDir ctx h
/-- The store as a migration finds it: the inactive bank emptied (R78). -/
def Dict.dropInactive (d : Dict) : Dict := d.setBank (!d.active) Bank.empty
/-- The store after a migration (R78): the inactive bank emptied, then the thread's active handle reloaded. -/
def State.migrateDict (s : State) (ctx : Nat) (d : Dict) (h : BitVec 32) : Except (Nat × Word) Dict :=
  let d := d.dropInactive
  if h = 0 then .ok { d with bank0 := Bank.empty, bank1 := Bank.empty } else s.reloadDict ctx d h
/-- The store after a switch-in (R78, R292): the inactive handle first, the active one second, each from the directory; a handle of 0
leaves its bank empty. -/
def State.switchDict (s : State) (ctx : Nat) (d : Dict) : Except (Nat × Word) Dict :=
  let load (h : BitVec 32) : Except (Nat × Word) Bank := if h = 0 then .ok Bank.empty else s.dirLoad ctx h
  match load (d.bank !d.active).handle with
  | .error e => .error e
  | .ok b1 =>
    match load d.activeBank.handle with
    | .error e => .error e
    | .ok b2 => .ok ((d.setBank (!d.active) b1).setBank d.active b2)

/-- What a switch-in's reloads do besides: the inactive handle's reads, then, unless they failed, the active handle's. -/
def State.sawSwitch (s : State) (ctx : Nat) (d : Dict) : State :=
  let h := (d.bank !d.active).handle
  match if h = 0 then .ok Bank.empty else s.dirLoad ctx h with
  | .error _ => s.sawDir ctx h
  | .ok _ => (s.sawDir ctx h).sawDir ctx d.activeBank.handle

/-! ## `dload`, `dset`, `dfence` (R75, R76) -/

/-- The addresses of a range as a thread's read reaches them. -/
def State.imageRange (s : State) (va : Word) (n : Nat) : Except (Nat × Word) (List (Option Nat × Nat)) :=
  match s.translateRange s.curCtx s.th.priv va n needR with
  | .error e => .error e
  | .ok ps => .ok (byteList ps)
/-- FIRST and LAST of an image's header (R73). -/
def imageSpan (hd : List Byte) : Nat × Nat := (leNat ((hd.drop 4).take 1), leNat ((hd.drop 5).take 1))
/-- The bytes of an image after its header, as the header that a load would deliver gives them; 0 where it cannot be read. -/
def State.imageTail (s : State) (va : Word) : Nat :=
  match s.imageRange va 64 with
  | .error _ => 0
  | .ok hd =>
    let (first, last) := imageSpan ((hd.map s.loadByte).map (·.1))
    if last < first then 0 else 16 * (last - first + 1)
/-- The bank written by an image whose bytes have been read. -/
def State.takeImage (s : State) (t : Fin 16) (h : BitVec 32) (first last : Nat) (l : List Byte) : State :=
  if h = 0 then s.refuse 1
  else if last < first then s.refuse 2
  else
    let d := s.sl.dict
    let b := if d.activeBank.handle = h then d.active else !d.active
    let old := d.bank b
    let base : Tab DictEntry := if old.handle = h then old.entries else []
    let new := (entriesOf first (last - first + 1) l).foldl (fun acc e => tset acc e.1 e.2) base
    let d' := d.setBank b ⟨h, new⟩
    let s := if b == d.active then s.changeDict d' else s.setSl { s.sl with dict := d' }
    ((s.writeG t (zext64 h)).endWith codeDone (BitVec.ofNat 32 (last - first + 1)))
/-- The image's bytes read as `ldg` reads them: commit buffer first, and into the read signature. -/
def State.readImage (s : State) (as : List (Option Nat × Nat)) : State × List Byte :=
  let s := s.touchCells s.curCore as
  let bytes := as.map s.loadByte
  let sl := s.sl
  (if s.spec then
      s.setSl { sl with rs := addSig sl.rs (((as.zip bytes).filter fun e => e.2.2 && !isWindow e.1.2).map fun e => granOf e.1) }
    else s, bytes.map (·.1))
/-- An image whose pages are translated: the wait for its bytes. Under `poll` it always ends DEADLINE; bytes on a dead or refusing peer end it as
they end `ldg`, with DETAIL 1 or 2 (log 88). -/
def State.dloadFrom (s : State) (t : Fin 16) (m : CgAddr) (as : List (Option Nat × Nat)) : State :=
  if m.ds != .poll && as.any fun a => (match a.1 with | some q => s.deadPeer s.curCtx q | none => false) then s.refuse 1
  else if m.ds != .poll && !s.late && (as.any fun a => a.1.isSome) && Config.peerRefuses s.tick then s.refuse 2
  else s.await (.dload t m) m.ds 0 (m.ds != .poll && !s.late)
    (fun s =>
      let (s, l) := s.readImage as
      let (first, last) := imageSpan l
      s.takeImage t (BitVec.ofNat 32 (leNat (l.take 4))) first last (l.drop 64)) State.endPlain
/-- `dload` (R75). A speculative task's load from a register window makes the transition first (R288). -/
def execDload (t : Fin 16) (m : CgAddr) (s : State) : Step :=
  let va := s.cgVa m &&& ~~~63#64
  let n := s.imageTail va
  .next (s.watched va (64 + n) true false fun s =>
    s.walked (.dload t m) m.ds [va, va + w64 (63 + n)] (fun s =>
      match s.imageRange va (64 + n) with
      | .error e => s.devFault e
      | .ok as =>
        let s := s.noteRange s.curCtx va (64 + n)
        if s.spec && (as.any fun a => a.1.isNone && isWindow a.2) then
          s.transition (.dload t m) m.ds (fun s => s.dloadFrom t m as) State.endPlain
        else s.dloadFrom t m as) State.endPlain)

/-- The selection of a bank by its handle (R76); a write of DICTH acts in the same way (R70). -/
def State.selectBank (s : State) (h : BitVec 32) : State :=
  let d := s.sl.dict
  if h != 0 && d.activeBank.handle == h then s.writeWs codeDone 0
  else if h != 0 && (d.bank !d.active).handle == h then
    (s.changeDict { d with active := !d.active }).writeWs codeDone 0
  else s.writeWs codeRefused h
def execDset (a : Fin 16) (s : State) : Step := .next (s.selectBank ((s.g a).setWidth 32)).complete
/-- `dfence`: units fetched after it decode with the store as it stands. -/
def execDfence (s : State) : Step := .next (s.setSl { s.sl with dictLag := [] }).complete

end Sys2Proof.Machine
end

