-- ==== Sys2Proof/Machine/SysRegs.lean ====
section
/-! DEFINITION. Control registers: `getc` and `setc` (R67, R281), with each register's own limits (R41, R42, R66, R70, R99, R117,
R121, R155 to R158, R211, R242, R252, R349). -/

namespace Sys2Proof.Machine

/-- Whether a number is assigned (R67). -/
def crAssigned (n : Nat) : Bool :=
  n ≤ 0x006 || (0x008 ≤ n && n ≤ 0x00E) || (0x010 ≤ n && n ≤ 0x013) || (0x018 ≤ n && n ≤ 0x01D) || (0x020 ≤ n && n ≤ 0x027)
    || (0x030 ≤ n && n ≤ 0x037) || n == 0x040 || n == 0x041
/-- BUFSZ as it reads (R99). -/
def Alloc.word (al : Alloc) : Word := w64 (al.base.toNat * 2 ^ 16 + al.size.toNat)
/-- SIZE after a write (R99). -/
def Alloc.narrow (al : Alloc) (v : Word) : Alloc :=
  let x := bitsOf v.toNat 0 16 / 64 * 64
  { al with size := BitVec.ofNat 16 (if x < 0x40 then 0x40 else min x al.max.toNat) }
/-- CPWPn (R211). -/
def Channel.cpwp (ch : Channel) : Word := w64 (ch.cseq.toNat * 2 ^ 32 + ch.doneb.toNat)

/-- The value of a control register, as it stands when the unit begins. -/
def State.crRead (s : State) (n : Nat) : Word :=
  let th := s.th
  let x := s.co
  match n with
  | 0x000 => s.instant
  | 0x001 => th.waitcap
  | 0x002 => zext64 th.lid
  | 0x003 => th.tstamp
  | 0x004 => zext64 th.rmode
  | 0x005 => zext64 th.fflags
  | 0x006 => zext64 th.priv
  | 0x008 => th.dla
  | 0x009 => th.dlb
  | 0x00A => th.ws
  | 0x00B => zext64 th.remain
  | 0x00C => zext64 th.stealdom
  | 0x00D => zext64 th.inldepth
  | 0x00E => zext64 s.sl.dict.activeBank.handle
  | 0x010 => th.bufW.word
  | 0x011 => th.bufA.word
  | 0x012 => th.bufC.word
  | 0x013 => Alloc.m.word
  | 0x018 => zext64 x.fmta
  | 0x019 => zext64 x.fmtb
  | 0x01A => zext64 x.fmtc
  | 0x01B => zext64 x.scla
  | 0x01C => zext64 x.sclb
  | 0x01D => zext64 x.qknob
  | 0x040 => s.descWord s.curCtx 5
  | 0x041 => zext64 (s.dieAt (dieOf s.curCore)).pool
  | _ =>
    if 0x020 ≤ n && n < 0x028 then (x.chans.get (Fin.ofNat 8 (n - 0x020))).cpwp
    else if 0x030 ≤ n && n < 0x034 then w64 (bitsOf x.tagen.toNat (64 * (n - 0x030)) 64)
    else if 0x034 ≤ n && n < 0x038 then w64 (bitsOf x.tagpend.toNat (64 * (n - 0x034)) 64)
    else 0

/-- A scale pointer without its reserved bits (R157). -/
def sclWrite (v : Word) : BitVec 32 := BitVec.ofNat 32 (bitsOf v.toNat 0 20 + bitsOf v.toNat 30 2 * 2 ^ 30)
/-- WAITCAP after a write (R242). -/
def State.capLimit (s : State) (v : Word) : Word :=
  if v.toNat < 1000 then 1000
  else if s.descWord s.curCtx 9 < v then s.descWord s.curCtx 9 else v
/-- A word of TAGEN replaced. -/
def tagWord (old : BitVec 256) (k : Nat) (v : Word) : BitVec 256 :=
  BitVec.ofNat 256 (old.toNat - bitsOf old.toNat (64 * k) 64 * 2 ^ (64 * k) + v.toNat * 2 ^ (64 * k))

/-- A control register written under its own limits; a read-only one is left unchanged. -/
def State.crWrite (s : State) (n : Nat) (v : Word) : State :=
  let th := s.th
  let x := s.co
  match n with
  | 0x001 => s.setTh { th with waitcap := s.capLimit v }
  | 0x004 => s.setTh { th with rmode := v.setWidth 2 }
  | 0x005 => s.setTh { th with fflags := v.setWidth 5 }
  | 0x008 => s.setTh { th with dla := v }
  | 0x009 => s.setTh { th with dlb := v }
  | 0x00A => s.setTh { th with ws := v &&& 0xFFFFFFFF000000FF#64 }
  | 0x00B => s.setTh { th with remain := if v.setWidth 32 < th.remain then v.setWidth 32 else th.remain }
  | 0x00C => s.setTh { th with stealdom := v.setWidth 2 }
  | 0x00D => s.setTh { th with inldepth := if 8 < bitsOf v.toNat 0 4 then 8 else v.setWidth 4 }
  | 0x00E => s.selectBank (v.setWidth 32)
  | 0x010 => s.setTh { th with bufW := th.bufW.narrow v }
  | 0x011 => s.setTh { th with bufA := th.bufA.narrow v }
  | 0x012 => s.setTh { th with bufC := th.bufC.narrow v }
  | 0x018 => s.setCo { x with fmta := v.setWidth 4 }
  | 0x019 => s.setCo { x with fmtb := v.setWidth 4 }
  | 0x01A => s.setCo { x with fmtc := v.setWidth 4 }
  | 0x01B => s.setCo { x with scla := sclWrite v }
  | 0x01C => s.setCo { x with sclb := sclWrite v }
  | 0x01D => s.setCo { x with qknob := v.setWidth 4 }
  | _ => if 0x030 ≤ n && n < 0x034 then s.setCo { x with tagen := tagWord x.tagen (n - 0x030) v } else s

/-- Whether the current level may reach a register (R281): ACTBASE needs supervisor level. -/
def State.crAllowed (s : State) (n : Nat) : Bool := n != 0x040 || s.th.priv != 0
/-- `getc`: an unassigned number is an illegal instruction, a level too low a privilege fault. -/
def execGetc (d : Fin 16) (n : BitVec 12) (s : State) : Step :=
  if !crAssigned n.toNat then .next (s.illegal 0)
  else if !s.crAllowed n.toNat then .next s.privFault
  else .next (s.writeG d (s.crRead n.toNat)).complete
/-- `setc`. -/
def execSetc (a : Fin 16) (n : BitVec 12) (s : State) : Step :=
  if !crAssigned n.toNat then .next (s.illegal 0)
  else if !s.crAllowed n.toNat then .next s.privFault
  else .next (s.crWrite n.toNat (s.g a)).complete

end Sys2Proof.Machine
end

