-- ==== Sys2Proof/Machine/Barriers.lean ====
section
/-! DEFINITION. Barrier objects and the barrier instructions (R220 to R227), engine arrivals and counts (R165, R213, R222), and the
barrier transfer of R354. -/

namespace Sys2Proof.Machine

/-! ## Objects and their places (R220, R222) -/

/-- The two words of a sync slot; an empty slot reads 0. -/
def State.syncWords (s : State) (c i : Nat) : Word × Word := (tget (s.coreAt c).sync i).getD (0, 0)
def State.setSync (s : State) (c i : Nat) (w : Word × Word) : State :=
  let x := s.coreAt c
  s.setCore c { x with sync := tset x.sync i w }
def kindOf (w0 : Word) : Nat := bitsOf w0.toNat 62 2

/-- The device object at a virtual address, as its proxy's SYS bit says it is reached (R221): its place, or KIND of the failure; one that is not
16-aligned fails with KIND 3. -/
def State.devObject (s : State) (ctx : Nat) (priv : BitVec 2) (va : Word) (need : Need) (sys : Bool) : Except Nat BarRef :=
  if va.toNat % 16 != 0 then .error 3
  else match s.translate ctx priv va need with
    | .error k => .error k
    | .ok (none, pa) => .ok (.dev pa sys)
    | .ok (some p, pa) => .ok (.peer p pa)
/-- The object itself, whichever way it is reached. -/
def BarRef.base : BarRef → BarRef
  | .dev pa _ => .dev pa false
  | r => r
/-- Whether two references name one object. -/
def BarRef.same (a b : BarRef) : Bool := a.base == b.base

/-- What resolving an object gives (R222). -/
inductive Resolved where
  | object (r : BarRef)
  | refused (detail : BitVec 32)
  | fault (kind : Nat) (va : Word)
  deriving DecidableEq, Repr

/-- A device object under its scope: `.dev` needs a local home (R222), refused with DETAIL 3 as an atomic is (R209, log 15), and a dead
link to its peer refuses with DETAIL 1 (log 15). -/
def State.devUnder (s : State) (sc : Scope) (va : Word) (need : Need) : Resolved :=
  match s.devObject s.curCtx s.th.priv va need (sc == .sys) with
  | .error k => .fault k va
  | .ok (.peer p pa) => if sc != .sys then .refused 3 else if s.deadPeer s.curCtx p then .refused 1 else .object (.peer p pa)
  | .ok r => .object r
/-- The object that an instruction other than `bar.init` uses (R222). A step is an atomic, which reads and writes; `bar.wait` only reads (R285). -/
def State.resolve (s : State) (o : CqAddr) (need : Need) : Resolved :=
  let i := s.cqSlot o
  let (w0, w1) := s.syncWords s.curCore i
  let kind := kindOf w0
  if kind = 1 && o.scope == .core then .object (.core s.curCore i)
  else if kind = 2 && o.scope == .clu then
    let k := clusterOf s.curCore
    let n := bitsOf w0.toNat 0 9
    match tget (s.clusterAt k).objs n with
    | some b => if b.ctx = s.curCtx then .object (.clu k n) else .refused 3
    | none => .refused 3
  else if kind = 3 && ((!w0.getLsbD 0 && o.scope == .dev) || (w0.getLsbD 0 && o.scope == .sys)) then s.devUnder o.scope w1 need
  else .refused 2

/-- What a look at an object does besides: a device object's cell is recalled to the place of the step (R192, log 105). -/
def State.sawObject (s : State) (r : BarRef) : State :=
  match r with
  | .dev pa port => s.placeCell (pa / 64) (barHome port)
  | _ => s
/-- The barrier at a place as a check sees it: a peer's words are the peer's (log 8). -/
def State.barSee (s : State) (r : BarRef) : Option BarV :=
  match r with
  | .peer p pa =>
    let w (a : Nat) : Word := w64 (leNat ((List.range 8).map fun i => Config.peerByte s.tick p (a + i)))
    barOf (w pa) (w (pa + 8))
  | _ => s.barRead r

/-! ## Transfer (R354) -/

/-- A transfer granted to a course for the next interval, where its conditions hold. -/
def State.grantTransfer (s : State) (k : Nat) : State :=
  let x := s.courseAt k
  let n := (s.dieAt (k / 128)).interval + 1
  let free := match x.lastTransfer with | some l => decide (l + 4 ≤ n) | none => true
  if x.level = 0 && !x.inFall && x.transferAt.isNone && free then s.setCourse k { x with transferAt := some n, lastTransfer := some n } else s
/-- A flip at a cluster object, whichever step made it: the unit records the core whose arrival was taken last, and grants a transfer where that
core was the last arriver at the flip before too and two other arrivals of the phase have waited 5 µs. -/
def State.noteFlip (s : State) (k i : Nat) : State :=
  match tget (s.clusterAt k).objs i with
  | none => s
  | some o =>
    let last := o.arrivals.getLast?.map (·.1)
    let x := s.clusterAt k
    let s' := s.setCluster k { x with objs := tset x.objs i { o with arrivals := [], last := last } }
    let waited := (o.arrivals.dropLast.filter fun a => decide (a.2.2.toNat + 5000 ≤ s.instant.toNat)).length
    match last with
    | some c => if o.last == some c && decide (2 ≤ waited) then s'.grantTransfer (courseOf c) else s'
    | none => s'
/-- What a step at a cluster object is recorded as: an arrival of a core's slot, and a flip. -/
def State.noteStep (s : State) (r : BarRef) (arrival : Option (Nat × Fin 4)) (before after : BarV) : State :=
  match r with
  | .clu k i =>
    let x := s.clusterAt k
    let s := match tget x.objs i, arrival with
      | some o, some a => s.setCluster k { x with objs := tset x.objs i { o with arrivals := o.arrivals ++ [(a.1, a.2, s.instant)] } }
      | _, _ => s
    if before.phase = after.phase then s else s.noteFlip k i
  | _ => s
/-- The arrivals of a phase forgotten. -/
def State.clearArrivals (s : State) (r : BarRef) : State :=
  match r with
  | .clu k i =>
    let x := s.clusterAt k
    (match tget x.objs i with
      | some o => s.setCluster k { x with objs := tset x.objs i { o with arrivals := [] } }
      | none => s)
  | _ => s

/-! ## Collective members that an abort or an initialisation ends (R229) -/

/-- The completion of a collective member: SKIND 1, LEN 48, FLAGS at payload byte 0x28 (R170, R229). Its operation leaves the engine. A peer's
member is told the end and the result. -/
def State.completeMember (s : State) (m : CollMember) (cstat : BitVec 8) (flags : BitVec 5) (result : List Byte) : State :=
  match m.chip with
  | some chip => { s with sent := s.sent ++ [.memberDone chip m.rank cstat flags result] }
  | none =>
  let c := m.who.core
  let s := (s.dropLocks [m.lock]).raise (clusterOf c) m.who.ctx flags
  if m.nte then
    s.postCompletion c m.who (mkMsg m.ctag 48 (s.logOf c) s.chip m.who.lid 1 cstat (flags.toNat * 2 ^ 320)) none none
  else s.liveDown m.who.ctx m.who.lid
/-- Every accepted member at an object completes with CSTAT 3. -/
def State.abortColl (s : State) (r : BarRef) : State :=
  let gone := s.colls.filter fun g => g.obj.same r
  let s := { s with colls := s.colls.filter fun g => !g.obj.same r }
  gone.foldl (fun s g => g.members.foldl (fun s m => s.completeMember m 3 0 []) s) s

/-! ## Steps at an object (R221, R223, R224, R226, R227) -/

/-- A step that changes the barrier at a place, as an arrival of a core's slot or otherwise; none where the object is no barrier. The barrier
before and after. -/
def State.changeAt (s : State) (r : BarRef) (arrival : Option (Nat × Fin 4)) (f : BarV → BarV) : Option (State × BarV × BarV) :=
  match s.barRead r with
  | none => none
  | some b => some ((s.barWrite r (f b)).noteStep r arrival b (f b), b, f b)
/-- An arrival. -/
def State.arriveAt (s : State) (r : BarRef) (c : Nat) (t : Fin 4) : Option (State × BarV × BarV) := s.changeAt r (some (c, t)) BarV.arrive
/-- Bytes counted by an engine. -/
def State.gainAt (s : State) (r : BarRef) (n : Nat) : Option (State × BarV × BarV) := s.changeAt r none fun b => b.gain n
/-- `bar.expect`'s step. -/
def State.expectAt (s : State) (r : BarRef) (bytes : BitVec 32) : Option (State × BarV × BarV) := s.changeAt r none fun b => b.expect bytes
/-- `bar.abort`'s step. -/
def State.abortAt (s : State) (r : BarRef) : Option (State × BarV × BarV) :=
  match s.barRead r with
  | none => none
  | some b => some (((s.barWrite r b.abort).clearArrivals r).abortColl r, b, b.abort)
/-- An arrival, and in the same step its withdrawal where it has not flipped the phase (R226, `poll`): the barrier before and after the arrival. -/
def State.tryAt (s : State) (r : BarRef) (c : Nat) (t : Fin 4) : Option (State × BarV × BarV) :=
  (s.arriveAt r c t).map fun (s', b, b') =>
    (if b'.phase = b.phase then ((s'.withdrawAt r b.phase c t).map (·.1)).getD s' else s', b, b')
/-- A fresh barrier over what stood there (R223). -/
def initBar (old : Option BarV) (count : BitVec 16) : BarV :=
  match old with
  | some b => ⟨true, b.phase + 1, 0, count, 0, 0⟩
  | none => ⟨false, 0, 0, count, 0, 0⟩
/-- Whether a slot waits on an object in `bar.wait`, or in a `bar.sync` that has arrived. -/
def Slot.awaits (sl : Slot) (r : BarRef) : Bool :=
  match sl.syncObject, sl.wait with
  | some q, _ => q.same r
  | none, some w => (match w.instr with | .barWait .. => w.obj.any fun q => q.same r | _ => false)
  | none, none => false
/-- A slot's wait on an object ended by a `bar.init` (R223), which leaves PHASE there: a `bar.wait`, or a `bar.sync` that has arrived. One whose
withdrawal is on its way has nothing to withdraw any more. DETAIL is that PHASE (log 108). -/
def Slot.initEnds (sl : Slot) (r : BarRef) (phase : BitVec 16) : Slot :=
  let sl : Slot := { sl with orphans := sl.orphans.filter fun o => match o.2 with | .withdraw q (some _) _ => !q.same r | _ => true }
  if sl.awaits r then { sl with wait := sl.wait.map fun w => { w with ended := some phase } }
  else match sl.remote with
    | some ⟨.withdraw q (some p) code, none⟩ =>
      if q.same r then { sl with remote := some ⟨.withdraw q (some p) code, some ⟨p.setWidth 64, codeAborted, phase.setWidth 32⟩⟩ } else sl
    | _ => sl
/-- Every wait on an object ended by a `bar.init`. -/
def State.endWaits (s : State) (r : BarRef) (phase : BitVec 16) : State :=
  { s with cores := s.cores.map fun e => (e.1, { e.2 with slots := e.2.slots.map fun sl => sl.initEnds r phase }) }
/-- `bar.init`'s step at the object: every wait on it ends. -/
def State.initAt (s : State) (r : BarRef) (count : BitVec 16) (ctx : Nat) : State × BarV :=
  let b := initBar (s.barRead r) count
  let s := (s.abortColl r).endWaits r b.phase
  match r with
  | .core c i => (s.setSync c i (b.w0, b.w1), b)
  | .clu k i =>
    let x := s.clusterAt k
    (s.setCluster k { x with objs := tset x.objs i ⟨b.w0, b.w1, ctx, [], none⟩ }, b)
  | _ => (s.barWrite r b, b)

/-! ## The step of a request at its object -/

/-- Whether the release precondition of an arrival holds (R221): every store-path entry of the thread for this chip is applied, and an arrival at
a peer leaves behind the thread's earlier entries to that peer. -/
def State.released (s : State) (owner : Nat) (r : BarRef) : Bool :=
  let away := match r with | .peer p _ => some p | _ => none
  s.op.all fun e => !(e.owner == owner && (e.gran.peer.isNone || (away.isSome && s.sameChip e.ctx e.gran.peer away)))
/-- The answer of a step that changed a barrier: PHASE before in `value`, PHASE after in `detail`. -/
def stepAns (before after : BarV) : RemoteAns := ⟨before.phase.setWidth 64, codeDone, after.phase.setWidth 32⟩
/-- The object is no barrier (R222). -/
def noBarrier : RemoteAns := ⟨0, codeRefused, 4⟩
/-- What a withdrawal answers (R226): WITHDRAWN with DETAIL 1 or 2 where the arrival was taken back, else DONE or ABORTED. -/
def withdrawAns (p : BitVec 16) (code : BitVec 8) (b : BarV) : RemoteAns :=
  if b.phase = p then ⟨p.setWidth 64, codeWithdrawn, if code = codeCap then 2 else 1⟩
  else ⟨p.setWidth 64, if b.abrt then codeAborted else codeDone, b.phase.setWidth 32⟩
/-- One request taken at an object of this chip: the state, and either its answer or the request that follows it. -/
def State.takeStep (s : State) (core : Nat) (slot : Fin 4) (ctx : Nat) (req : RemoteReq) : State × (RemoteAns ⊕ RemoteReq) :=
  let ans (o : Option (State × BarV × BarV)) : State × (RemoteAns ⊕ RemoteReq) :=
    match o with
    | some (s', b, b') => (s', .inl (stepAns b b'))
    | none => (s, .inl noBarrier)
  match req with
  | .barInit r count => let (s', b) := s.initAt r count ctx; (s', .inl (stepAns b b))
  | .barExpect r bytes => ans (s.expectAt r bytes)
  | .barArrive r => ans (s.arriveAt r core slot)
  | .barAbort r => ans (s.abortAt r)
  | .withdraw r (some p) code =>
    (match s.withdrawAt r p core slot with
      | some (s', b, _) => (s', .inl (withdrawAns p code b))
      | none => (s, .inl noBarrier))
  | .withdraw r none code =>
    (match s.arriveAt r core slot with
      | some (s', b, _) => (s', .inr (.withdraw r (some b.phase) code))
      | none => (s, .inl noBarrier))
  | .trySync r code =>
    (match s.tryAt r core slot with
      | some (s', b, b') => (s', .inl (withdrawAns b.phase code b'))
      | none => (s, .inl noBarrier))
  | r => (s, .inr r)
/-- The object of a request, and whether the step is an arrival that needs its release precondition. -/
def RemoteReq.obj : RemoteReq → Option (BarRef × Bool)
  | .barInit r _ => some (r, false)
  | .barExpect r _ => some (r, false)
  | .barArrive r => some (r, true)
  | .barAbort r => some (r, false)
  | .withdraw r none _ => some (r, true)
  | .withdraw r (some _) _ => some (r, false)
  | .trySync r _ => some (r, true)
  | _ => none
/-- The link-queue form of a request to a peer (R221): kind and argument. -/
def RemoteReq.onLink : RemoteReq → Option (Fin 5 × Nat × Nat)
  | .barArrive (.peer _ pa) => some (0, pa, 0)
  | .withdraw (.peer _ pa) none _ => some (0, pa, 0)
  | .barAbort (.peer _ pa) => some (1, pa, 0)
  | .barExpect (.peer _ pa) n => some (2, pa, n.toNat)
  | .withdraw (.peer _ pa) (some p) _ => some (3, pa, p.toNat)
  | .trySync (.peer _ pa) _ => some (3, pa, 2 ^ 16)
  | .barInit (.peer _ pa) n => some (2, pa, 2 ^ 32 + n.toNat)
  | _ => none

/-! ## Instructions -/

/-- The request leaves and the unit waits for its answer. -/
def State.request (s : State) (i : Instr) (ds : Sel) (req : RemoteReq) (ended : BitVec 8 → State → State) : State :=
  let s := s.setSl { s.sl with remote := some ⟨req, none⟩ }
  s.holdWait { s.waitOf i ds with stage := 1, obj := req.obj.map (·.1) } ended
/-- A request whose wait has ended is still taken (R223, R224, R227). -/
def State.orphanReq (s : State) : State :=
  let sl := s.sl
  match sl.remote with
  | some ⟨req, none⟩ => s.setSl { sl with orphans := sl.orphans ++ [(s.curTask, req)], remote := none }
  | _ => s
/-- The ending of a barrier wait other than those of `bar.wait` and `bar.sync`: DETAIL 1 once the request has left. -/
def endBar (code : BitVec 8) (s : State) : State :=
  let sent := s.sl.remote.isSome
  s.orphanReq.endWith code (if sent then 1 else 0)
/-- A step whose answer the unit has, or the request for it; `done` completes the unit. -/
def State.barStep (s : State) (i : Instr) (ds : Sel) (done : RemoteAns → State → State) (start : State → State) : State :=
  match s.sl.remote with
  | some ⟨_, some a⟩ => if a.code = codeDone then done a s else s.refuse a.detail
  | some ⟨_, none⟩ => s.holdWait { s.waitOf i ds with stage := 1 } endBar
  | none => start s
/-- The address of a device object, where an instruction translates one. -/
def State.objectVa (s : State) (o : CqAddr) : Option Word :=
  let (w0, w1) := s.syncWords s.curCore (s.cqSlot o)
  if kindOf w0 = 3 && w1.toNat % 16 = 0 && (if w0.getLsbD 0 then o.scope == .sys else o.scope == .dev) then some w1 else none
/-- What a device address translated for an object does besides, and the miss that it may wait for (R286). -/
def State.walkObject (s : State) (i : Instr) (ds : Sel) (va : Option Word) (go : State → State) (ended : BitVec 8 → State → State) : State :=
  match va with
  | some va => s.walked i ds [va] go ended
  | none => go s
/-- The translation of an object's address remembered. -/
def State.noteObject (s : State) (va : Option Word) : State :=
  match va with
  | some va => s.noteTlb s.curCtx va
  | none => s
/-- An object resolved, with refusals and faults at issue; a translation miss is part of the wait (R286). -/
def State.onObject (s : State) (i : Instr) (o : CqAddr) (need : Need) (ended : BitVec 8 → State → State) (go : BarRef → State → State) : State :=
  let va := s.objectVa o
  s.walkObject i o.ds va (fun s => match s.resolve o need with
    | .object r => go r (s.noteObject va)
    | .refused d => (s.noteObject va).refuse d
    | .fault k va => s.devFault (k, va)) ended
/-- The ends of `bar.expect` and `bar.arrive`: RT takes PHASE before the step, DETAIL PHASE after it. -/
def barDone (t : Fin 16) (a : RemoteAns) (s : State) : State := (s.writeG t a.value).endWith codeDone a.detail
/-- The end of `bar.init` and `bar.abort`. -/
def barDone0 (a : RemoteAns) (s : State) : State := s.endWith codeDone a.detail
/-- A request taken at once at the core's own object. -/
def State.stepNow (s : State) (req : RemoteReq) (done : RemoteAns → State → State) : State :=
  match s.takeStep s.curCore s.curSlot s.curCtx req with
  | (s', .inl a) => if a.code = codeDone then done a s' else s'.refuse a.detail
  | (s', .inr _) => s'

/-- `bar.init` (R223). The proxy is written when the step leaves, or at once with ATTACH. -/
def execBarInit (t : Fin 16) (o : CqAddr) (count : BitVec 16) (attach : Bool) (s : State) : Step :=
  let i := Instr.barInit t o count attach
  let n := s.cqSlot o
  let x := s.g t
  .next (match o.scope with
    | .core => s.stepNow (.barInit (.core s.curCore n) count) barDone0
    | .clu =>
      if !attach && s.th.priv == 0 then s.privFault
      else
        let idx := bitsOf x.toNat 0 9
        let proxy : Word × Word := (w64 (2 ^ 63 + idx), 0)
        if attach then (s.setSync s.curCore n proxy).endWith codeDone 0
        else s.barStep i o.ds barDone0 fun s => s.transition i o.ds
          (fun s => (s.setSync s.curCore n proxy).request i o.ds (.barInit (.clu (clusterOf s.curCore) idx) count) endBar) endBar
    | sc =>
      let proxy : Word × Word := (w64 (2 ^ 63 + 2 ^ 62 + (if sc == .sys then 1 else 0)), x)
      let va := if x.toNat % 16 = 0 then some x else none
      s.barStep i o.ds barDone0 fun s => s.walkObject i o.ds va (fun s =>
        match s.devUnder sc x needRW with
        | .fault k va => s.devFault (k, va)
        | .refused d => (s.noteObject va).refuse d
        | .object r =>
          let s := s.noteObject va
          if attach then (s.setSync s.curCore n proxy).endWith codeDone 0
          else s.transition i o.ds (fun s => (s.setSync s.curCore n proxy).request i o.ds (.barInit r count) endBar) endBar) endBar)
/-- `bar.expect` (R223). -/
def execBarExpect (t : Fin 16) (o : CqAddr) (bytes : BitVec 32) (s : State) : Step :=
  let i := Instr.barExpect t o bytes
  .next (s.barStep i o.ds (barDone t) fun s => s.onObject i o needRW endBar fun r s =>
    if o.scope == .core then s.stepNow (.barExpect r bytes) (barDone t)
    else s.transition i o.ds (fun s => s.request i o.ds (.barExpect r bytes) endBar) endBar)
/-- `bar.arrive` (R224): a `.core` arrival with nothing left in the store path is taken at once. -/
def execBarArrive (t : Fin 16) (o : CqAddr) (s : State) : Step :=
  let i := Instr.barArrive t o
  .next (s.barStep i o.ds (barDone t) fun s => s.onObject i o needRW endBar fun r s =>
    if o.scope == .core then
      (if s.released s.curTask r then s.stepNow (.barArrive r) (barDone t) else s.request i o.ds (.barArrive r) endBar)
    else s.transition i o.ds (fun s => s.request i o.ds (.barArrive r) endBar) endBar)
/-- `bar.abort` (R227). -/
def execBarAbort (o : CqAddr) (s : State) : Step :=
  let i := Instr.barAbort o
  .next (s.barStep i o.ds barDone0 fun s => s.onObject i o needRW endBar fun r s =>
    if o.scope == .core then s.stepNow (.barAbort r) barDone0
    else s.transition i o.ds (fun s => s.request i o.ds (.barAbort r) endBar) endBar)

/-- The end of a wait whose phase has changed (R225). -/
def State.phaseEnd (s : State) (b : BarV) : State := s.endWith (if b.abrt then codeAborted else codeDone) (b.phase.setWidth 32)
/-- The object a wait was begun on, while its wait runs. -/
def State.waitObj (s : State) : Option BarRef := s.sl.wait.bind (·.obj)
/-- The phase that a `bar.wait` holds. -/
def State.heldPhase (s : State) (t : Fin 16) : BitVec 16 := (s.g t).setWidth 16
/-- PHASE where a `bar.init` has ended the current unit's wait (R223). -/
def State.initEnded (s : State) : Option (BitVec 16) := s.sl.wait.bind fun w => w.ended
/-- The end of a wait that a `bar.init` has ended (R223, R225). -/
def State.initEnd (s : State) (phase : BitVec 16) : State := s.endWith codeAborted (phase.setWidth 32)
/-- The ending of `bar.wait` by its deadline: DETAIL is PHASE; a phase that has changed by then has ended the wait (R225). -/
def endBarWait (t : Fin 16) (code : BitVec 8) (s : State) : State :=
  match s.waitObj with
  | some r => match s.barSee r with
    | some b => if b.phase != s.heldPhase t then s.phaseEnd b else s.endWith code (b.phase.setWidth 32)
    | none => s.refuse 4
  | none => s.endWith code 0
/-- One check of `bar.wait`'s condition against the phase held. A wait whose object is no barrier any more ends REFUSED with DETAIL 4, which
R222 says of device objects; that the sync slot of a `.core` wait, made a proxy by a `bar.init` of another scope, ends it so too is the model's
choice (log 109). -/
def State.checkWait (s : State) (t : Fin 16) (o : CqAddr) (r : BarRef) : State :=
  let s := s.sawObject r
  match s.barSee r with
  | none => s.refuse 4
  | some b =>
    if b.phase != s.heldPhase t then (s.beginWait (.barWait t o) o.ds).phaseEnd b
    else s.holdWait { s.waitOf (.barWait t o) o.ds with obj := some r } (endBarWait t)
/-- `bar.wait` (R225): it never makes the transition. -/
def execBarWait (t : Fin 16) (o : CqAddr) (s : State) : Step :=
  .next (match s.initEnded, s.waitObj with
    | some p, _ => s.initEnd p
    | none, some r => s.checkWait t o r
    | none, none => s.onObject (.barWait t o) o needR (endBarWait t) fun r s => s.checkWait t o r)

/-- The end of `bar.sync` as its withdrawal answers: a CAP ending, and no other, reports its wait (R226, R245). -/
def syncEnd (t : Fin 16) (a : RemoteAns) (s : State) : State :=
  let s := if a.code = codeWithdrawn && a.detail == 2 then s.reportCap else s
  (s.writeG t a.value).endWith a.code a.detail
/-- Whether the current task's arrival at a peer's object is on its way in a link queue. -/
def State.arrivalSent (s : State) (r : BarRef) : Bool :=
  match r with
  | .peer p pa => s.lq.any fun e => e.owner == s.curTask && e.peer == p && e.body == .barrier 0 pa 0
  | _ => false
/-- The ending of `bar.sync` (R226): a withdrawal step follows its arrival. At the core's own object, with the arrival taken, it is taken
at once; elsewhere the unit completes when the reply of the withdrawal returns. Under `poll`, and wherever the deadline had passed when the unit
began, the arrival that has not left takes its withdrawal with it as one step. Before its arrival has left it ends as every wait does. -/
def endBarSync (t : Fin 16) (code : BitVec 8) (s : State) : State :=
  let leave (req : RemoteReq) : State :=
    let sl := s.sl
    s.setSl { sl with remote := some ⟨req, none⟩, wait := sl.wait.map fun w => { w with stage := 3 } }
  match s.sl.remote, s.sl.wait with
  | some ⟨.barArrive (.core c n), some a⟩, _ =>
    (match s.withdrawAt (.core c n) (a.value.setWidth 16) c s.curSlot with
      | some (s', b, _) => syncEnd t (withdrawAns (a.value.setWidth 16) code b) s'
      | none => s.refuse 4)
  | some ⟨.barArrive r, some a⟩, _ => leave (.withdraw r (some (a.value.setWidth 16)) code)
  | some ⟨.barArrive r, none⟩, some w => leave (if w.due ≤ w.t0 && !s.arrivalSent r then .trySync r code else .withdraw r none code)
  | some _, _ => s
  | none, _ => (if code = codeCap then s.reportCap else s).endWith code 0
/-- The arrival's answer has come: the wait goes on against the previous phase. -/
def State.syncOn (s : State) (i : Instr) (t : Fin 16) (ds : Sel) (r : BarRef) (a : RemoteAns) : State :=
  let p : BitVec 16 := a.value.setWidth 16
  let s := s.sawObject r
  match s.barSee r with
  | none => s.refuse 4
  | some b =>
    if b.phase != p then ((s.beginWait i ds).writeG t a.value).phaseEnd b
    else s.holdWait { s.waitOf i ds with stage := 2, data := a.value, obj := some r } (endBarSync t)
/-- `bar.sync` (R226). -/
def execBarSync (t : Fin 16) (o : CqAddr) (s : State) : Step :=
  let i := Instr.barSync t o
  .next (match s.sl.remote with
    | some ⟨.barArrive r, some a⟩ =>
      if a.code != codeDone then s.refuse a.detail
      else match s.initEnded with
        | some p => (s.writeG t a.value).initEnd p
        | none => s.syncOn i t o.ds r a
    | some ⟨.barArrive r, none⟩ => s.holdWait { s.waitOf i o.ds with stage := 1, obj := some r } (endBarSync t)
    | some ⟨_, some a⟩ => if a.code = codeRefused then s.refuse a.detail else syncEnd t a s
    | some ⟨_, none⟩ => s
    | none => s.onObject i o needRW (endBarSync t) fun r s =>
        if o.scope == .core then
          (if s.released s.curTask r then
            match s.arriveAt r s.curCore s.curSlot with
            | some (s', b, b') =>
              let a := stepAns b b'
              let s' := s'.setSl { s'.sl with remote := some ⟨.barArrive r, some a⟩ }
              s'.syncOn i t o.ds r a
            | none => s.refuse 4
          else s.request i o.ds (.barArrive r) (endBarSync t))
        else s.transition i o.ds (fun s => s.request i o.ds (.barArrive r) (endBarSync t)) (endBarSync t))

/-! ## Engines (R165, R213, R222) -/

/-- The object at BOFF by the slot's KIND alone; none where the arrival or count is discarded: R222's cases, and a device proxy whose VA fails
translation or alignment when the step is taken, for which the spec gives no outcome (log 110). -/
def State.engineRef (s : State) (who : Issuer) (boff : BitVec 9) : Option BarRef :=
  let i := boffSlot boff
  let (w0, w1) := s.syncWords who.core i
  match kindOf w0 with
  | 1 => some (.core who.core i)
  | 2 =>
    let n := bitsOf w0.toNat 0 9
    (match tget (s.clusterAt (clusterOf who.core)).objs n with
      | some b => if b.ctx = who.ctx then some (.clu (clusterOf who.core) n) else none
      | none => none)
  | 3 => (match s.devObject who.ctx who.priv w1 needRW (w0.getLsbD 0) with | .ok r => some r | .error _ => none)
  | _ => none
/-- The address of the device object that BOFF names. -/
def State.engineVa (s : State) (who : Issuer) (boff : BitVec 9) : Option Word :=
  let (w0, w1) := s.syncWords who.core (boffSlot boff)
  if kindOf w0 = 3 && w1.toNat % 16 = 0 then some w1 else none
/-- What an engine's look for its object does besides: a device proxy's address is translated. -/
def State.noteEngine (s : State) (who : Issuer) (boff : BitVec 9) : State :=
  match s.engineVa who boff with
  | some va => s.noteTlb who.ctx va
  | none => s
/-- An engine's step at a peer's object: a packet on its way, and whether the object holds a barrier there, as the peer answers (log 8). -/
def State.engineAway (s : State) (ctx p pa : Nat) (b : LqBody) : State × Bool :=
  ({ s with sent := s.sent ++ [.item ctx p b] }, (s.barSee (.peer p pa)).isSome)
/-- An engine's arrival; false where it was discarded. -/
def State.engineArrive (s : State) (who : Issuer) (boff : BitVec 9) : State × Bool :=
  let ref := s.engineRef who boff
  let s := s.noteEngine who boff
  match ref with
  | some (.peer p pa) => s.engineAway who.ctx p pa (.barrier 0 pa 0)
  | some r => (match s.arriveAt r who.core who.slot with | some (s', _, _) => (s', true) | none => (s, false))
  | none => (s, false)
/-- An engine's byte count; false where it was discarded. -/
def State.engineCount (s : State) (who : Issuer) (boff : BitVec 9) (n : Nat) : State × Bool :=
  let ref := s.engineRef who boff
  let s := s.noteEngine who boff
  match ref with
  | some (.peer p pa) => s.engineAway who.ctx p pa (.barrier 4 pa n)
  | some r => (match s.gainAt r n with | some (s', _, _) => (s', true) | none => (s, false))
  | none => (s, false)

end Sys2Proof.Machine
end

