-- ==== Sys2Proof/Machine/Copies.lean ====
section
/-! DEFINITION. Copy channels (R211 to R219): acceptance, the gate of `cp.rot`, and the steps that deliver, complete and fault a copy. -/

namespace Sys2Proof.Machine

/-! ## Locks and places of engine operations (R169) -/

/-- A range of a core's buffers locked for an operation. -/
def State.lockCore (s : State) (c : Nat) (buf : EndKind) (isC loads : Bool) (segs : List (Nat × Nat)) (op : Nat) : State :=
  if segs.isEmpty then s
  else
    let x := s.coreAt c
    s.setCore c { x with locks := x.locks ++ [Lock.mk x.nextLock buf isC segs loads op], nextLock := x.nextLock + 1 }
/-- A range of a cluster's array buffer locked for an operation. -/
def State.lockArray (s : State) (k : Nat) (segs : List (Nat × Nat)) (op : Nat) : State :=
  if segs.isEmpty then s
  else
    let x := s.clusterAt k
    s.setCluster k { x with locks := x.locks ++ [Lock.mk x.nextLock .arr false segs false op], nextLock := x.nextLock + 1 }
/-- The size of an array buffer (R15). -/
def arrSize : Nat := 0x100000
/-- The segments of an array-buffer range, modulo its size. -/
def arrSegs (off n : Nat) : List (Nat × Nat) :=
  let o := off % arrSize
  if n = 0 then []
  else if arrSize ≤ n then [(0, arrSize)]
  else if o + n ≤ arrSize then [(o, n)] else [(o, arrSize - o), (0, o + n - arrSize)]
/-- `OPERAND_RANGE_READ` (R169): a locked range has been read, and its lock goes. The lock of an accumulator tile stays to its operation's
end. -/
def execRangeRead (p : LockPlace) (s : State) : Step :=
  match p with
  | .core c n =>
    let x := s.coreAt c
    .next (s.setCore c { x with locks := x.locks.filter fun l => !(l.id == n && !l.loads) })
  | .cluster k n =>
    let x := s.clusterAt k
    .next (s.setCluster k { x with locks := x.locks.filter fun l => l.id != n })

/-! ## Acceptance (R212 to R214) -/

/-- The greatest length of a copy (R212). -/
def copyMax : Nat := 0x1000000
/-- A copy about to be accepted: its endpoints, the source ranges to lock, and the first page of each device endpoint. -/
structure CopyPlan where
  dst : CopyDst
  src : CopySrc
  len : Nat
  lockW : List (Nat × Nat)
  lockA : List (Nat × Nat)
  lockArr : List (Nat × Nat)
  pages : List (Word × Need)
  deriving DecidableEq, Repr

/-- The first page of a range. An empty range has none: that a copy of length 0 translates nothing is the model's choice (log 112). -/
def firstPage (va : Word) (len : Nat) (n : Need) : List (Word × Need) := if len = 0 then [] else [(va, n)]
/-- A plain source endpoint (R212) added to a plan: a buffer source is taken as it stands now. -/
def State.planSrc (s : State) (pl : CopyPlan) (k : EndKind) (v : Word) : CopyPlan :=
  let x := s.co
  match k with
  | .dev => { pl with src := .dev v, pages := pl.pages ++ firstPage v pl.len needR }
  | .w => { pl with src := .buf x.bufW s.th.bufW (bufSize .w) v.toNat, lockW := physSegs s.th.bufW v.toNat pl.len }
  | .a => { pl with src := .buf x.bufA s.th.bufA (bufSize .a) v.toNat, lockA := physSegs s.th.bufA v.toNat pl.len }
  | .arr => { pl with src := .arr (s.clusterAt (clusterOf s.curCore)).array v.toNat, lockArr := arrSegs v.toNat pl.len }
/-- A plain destination endpoint (R212). -/
def State.planDst (s : State) (pl : CopyPlan) (k : EndKind) (v : Word) : CopyPlan :=
  match k with
  | .dev => { pl with dst := .dev v, pages := pl.pages ++ firstPage v pl.len needW }
  | .w => { pl with dst := .buf .w s.th.bufW v.toNat }
  | .a => { pl with dst := .buf .a s.th.bufA v.toNat }
  | .arr => { pl with dst := .arr v.toNat }
def emptyPlan (len : Nat) : CopyPlan := ⟨.arr 0, .arr [] 0, len, [], [], [], []⟩
/-- The destination operand of `cp` and `cp.gath`: a register, or DDISP × 64. -/
def State.copyDstOp (s : State) (f : CopyFields) : Word := if f.nd then w64 (f.ddisp.toNat * 64) else s.g f.rd
/-- The length operand: a register, or LENI × 64. -/
def State.copyLen (s : State) (f : CopyFields) : Nat := if f.nl then f.leni.toNat * 64 else (s.g f.rl).toNat

/-- The first page that does not translate. -/
def State.pageFault (s : State) (ctx : Nat) (priv : BitVec 2) : List (Word × Need) → Option (Nat × Word)
  | [] => none
  | (va, n) :: r => match s.translate ctx priv va n with | .error k => some (k, va) | .ok _ => s.pageFault ctx priv r
/-- Acceptance with a place free on the channel: the first pages translate, source ranges are locked, and ws holds CSEQ. -/
def State.acceptCopy (s : State) (f : CopyFields) (pl : CopyPlan) : State :=
  match s.pageFault s.curCtx s.th.priv pl.pages with
  | some e => s.devFault e
  | none =>
    let s := pl.pages.foldl (fun s p => s.noteTlb s.curCtx p.1) s
    let (s, op) := s.fresh
    let who := s.issuer
    let s := s.lockCore s.curCore .w false false pl.lockW op
    let s := s.lockCore s.curCore .a false false pl.lockA op
    let s := s.lockArray (clusterOf s.curCore) pl.lockArr op
    let x := s.co
    let ch := x.chans.get f.ch
    let n := ch.accepted + 1
    let cp : Copy :=
      { cseq := n, src := pl.src, dst := pl.dst, len := pl.len, done := 0, who := who
        bound := if f.bnd then some f.boff else none, nte := f.nte, ctag := f.ctag
        after := (s.op.filter fun e => e.owner == who.tid).map fun e => e.ft
        park := none, failed := false, lost := false, started := false, lock := op }
    let ch' := Channel.start { ch with accepted := n, queue := ch.queue ++ [cp] }
    ((s.setCo { x with chans := x.chans.set f.ch.val ch' f.ch.isLt }).liveUp who.ctx who.lid).endWith codeDone n
/-- The wait for a free place on the channel (R211: one copy delivering and three queued) and for the walks of the first pages (R286), then
acceptance. -/
def State.awaitChannel (s : State) (i : Instr) (f : CopyFields) (stage : Nat) (plan : State → CopyPlan) : State :=
  s.await i f.ds stage (decide ((s.co.chans.get f.ch).queue.length < 4) && !s.missing ((plan s).pages.map (·.1)))
    (fun s => s.acceptCopy f (plan s)) State.endPlain
/-- The first steps of R213: the transition where the copy's writes need it, then the operand checks, then the channel. -/
def State.startCopy (s : State) (i : Instr) (f : CopyFields) (direct : Bool) (refusal : Option (BitVec 32))
    (plan : State → CopyPlan) : State :=
  let go (s : State) : State := match refusal with
    | some d => s.refuse d
    | none => s.awaitChannel i f 1 plan
  if direct then s.transition i f.ds go State.endPlain else go s
/-- Whether a plain destination asks for the transition: device memory, or a resident block (R213). -/
def State.copyDirect (s : State) (k : EndKind) (v : Word) (len : Nat) : Bool :=
  match k with
  | .dev => true
  | .w => s.engineHits .w s.th.bufW v.toNat len
  | .a => s.engineHits .a s.th.bufA v.toNat len
  | .arr => false

/-- `cp` (R215). -/
def execCp (f : CopyFields) (s : State) : Step :=
  let len := s.copyLen f
  let v := s.copyDstOp f
  .next (s.startCopy (.cp f) f (s.copyDirect f.dk v (min len copyMax)) (if copyMax < len then some 3 else none) fun s =>
    s.planSrc (s.planDst (emptyPlan len) f.dk v) f.sk (s.g f.rs))

/-- The target cores of `cp.deal`, or none where one is invalid or lies on another die (R214, R216). -/
def State.dealCores (s : State) (first n : Nat) : Option (List Nat) :=
  (List.range n).foldr (fun i (acc : Option (List Nat)) =>
    match acc with
    | none => none
    | some l =>
      if 8192 ≤ first + i then none
      else match s.targetCore s.curCtx (BitVec.ofNat 13 (first + i)) with
        | some c => if dieOf c = dieOf s.curCore then some (c :: l) else none
        | none => none) (some [])
/-- `cp.deal` (R216). -/
def execCpDeal (f : CopyFields) (s : State) : Step :=
  let pat := (s.g f.rd).toNat
  let len := s.copyLen f
  let blk := bitsOf pat 19 4
  let cores := s.dealCores (bitsOf pat 0 13) (bitsOf pat 13 6 + 1)
  let refusal : Option (BitVec 32) :=
    if copyMax < len then some 3
    else if cores.isNone then some 4
    else if 8 < blk then some 5
    else if !(f.dk == .w || f.dk == .a) || f.sk != .dev then some 6
    else none
  let seen := (List.range (bitsOf pat 13 6 + 1)).foldl (fun s i => s.sawCore s.curCtx (BitVec.ofNat 13 (bitsOf pat 0 13 + i))) s
  .next (seen.startCopy (.cpDeal f) f true refusal fun s =>
    let pl := s.planSrc (emptyPlan len) .dev (s.g f.rs)
    { pl with dst := .deal (if f.dk == .w then .w else .a) (cores.getD []) (64 * 2 ^ blk) (bitsOf pat 32 16) })

/-- `cp.gath` (R217). Of the source blocks, the page of the first is translated at acceptance (log 16). A BLK that is unassigned names no block
size, so no total either; of a total above the limit and a count above 4,096, the total is the first in R214's list (log 36). -/
def execCpGath (f : CopyFields) (s : State) : Step :=
  let spec := (s.g f.rl).toNat
  let n := bitsOf spec 0 16
  let blk := bitsOf spec 16 4
  let b := 64 * 2 ^ blk
  let v := s.copyDstOp f
  let refusal : Option (BitVec 32) :=
    if 6 < blk then some 5 else if copyMax < n * b then some 3 else if 4096 < n then some 5 else none
  .next (s.startCopy (.cpGath f) f (s.copyDirect f.dk v (min (n * b) copyMax)) refusal fun s =>
    let off := (s.g f.rs).toNat
    let addrs := (List.range n).map fun i => w64 (leNat (bufRead s.co.bufA s.th.bufA (off + 8 * i) 8))
    let pl := s.planDst (emptyPlan (n * b)) f.dk v
    { pl with src := .gather addrs b, lockA := physSegs s.th.bufA off (8 * n)
              pages := pl.pages ++ firstPage (addrs.headD 0) (n * b) needR })

/-! ## The ring copy (R218) -/

/-- The ring descriptor at an A-buffer offset: DBASE, FREEVA, HALF, ROUND. -/
structure Ring where
  dbase : Word
  freeva : Word
  half : Nat
  round : Nat
  deriving DecidableEq, Repr
def State.ringAt (s : State) (off : Nat) : Ring :=
  let w (i n : Nat) : Nat := leNat (bufRead s.co.bufA s.th.bufA (off + i) n)
  ⟨w64 (w 0 8), w64 (w 8 8), w 16 4, w 20 4⟩
/-- The ending of `cp.rot`'s waits: a gate that has not taken its step is withdrawn with nothing decremented; one that has is not
ended (R218). -/
def endGate (code : BitVec 8) (s : State) : State :=
  match s.sl.remote with
  | some ⟨.gate _, some _⟩ => s
  | some ⟨.gate k, none⟩ => (s.dropGate k).endPlain code
  | _ => s.endPlain code
/-- The copy of `cp.rot` once its gate is passed: the destination is kept in the wait. -/
def State.rotCopy (s : State) (i : Instr) (f : CopyFields) (dst : Word) (len : Nat) : State :=
  s.awaitChannel i f 2 fun s => s.planSrc (s.planDst (emptyPlan len) .dev dst) f.sk (s.g f.rs)
/-- The gate passed: ROUND counts on in the A buffer, and the channel is awaited. -/
def State.gatePassed (s : State) (i : Instr) (f : CopyFields) (r : Ring) (off len : Nat) : State :=
  let dst := r.dbase + w64 (r.half * (r.round % 2))
  let s := s.bufStore .store .a (off + 20) (leBytes 4 (r.round + 1))
  let w := { s.waitOf i f.ds with stage := 2, data := dst }
  let s := s.setSl { s.sl with remote := none, wait := some w }
  s.rotCopy i f dst len
/-- The gate leaves: a `.sys` atomic on the count at FREEVA, which takes its step once the count is above 0. Where the deadline is already past, as
under `poll`, the condition is checked once (R243): the step at this chip is taken at once or not at all, and the answer of a peer cannot have
come. -/
def State.launchGate (s : State) (i : Instr) (f : CopyFields) (r : Ring) (off len : Nat) (peer : Option Nat) (pa : Nat) : State :=
  let q : AmoReq := ⟨8, .d, .sys, pa, 0, 0⟩
  let g : Gran := ⟨peer, pa / 64⟩
  if (s.sl.wait.all fun v => v.t0 == s.instant) && decide ((s.waitOf i f.ds).due ≤ s.instant) then
    if peer.isNone && (s.op.all fun e => !(e.owner == s.curTask && s.sameGran e.ctx e.gran g)) && s.amoReady s.curCore s.curCtx q then
      (s.amoStep s.curCore s.curCtx q).1.gatePassed i f r off len
    else s.holdWait { s.waitOf i f.ds with stage := 1 } endGate
  else
    let (s, k) := s.track peer 1 none
    let e : OpEntry := ⟨s.curTask, s.curCore, s.curSlot, s.curCtx, k, g, .atomic q, s.instant⟩
    let s := { s with op := s.op ++ [e] }
    let s := s.setSl { s.sl with remote := some ⟨.gate k, none⟩ }
    s.holdWait { s.waitOf i f.ds with stage := 1 } endGate
/-- The operand checks and the gate's own address checks; the walk of the gate's address is part of the wait (R286). A dead link to the peer of
FREEVA ends the unit as it ends an atomic, REFUSED with DETAIL 1, which R218 does not say (log 113). -/
def State.rotGate (s : State) (i : Instr) (f : CopyFields) (r : Ring) (off len : Nat) : State :=
  if copyMax < len || r.half < len then s.refuse 3
  else if r.freeva.toNat % 8 != 0 then s.execFault 7
  else if s.missing [r.freeva] then s.holdWait { s.waitOf i f.ds with stage := stageWalk } State.endPlain
  else match s.translate s.curCtx s.th.priv r.freeva needRW with
    | .error k => s.devFault (k, r.freeva)
    | .ok (peer, pa) =>
      let s := s.noteTlb s.curCtx r.freeva
      if (match peer with | some p => s.deadPeer s.curCtx p | none => false) then s.refuse 1
      else s.launchGate i f r off len peer pa
/-- `cp.rot` (R218): the gate's count word is addressed as an atomic of type `.d` is. -/
def execCpRot (f : CopyFields) (s : State) : Step :=
  let i := Instr.cpRot f
  let off := (s.g f.rd).toNat
  let len := s.copyLen f
  let r := s.ringAt off
  .next (match s.sl.remote, s.sl.wait with
    | some ⟨.gate _, some a⟩, _ =>
      if a.code = codeDone then s.gatePassed i f r off len else s.refuse a.detail
    | some _, _ => s.holdWait { s.waitOf i f.ds with stage := 1 } endGate
    | none, some w =>
      if w.stage = 2 then s.rotCopy i f w.data len
      else s.transition i f.ds (fun s => s.rotGate i f r off len) State.endPlain
    | none, none => s.transition i f.ds (fun s => s.rotGate i f r off len) State.endPlain)
/-! ## Delivery (R213, R199, R219) -/

/-- What an attempt at the next bytes gives: the machine with them delivered, nothing yet, a fault, or a peer lost. -/
inductive Delivery where
  | landed (s : State) (n : Nat)
  | held
  | fault (kind : Nat) (va : Word)
  | lost

/-- A byte of a copy's source: the byte, nothing yet, a fault, or a peer lost. -/
inductive SrcByte where
  | byte (b : Byte)
  | held
  | fault (kind : Nat) (va : Word)
  | lost
  deriving DecidableEq, Repr
/-- A byte of device memory as an engine reads it: the issuing thread's earlier stores to the granule come first (R199). -/
def State.engineByte (s : State) (x : Copy) (va : Word) : SrcByte :=
  match s.translate x.who.ctx x.who.priv va needR with
  | .error k => .fault k va
  | .ok (peer, pa) =>
    if s.op.any fun e => x.after.contains e.ft && s.sameGran e.ctx e.gran ⟨peer, pa / 64⟩ then .held
    else match peer with
      | some p =>
        if s.deadPeer x.who.ctx p || Config.peerRefuses s.tick then .lost else .byte (Config.peerByte s.tick p pa)
      | none => .byte (if isWindow pa then s.winByte x.who.core x.who.ctx pa else mget s.mem pa)
def State.copyByte (s : State) (x : Copy) (i : Nat) : SrcByte :=
  match x.src with
  | .dev va => s.engineByte x (va + w64 i)
  | .gather addrs b => s.engineByte x (addrs.getD (i / b) 0 + w64 (i % b))
  | .buf snap al _ off => .byte (match physByte al off i with | some p => mget snap p | none => 0)
  | .arr snap off => .byte (mget snap ((off + i) % arrSize))
/-- Source bytes from byte i on. -/
def State.copyBytes (s : State) (x : Copy) : Nat → Nat → Except SrcByte (List Byte)
  | _, 0 => .ok []
  | i, n + 1 => match s.copyByte x i with
    | .byte b => (match s.copyBytes x (i + 1) n with | .ok l => .ok (b :: l) | .error e => .error e)
    | e => .error e
/-- Whether another operation's lock holds back a copy's write of a byte. -/
def lockedAt (ls : List Lock) (op : Nat) (b : Buf) (p : Nat) : Bool := ls.any fun l => l.op != op && l.covers b [(p, 1)]
/-- A byte written at a place of a core's buffer; none where a lock holds it back. -/
def State.putBuf (s : State) (c : Nat) (b : Buf) (op p : Nat) (v : Byte) : Option State :=
  let x := s.coreAt c
  if lockedAt x.locks op b p then none else some (s.setCore c (x.setBufMem b (mset (x.bufMem b) p v)))
/-- Where byte i of a deal lands: the core, and the physical offset (R216). -/
def dealPlace (b : Buf) (cores : List Nat) (block off i : Nat) : Nat × Nat :=
  let k := i / block
  (cores.getD (k % cores.length) 0, (off + k / cores.length * block + i % block) % pow2Above (bufSize b))
/-- The device addresses that a copy reads for its bytes from i on. -/
def Copy.srcVas (x : Copy) (i n : Nat) : List Word :=
  (List.range n).filterMap fun j => match x.src with
    | .dev va => some (va + w64 (i + j))
    | .gather addrs b => some (addrs.getD ((i + j) / b) 0 + w64 ((i + j) % b))
    | _ => none
/-- The device addresses that it writes for them. -/
def Copy.dstVas (x : Copy) (i n : Nat) : List Word :=
  match x.dst with
  | .dev va => (List.range n).map fun j => va + w64 (i + j)
  | _ => []
/-- The bytes of device memory that a copy reads for its bytes from i on. -/
def State.copyReads (s : State) (x : Copy) (i n : Nat) : List (Option Nat × Nat) :=
  (x.srcVas i n).filterMap fun va => match s.translate x.who.ctx x.who.priv va needR with
    | .ok a => some a
    | .error _ => none
/-- The translations of a copy's bytes from i on remembered. -/
def State.noteCopy (s : State) (x : Copy) (i n : Nat) : State :=
  (x.srcVas i n ++ x.dstVas i n).foldl (fun s va => s.noteTlb x.who.ctx va) s
/-- The next bytes of a copy: one byte, or in a register window the rest of one register. A deal's bytes for a core that is not resident for the
issuing context wait until it is (R277, log 89). -/
def State.deliverNext (s : State) (x : Copy) : Delivery :=
  let i := x.done
  let done (bytes : List Byte) (put : Option State) : Delivery := match put with
    | some s => .landed s bytes.length
    | none => .held
  let read (n : Nat) (go : List Byte → Delivery) : Delivery := match s.copyBytes x i n with
    | .ok l => go l
    | .error (.fault k va) => .fault k va
    | .error .lost => .lost
    | .error _ => .held
  match x.dst with
  | .dev va =>
    let a := va + w64 i
    (match s.translate x.who.ctx x.who.priv a needW with
      | .error k => .fault k a
      | .ok (some p, pa) =>
        if s.deadPeer x.who.ctx p || Config.peerRefuses s.tick then .lost
        else read 1 fun l =>
          let e : PeerOut := .item x.who.ctx p (.store (pa / 64) (BitVec.ofNat 512 (leNat l * 2 ^ (8 * (pa % 64))))
            (BitVec.twoPow 64 (pa % 64)))
          done l (some (({ s with sent := s.sent ++ [e] }).abortPeer x.who.ctx p (pa / 64) none))
      | .ok (none, pa) =>
        if isWindow pa then
          let w := winWidth pa
          let n := min (w - pa % w) (x.len - i)
          read n fun l => done l (some (s.winGran x.who.ctx (pa / 64) (BitVec.ofNat 512 (leNat l * 2 ^ (8 * (pa % 64))))
            (BitVec.ofNat 64 ((2 ^ n - 1) * 2 ^ (pa % 64)))))
        else read 1 fun l => done l (some (s.writeCell pa l none)))
  | .buf b al off => read 1 fun l =>
      (match physByte al off i with
        | some p => done l (s.putBuf x.who.core b x.lock p (l.headD 0))
        | none => done l (some s))
  | .arr off => read 1 fun l =>
      let k := clusterOf x.who.core
      let y := s.clusterAt k
      let p := (off + i) % arrSize
      if y.locks.any fun l => l.op != x.lock && segsOverlap l.segs [(p, 1)] then .held
      else done l (some (s.setCluster k { y with array := mset y.array p (l.headD 0) }))
  | .deal b cores block off => read 1 fun l =>
      let (c, p) := dealPlace b cores block off i
      if bufSize b ≤ p then done l (some s)
      else if (s.coreAt c).ctx != some x.who.ctx then .held
      else done l (s.putBuf c b x.lock p (l.headD 0))

/-- The head copy of a channel changed in place. -/
def State.setHead (s : State) (c : Nat) (ch : Fin 8) (x : Copy) : State :=
  let y := s.coreAt c
  let k := y.chans.get ch
  match k.queue with
  | [] => s
  | _ :: r =>
    let k' : Channel := { k with doneb := BitVec.ofNat 32 x.done, queue := x :: r }
    s.setCore c { y with chans := y.chans.set ch.val k' ch.isLt }
/-- The head copy of a channel. -/
def State.headCopy (s : State) (c : Nat) (ch : Fin 8) : Option Copy := ((s.coreAt c).chans.get ch).queue.head?
/-- The head copy's next bytes delivered and counted (R213). -/
def State.deliverStep (s : State) (c : Nat) (ch : Fin 8) : State :=
  match s.headCopy c ch with
  | none => s
  | some x =>
    if x.park.isSome || x.failed || x.len ≤ x.done then s
    else match s.deliverNext x with
      | .landed s' n =>
        let s' := (s'.touchCells x.who.core (s.copyReads x x.done n)).noteCopy x x.done n
        (match x.bound with
          | none => s'.setHead c ch { x with done := x.done + n }
          | some o =>
            let (s', counted) := s'.engineCount x.who o n
            s'.setHead c ch { x with done := x.done + n, lost := x.lost || !counted })
      | .lost => s.setHead c ch { x with failed := true }
      | _ => s
/-- `COPY_DELIVER`; a copy of a core that its context has left is stopped (R291). -/
def State.deliverN (s : State) (c : Nat) (ch : Fin 8) : Nat → State
  | 0 => s
  | n + 1 => (s.deliverStep c ch).deliverN c ch n
def execCopyDeliver (c : Nat) (ch : Fin 8) (n : Nat) (s : State) : Step := .next (if c < 8192 then s.deliverN c ch n else s)

/-- `COPY_COMPLETE` (R213): the completion entry, where one is asked for, needs room in the inbox (R247); the channel then goes on with its
next copy. -/
def execCopyComplete (c : Nat) (ch : Fin 8) (s : State) : Step :=
  match s.headCopy c ch with
  | none => .next s
  | some x =>
    let y := s.coreAt c
    if 8192 ≤ c || x.park.isSome || !(x.failed || decide (x.len ≤ x.done)) then .next s
    else if x.nte && !(y.msgRoom && y.pending.isEmpty) then .next s
    else
      let k := y.chans.get ch
      let k' := Channel.start { k with queue := k.queue.drop 1 }
      let s := (s.setCore c { y with chans := y.chans.set ch.val k' ch.isLt }).dropLocks [x.lock]
      let cstat : BitVec 8 := if x.failed then 3 else if x.lost then 4 else 0
      if x.nte then
        .next (s.postCompletion c x.who
          (mkMsg x.ctag 16 (s.logOf c) s.chip x.who.lid 1 cstat (k.cpwp.toNat + ch.val * 2 ^ 64)) none none)
      else .next (s.liveDown x.who.ctx x.who.lid)

/-- The head copy stopped by a fault, under the action its context's table gives the cause (R219, R300): `info` is DONEB for cause 14. -/
def State.faultCopy (s : State) (c : Nat) (ch : Fin 8) (x : Copy) (cause kind info : Nat) (va : Word) : State :=
  let ctx := x.who.ctx
  let evt := s.evtOf ctx cause
  let act := s.actionOf ctx cause
  let p (act : Fin 5) : Park :=
    ⟨BitVec.ofNat 6 cause, 3, BitVec.ofNat 2 kind, BitVec.ofNat 32 info, va, x.who.pc, act, evt, s.instant, s.ptimeOf ctx cause⟩
  match act with
  | 0 => s.killCopy c ch
  | 1 => if evt = 0 then s else s.setHead c ch { x with park := some (p 1) }
  | 3 => (s.setHead c ch { x with park := some (p 3) }).queueFault ctx cause c
      (faultWord cause 3 kind 0 x.who.lid info) x.who.pc va (s.copyItem c ch x.cseq) (.copy c ch) none
  | 2 => s.setHead c ch { x with park := some (p 2) }
/-- `COPY_FAULT` (R219): the copy's next bytes meet a translation or access fault. -/
def execCopyFault (c : Nat) (ch : Fin 8) (s : State) : Step :=
  match s.headCopy c ch with
  | none => .next s
  | some x =>
    if 8192 ≤ c || x.park.isSome || x.failed || x.len ≤ x.done then .next s
    else match s.deliverNext x with
      | .fault kind va => .next ((s.recall (s.walksFor x.who.ctx va)).faultCopy c ch x 14 kind x.done va)
      | _ => .next s

/-! ## Completions that wait for room (R247) -/

/-- `ENGINE_COMPLETION`: the oldest waiting completion of a core enters the inbox once there is room, and its place in the engine is
free. -/
def execEngineCompletion (c : Nat) (s : State) : Step :=
  let x := s.coreAt c
  match x.pending with
  | [] => .next s
  | p :: r =>
    if 8192 ≤ c || !x.msgRoom then .next s
    else
      let x' := ({ x with pending := r }.putIn (.completion p.msg) p.who.ctx s.instant).1
      let x' := match p.cmuId with
        | some i => { x' with cmu := x'.cmu.filter fun o => o.id != i }
        | none => x'
      let s := s.setCore c x'
      .next (match p.harpId with
        | some i =>
          let k := clusterOf c
          let y := s.clusterAt k
          s.setCluster k { y with harp := { y.harp with queue := y.harp.queue.filter fun o => o.id != i } }
        | none => s)

end Sys2Proof.Machine
end

