-- ==== Sys2Proof/Machine/Collectives.lean ====
section
/-! DEFINITION. The collectives (R229): acceptance of a member and the run of a group. -/

namespace Sys2Proof.Machine

/-! ## Acceptance -/

/-- The member count N of a group's object: its EXPECTED; 0 where there is no barrier. -/
def State.groupSize (s : State) (r : BarRef) : Nat :=
  match s.barSee r with
  | some b => b.expected.toNat
  | none => 0
/-- The phase of a group's object. -/
def State.groupPhase (s : State) (r : BarRef) : BitVec 16 :=
  match s.barSee r with
  | some b => b.phase
  | none => 0
/-- The members accepted at an object for a phase. -/
def State.membersAt (s : State) (r : BarRef) (p : BitVec 16) : List CollMember :=
  (s.colls.filter fun g => g.obj.same r && g.phase == p).flatMap fun g => g.members
/-- A member joins its group. -/
def State.joinGroup (s : State) (r : BarRef) (p : BitVec 16) (m : CollMember) : State :=
  if s.colls.any fun g => g.obj.same r && g.phase == p then
    { s with colls := s.colls.map fun g => if g.obj.same r && g.phase == p then { g with members := g.members ++ [m] } else g }
  else { s with colls := s.colls ++ [CollGroup.mk r p [m]] }
/-- The next number of an object's queue: one above its last acceptance (R213); that of a queue that this chip does not hold is free (log 18). -/
def State.nextSeq (s : State) (r : BarRef) : State × BitVec 32 :=
  match r with
  | .peer .. => (s, Config.collSeq s.tick)
  | _ =>
    let n := ((s.collSeqs.find? fun e => e.1.same r).map (·.2)).getD 0 + 1
    ({ s with collSeqs := (s.collSeqs.filter fun e => !e.1.same r) ++ [(r, n)] }, n)
/-- A member taken into the queue of its group, with its number. One for a peer's object goes there. -/
def State.enrol (s : State) (r : BarRef) (m : CollMember) : State × BitVec 32 :=
  let s := s.joinGroup r (s.groupPhase r) m
  let s := match r with
    | .peer p pa => { s with sent := s.sent ++ [PeerOut.member m.who.ctx p pa m] }
    | _ => s
  s.nextSeq r
/-- A member accepted: its contribution is locked and taken as it stands (R169). One whose BOFF names no barrier completes at once with
CSTAT 4, as the engine commands of R222 do, and its DETAIL is free (log 17, log 18). -/
def State.acceptMember (s : State) (f : CollFields) (isRed : Bool) (op : CollOp) (ty : Ty) : State :=
  let len := (f.lenm1.toNat + 1) * 64
  let (s, num) := s.fresh
  let src := (s.g f.rs).toNat
  let who := s.issuer
  let m : CollMember :=
    { chip := none, rank := bitsOf (s.g f.rk).toNat 0 16, who := who, dstOff := (s.g f.rd).toNat, bufA := s.th.bufA
      bytes := BitVec.ofNat 32768 (leNat (bufRead s.co.bufA s.th.bufA src len)), len := len, isRed := isRed, op := op, ty := ty
      nte := f.nte, ctag := f.ctag, lock := num }
  let s := s.liveUp who.ctx who.lid
  let none_ : State := (s.completeMember m 4 0 []).endWith codeDone (Config.collSeq s.tick)
  match s.engineRef who f.boff with
  | none => none_
  | some r =>
    if (s.barSee r).isNone then none_
    else
      let (s, n) := (s.lockCore s.curCore .a false false (physSegs s.th.bufA src len) num).enrol r m
      s.endWith codeDone n
/-- The acceptance steps of R213 with the group's queue in place of a channel: it has N places for a phase (log 17). -/
def State.coll (s : State) (i : Instr) (f : CollFields) (isRed : Bool) (op : CollOp) (ty : Ty) : State :=
  let len := (f.lenm1.toNat + 1) * 64
  let ref := s.engineRef s.issuer f.boff
  let n := match ref with | some r => s.groupSize r | none => 0
  let room := match ref with
    | some r => n = 0 || decide ((s.membersAt r (s.groupPhase r)).length < n)
    | none => true
  let hits := s.engineHits .a s.th.bufA (s.g f.rd).toNat (if isRed then len else min (n * len) 0x8000)
  let go (s : State) : State := s.await i f.ds 1 room (fun s => s.acceptMember f isRed op ty) State.endPlain
  s.walkObject i f.ds (s.engineVa s.issuer f.boff) (fun s =>
    let s := s.noteEngine s.issuer f.boff
    let s := match ref with | some r => s.sawObject r | none => s
    if hits then s.transition i f.ds go State.endPlain else go s) State.endPlain
/-- `coll.red`. -/
def execCollRed (f : CollFields) (op : CollOp) (ty : Ty) (s : State) : Step := .next (s.coll (.collRed f op ty) f true op ty)
/-- `coll.gath`. -/
def execCollGath (f : CollFields) (s : State) : Step := .next (s.coll (.collGath f) f false .add .f32)

/-! ## The run -/

/-- `Combine` under nearest-even. -/
def collCombine (op : CollOp) (ty : Ty) (a b : Nat) : FRes :=
  match op with
  | .add => laneAdd ty modeNe false a b
  | .min => laneMinmax ty false false a b
  | .max => laneMinmax ty true false a b
/-- Element e of a contribution. -/
def CollMember.elem (m : CollMember) (e : Nat) : Nat := bitsOf m.bytes.toNat (m.ty.bits * e) m.ty.bits
/-- Element e of the result, combined in rank order. -/
def combineRanks (op : CollOp) (ty : Ty) (e : Nat) : List CollMember → FRes
  | [] => (0, 0)
  | m :: r => r.foldl (fun acc x =>
      let y := collCombine op ty acc.1 (x.elem e)
      (y.1, acc.2 ||| y.2)) (m.elem e, 0)
/-- The reduction's bytes, little-endian, and its flags. -/
def reduceBytes (ms : List CollMember) : List Byte × BitVec 5 :=
  match ms with
  | [] => ([], 0)
  | m :: _ =>
    let n := m.ty.size
    let rs := (List.range (m.len / n)).map fun e => combineRanks m.op m.ty e ms
    (rs.flatMap fun r => leBytes n r.1, rs.foldl (fun acc r => acc ||| r.2) 0)
/-- The contributions in rank order. -/
def gatherBytes (ms : List CollMember) : List Byte := ms.flatMap fun m => leBytes m.len m.bytes.toNat
/-- The member of each rank below n, where every rank has one. -/
def byRank (ms : List CollMember) (n : Nat) : List CollMember :=
  (List.range n).filterMap fun r => ms.find? fun m => m.rank == r
/-- Whether members disagree, a rank repeats, or a rank is not below N. -/
def groupBad (ms : List CollMember) (n : Nat) : Bool :=
  match ms with
  | [] => false
  | m :: _ =>
    (ms.any fun x => decide (n ≤ x.rank) || x.len != m.len || x.isRed != m.isRed || (m.isRed && (x.op != m.op || x.ty != m.ty)))
      || (ms.map fun x => x.rank).eraseDups.length != ms.length
/-- A member's destination written; a peer's is told the bytes with its completion. -/
def State.writeMember (s : State) (m : CollMember) (bytes : List Byte) : State :=
  match m.chip with
  | some _ => s
  | none =>
    let x := s.coreAt m.who.core
    s.setCore m.who.core { x with bufA := bufWrite x.bufA m.bufA m.dstOff bytes }
/-- One arrival for each member. -/
def State.arriveAll (s : State) (r : BarRef) (ms : List CollMember) : State :=
  ms.foldl (fun s m => match s.arriveAt r m.who.core m.who.slot with | some (s', _, _) => s' | none => s) s
/-- The run of a group at a peer's object, as this chip's members learn of it (log 19): a dead link, and members of this chip that disagree, end
them as R229 says; else the peer's engine runs the group, finds that others disagree, or is told of an abort, and the bytes and flags it returns
are free. -/
def State.runAway (s : State) (p pa : Nat) (ms : List CollMember) : State :=
  let finish (cstat : BitVec 8) : State := ms.foldl (fun s x => s.completeMember x cstat 0 []) s
  if ms.any fun m => s.deadPeer m.who.ctx p then finish 3
  else if groupBad ms 65536 || Config.collOutcome s.tick == 1 then finish 2
  else if Config.collOutcome s.tick == 2 then finish 3
  else
    let flags : BitVec 5 := (Config.peerByte s.tick p (pa + 15)).setWidth 5
    ms.foldl (fun s x =>
      let n := if x.isRed then x.len else s.groupSize (.peer p pa) * x.len
      (s.writeMember x ((List.range n).map fun k => Config.peerByte s.tick p (pa + 16 + k))).completeMember x 0 flags []) s
/-- The run of a group at an object of this chip: complete, it runs; with members that do not fit together, it ends with CSTAT 2. A group accepted
for a phase that has moved on by arrivals alone stays accepted and never runs (log 111). -/
def State.runHere (s : State) (g : CollGroup) (out : State) : State :=
  match s.barRead g.obj with
  | none => s
  | some b =>
    let n := b.expected.toNat
    if groupBad g.members n then
      let s := g.members.foldl (fun s m => s.completeMember m 2 0 []) out
      match s.abortAt g.obj with | some (s', _, _) => s' | none => s
    else
      let all := byRank g.members n
      if b.phase != g.phase || all.length != n || n = 0 then s
      else
        let (bytes, flags) := match all with
          | m :: _ => if m.isRed then reduceBytes all else (gatherBytes all, 0)
          | [] => ([], 0)
        (all.foldl (fun s m => (s.writeMember m bytes).completeMember m 0 flags bytes) out).arriveAll g.obj all
/-- `COLLECTIVE_RUN`. -/
def execCollectiveRun (i : Nat) (s : State) : Step :=
  match s.colls[i]? with
  | none => .next s
  | some g =>
    let out := { s with colls := s.colls.eraseIdx i }
    match g.obj with
    | .peer p pa => .next (out.runAway p pa g.members)
    | _ => .next (s.runHere g out)

/-- A member from a peer for an object of this chip (R229): it joins the group's queue, where there is room for it; the queue's room and the
object's KIND are as for a member of this chip. -/
def State.peerMember (s : State) (chip ctx pa rank len : Nat) (isRed : Bool) (op : CollOp) (ty : Ty) (bytes : BitVec 32768) : State :=
  let r := BarRef.dev pa true
  let m : CollMember :=
    { chip := some chip, rank := rank, who := ⟨0, 0, ctx, 0, 0, 0, 0⟩, dstOff := 0, bufA := Alloc.whole 0x8000, bytes := bytes, len := len
      isRed := isRed, op := op, ty := ty, nte := false, ctag := 0, lock := 0 }
  match s.barRead r with
  | none => s.completeMember m 4 0 []
  | some b =>
    if b.expected != 0 && decide (b.expected.toNat ≤ (s.membersAt r b.phase).length) then s else (s.enrol r m).1

end Sys2Proof.Machine
end

