-- ==== Sys2Proof/Machine/Messages.lean ====
section
/-! DEFINITION. Messages, delegation and key-value homes (R230 to R234, R343): credits, arrival in an inbox, and the step that sends. -/

namespace Sys2Proof.Machine

/-! ## The ring and stub tables (R234, R343) -/

/-- The address of the ring entry for a hash. -/
def State.ringVa (s : State) (ctx : Nat) (h : Word) : Word := s.descWord ctx 6 + w64 (4 * bitsOf h.toNat 52 12)
/-- The ring entry for a hash. -/
def State.ringEntry (s : State) (ctx : Nat) (h : Word) : Except (Nat × Word) Nat :=
  match s.vread ctx (s.ringVa ctx h) 4 with
  | .ok l => .ok (leNat l)
  | .error e => .error e
/-- The address of stub `i`; that of the table's own head for 0. -/
def State.stubVa (s : State) (ctx i : Nat) : Word := s.descWord ctx 6 + 0x4000 + w64 (16 * i)
/-- Whether stub `i` sends a message on: its old core, tag and key fit. -/
def State.stubFits (s : State) (ctx c : Nat) (m : Msg) (i : Nat) : Bool :=
  match s.vread ctx (s.stubVa ctx i) 16 with
  | .ok l =>
    let v := leNat l
    bitsOf v 31 1 = 1 && bitsOf v 0 13 = (s.logOf c).toNat && bitsOf v 16 8 = (msgTag m).toNat && bitsOf v 64 64 = recBits m 128 64
  | .error _ => false
/-- The ring entry that a stub for a message leads to: the key is the hash of R234 (log 21). -/
def State.stubTarget (s : State) (ctx c : Nat) (m : Msg) : Option Word :=
  match s.vread ctx (s.stubVa ctx 0) 1 with
  | .ok (n :: _) =>
    if (List.range n.toNat).any fun i => s.stubFits ctx c m (i + 1) then
      match s.ringEntry ctx (w64 (recBits m 128 64)) with
      | .ok e => if bitsOf e 31 1 = 1 then some (w64 e) else none
      | .error _ => none
    else none
  | _ => none

/-- What the look for a stub does besides: the stubs 1 to N are direct loads (R343), which recall their cells, and so is the ring entry of a
stub that fits (R192). -/
def State.sawStubs (s : State) (ctx c : Nat) (m : Msg) : State :=
  let n := match s.vread ctx (s.stubVa ctx 0) 1 with | .ok (n :: _) => n.toNat | _ => 0
  let s' := (List.range n).foldl (fun s' i => s'.saw ctx (s.stubVa ctx (i + 1)) 16) (s.saw ctx (s.stubVa ctx 0) 1)
  if (List.range n).any fun i => s.stubFits ctx c m (i + 1) then s'.saw ctx (s.ringVa ctx (w64 (recBits m 128 64))) 4 else s'

/-! ## Credits and targets (R230, R233, R277) -/

/-- The target of a `send`, or the DETAIL of its refusal. -/
def State.sendTarget (s : State) (ctx : Nat) (w : Word) : MsgTarget ⊕ BitVec 32 :=
  let dest := bitsOf w.toNat 16 6
  let core := BitVec.ofNat 13 (bitsOf w.toNat 0 13)
  if dest = 0 then (match s.targetCore ctx core with | some c => .inl (.localCore c) | none => .inr 1)
  else if 32 < dest then .inr 2
  else if s.deadPeer ctx (dest - 1) then .inr 3
  else .inl (.peerCore (dest - 1) core)
/-- What a judgement of a target does besides: a local core's bit in the core set is read. -/
def State.sawTarget (s : State) (ctx : Nat) (w : Word) : State :=
  if bitsOf w.toNat 16 6 = 0 then s.sawCore ctx (BitVec.ofNat 13 (bitsOf w.toNat 0 13)) else s
/-- Peer credits of a context and peer index that are held. -/
def State.creditsHeld (s : State) (ctx p : Nat) : Nat := (tget s.credits (ctx * 32 + p)).getD 0
/-- Whether a target has a credit to give. -/
def State.hasCredit (s : State) (ctx : Nat) : MsgTarget → Bool
  | .localCore c => (s.coreAt c).ctx == some ctx && (s.coreAt c).msgRoom
  | .peerCore p _ => decide (s.creditsHeld ctx p < 256)
/-- A credit reserved. -/
def State.takeCredit (s : State) (ctx : Nat) : MsgTarget → State
  | .localCore c => let x := s.coreAt c; s.setCore c { x with inboxHeld := x.inboxHeld + 1 }
  | .peerCore p _ => { s with credits := tset s.credits (ctx * 32 + p) (s.creditsHeld ctx p + 1) }

/-! ## Forwarding inside a fault record (R296, R297, R300) -/

/-- A message, completion or task record forwarded inside a fault record of cause 15, 16, 17 or 18; none while the die's pool of 4,096 places
is full. It counts in LIVE no more. -/
def State.forwardItem (s : State) (ctx cause c kind : Nat) (info : Nat) (addr : Word) (itemKind : Nat) (lid : BitVec 20)
    (carried : BitVec 512) : Option State :=
  let d := dieOf (s.recordCore ctx cause c)
  let x := s.dieAt d
  if 4096 ≤ x.carriedPlaces then none
  else
    let s := s.setDie d { x with carriedPlaces := x.carriedPlaces + 1 }
    let s := s.queueFault ctx cause c (faultWord cause 3 kind 0 lid info) 0 addr (s.entryItem itemKind c) .item (some carried)
    some (s.liveDown ctx lid)

/-! ## Arrival (R39, R40, R343) -/

/-- A message on its way to a peer without a task of its own: a stub has sent it on, for the `hops`-th time (R343). -/
def State.relayPeer (s : State) (ctx p : Nat) (core : BitVec 13) (c : Nat) (m : Msg) (hops : Nat) : State :=
  let k := s.nextFt
  let e : LqEntry := ⟨0, c, 0, ctx, p, some k, .message core m hops⟩
  let f : FtEntry := ⟨0, c, 0, k, some p, 1, none, none, some (ctx, msgLid m), ctx, s.instant⟩
  (({ s with nextFt := k + 1, lq := s.lq ++ [e], ft := s.ft ++ [f] }).takeCredit ctx (.peerCore p core)).noteSent ctx (msgLid m) p
/-- A message that has its credit reaches its core: removed with its lineage, sent on by a stub (at most `fuel` times), or appended. -/
def State.arriveMsg (s : State) (ctx c : Nat) (m : Msg) (hops : Nat) : Nat → State
  | 0 => s
  | fuel + 1 =>
    let x := s.coreAt c
    let s := s.setCore c { x with inboxHeld := x.inboxHeld - 1 }
    if s.annulled ctx (msgLid m) then s.liveDown ctx (msgLid m)
    else
      let put (s : State) : State := s.setCore c ((s.coreAt c).putIn (.message m hops) ctx s.instant).1
      let target := s.stubTarget ctx c m
      let s := s.sawStubs ctx c m
      match target with
      | none => put s
      | some w =>
        if 3 ≤ hops then
          (match s.forwardItem ctx 17 c 0 (msgTag m).toNat 0 3 (msgLid m) m with
            | some s' => s'
            | none => s.setCore c ((s.coreAt c).putIn (.message m (hops + 1)) ctx s.instant).1)
        else
          let s := s.sawTarget ctx w
          match s.sendTarget ctx w with
          | .inr _ => put s
          | .inl (.peerCore p core) => s.relayPeer ctx p core c m (hops + 1)
          | .inl (.localCore d) =>
            if s.hasCredit ctx (.localCore d) then (s.takeCredit ctx (.localCore d)).arriveMsg ctx d m (hops + 1) fuel
            else
              let e : HeldMsg := ⟨s.chip.toNat, ctx, msgLid m, BitVec.allOnes 64, s.logOf d, ctx, m, hops + 1, true⟩
              { s with heldMsgs := s.heldMsgs ++ [e] }
/-- A message with its credit, which stubs have forwarded `hops` times, appended to its target's inbox. -/
def State.deliverHops (s : State) (ctx c : Nat) (m : Msg) (hops : Nat) : State := s.arriveMsg ctx c m hops 5
/-- A message with its credit appended to its target's inbox. -/
def State.deliverMsg (s : State) (ctx c : Nat) (m : Msg) : State := s.deliverHops ctx c m 0
/-- A delegation request with its credit appended to its server's queue (R233). -/
def State.deliverDeleg (s : State) (c : Nat) (d : DelegReq) : State :=
  let x := s.coreAt c
  let s := s.setCore c { x with delegHeld := x.delegHeld - 1 }
  if s.annulled d.ctx d.lid then s.liveDown d.ctx d.lid
  else let x := s.coreAt c; s.setCore c { x with delegQ := x.delegQ ++ [d] }

/-! ## `send` and `deleg` -/

/-- The granule of a store-path entry that reaches no cell. -/
def noGran (p : Option Nat) : Gran := ⟨p, 2 ^ 46⟩
/-- The ending of a wait of `send` and `deleg`: a credit reserved is given back. -/
def endSend (code : BitVec 8) (s : State) : State := (s.freeWaitCredit s.curCore s.curSlot).endPlain code
/-- A request that has its credit at a target: held in the commit buffer, or put on its way (R193, R195, R230). A wait for the transition keeps
the credit, which goes with its target where that is switched out or moved (R277). -/
def State.sendOn (s : State) (i : Instr) (ds : Sel) (target : MsgTarget) (held : CbEntry) (go : State → State) (lid : BitVec 20) : State :=
  if s.spec then
    if s.sl.cb.length < 32 then
      let s := s.liveUp s.curCtx lid
      (s.setSl { s.sl with cb := s.sl.cb ++ [held] }).endWith codeDone 0
    else s.holdWait { s.waitOf i ds with stage := stageCommit, credit := some target } endSend
  else (go (s.liveUp s.curCtx lid)).endWith codeDone 0
/-- The target whose credit the wait of the current unit holds already: it has been judged then (R230). -/
def State.heldCredit (s : State) : Option MsgTarget := s.sl.wait.bind fun w => w.credit
/-- The credit wait, then the sending: a wait that holds its credit goes on. -/
def State.withCredit (s : State) (i : Instr) (ds : Sel) (has : Bool) (take : State → State) (go : State → State) : State :=
  if s.heldCredit.isSome then go s else s.await i ds 1 has (fun s => go (take s)) endSend
/-- The message that `send` builds (R39): LEN payload bytes from the A buffer, and above them what Config leaves free (log 20). -/
def State.buildMsg (s : State) (rs : Fin 16) (len : Nat) (tag : BitVec 8) : Msg :=
  let bytes := s.bufLoad .load .a (s.g rs).toNat len
  mkMsg tag (BitVec.ofNat 8 len) (s.logOf s.curCore) s.chip s.th.lid 0 0
    (leNat bytes + (Config.messagePad s.tick).toNat / 2 ^ (8 * len) * 2 ^ (8 * len))
/-- `send` (R230). -/
def execSend (rc rs : Fin 16) (ds : Sel) (len : BitVec 6) (tag : BitVec 8) (s : State) : Step :=
  let i := Instr.send rc rs ds len tag
  let (s, dest) : State × (MsgTarget ⊕ BitVec 32) := match s.heldCredit with
    | some m => (s, .inl m)
    | none => (s.sawTarget s.curCtx (s.g rc), s.sendTarget s.curCtx (s.g rc))
  .next (match dest with
    | .inr d => s.refuse d
    | .inl target =>
      s.withCredit i ds (s.hasCredit s.curCtx target) (fun s => s.takeCredit s.curCtx target) fun s =>
        let m := s.buildMsg rs (min len.toNat 48) tag
        s.sendOn i ds target (.message target m) (fun s =>
          let peer := match target with | .peerCore p _ => some p | _ => none
          let (s, k) := match peer with
            | some p => s.track (some p) 1 (some (s.curCtx, s.th.lid))
            | none => (s, 0)
          let e : OpEntry := ⟨s.curTask, s.curCore, s.curSlot, s.curCtx, k, noGran peer, .message target m, s.instant⟩
          { s with op := s.op ++ [e] }) s.th.lid)

/-- Whether a server's queue has a credit to give (R233, R277). -/
def State.delegRoom (s : State) (c : Nat) : Bool :=
  let x := s.coreAt c
  x.ctx == some s.curCtx && decide (x.delegQ.length + x.delegHeld < 32)
/-- `deleg` (R233). A DEST other than 0 names no core (log 23). A core that is not resident for the sender's context has no server to ask: the
request waits for its credit (R277). -/
def execDeleg (rc ra rr : Fin 16) (ds : Sel) (nte : Bool) (ctag : BitVec 8) (s : State) : Step :=
  let i := Instr.deleg rc ra rr ds nte ctag
  let w := (s.g rc).toNat
  let core := BitVec.ofNat 13 (bitsOf w 0 13)
  let (s, target) := match s.heldCredit with
    | some (.localCore c) => (s, some c)
    | _ => (s.sawTarget s.curCtx (s.g rc), if bitsOf w 16 6 = 0 then s.targetCore s.curCtx core else none)
  .next (match target with
    | none => s.refuse 1
    | some c =>
      if s.heldCredit.isNone && (s.coreAt c).ctx == some s.curCtx && !(s.coreAt c).server then s.refuse 2
      else
        s.withCredit i ds (s.delegRoom c)
          (fun s => let x := s.coreAt c; s.setCore c { x with delegHeld := x.delegHeld + 1 }) fun s =>
          let d : DelegReq :=
            { khandle := (s.g rr).setWidth 32, entry := BitVec.ofNat 32 (bitsOf (s.g rr).toNat 32 32)
              args := BitVec.ofNat 256 (leNat (s.bufLoad .load .a (s.g ra).toNat 32)), ctx := s.curCtx, lid := s.th.lid
              prio := (match s.sl.task with | some k => k.prio | none => 0), nte := nte, ctag := ctag, requester := s.curCore }
          s.sendOn i ds (.localCore c) (.deleg c d) (fun s =>
            let e : OpEntry := ⟨s.curTask, s.curCore, s.curSlot, s.curCtx, 0, noGran none, .deleg c d, s.instant⟩
            { s with op := s.op ++ [e] }) s.th.lid)
/-- The current core with its server enabled: slot 3 runs only delegation requests from now on (R36), so a group that had reserved it loses
it and finds another slot (log 107). -/
def State.serverOn (s : State) : State :=
  let x := s.co
  s.setCo { x with server := true, slots := x.slots.set 3 { x.slots.get 3 with reserved := none } }
/-- `deleg.on`: the server is enabled once slot 3 holds no task; it needs supervisor level (R282). -/
def execDelegOn (ds : Sel) (s : State) : Step :=
  if s.th.priv = 0 then .next s.privFault
  else .next (s.await (.delegOn ds) ds 0 (s.co.slots.get 3).task.isNone (fun s => s.serverOn.endWith codeDone 0) State.endPlain)
/-- `deleg.off` (R282). -/
def execDelegOff (s : State) : Step :=
  if s.th.priv = 0 then .next s.privFault
  else .next (s.setCo { s.co with server := false }).complete

/-! ## `recv`, `poll` and `home` -/

/-- The entries of kinds 2 and 3 with a tag that belong to a context and still wait. -/
def Core.waiting (x : Core) (ctx : Nat) (tag : BitVec 8) : List (Nat × InSlot) :=
  x.inbox.filter fun e => e.2.ctx == ctx && !e.2.taken && (match e.2.entry with
    | .message m hops => msgTag m == tag && !stray hops
    | .completion m => msgTag m == tag
    | _ => false)
/-- The entry that arrived first. -/
def oldestOf : List (Nat × InSlot) → Option (Nat × InSlot)
  | [] => none
  | e :: r => match oldestOf r with
    | none => some e
    | some f => if e.2.order ≤ f.2.order then some e else some f
/-- The bytes of an inbox entry of kind 2 or 3. -/
def InEntry.msg : InEntry → Msg
  | .message m _ => m
  | .completion m => m
  | _ => 0
/-- The oldest entry taken by `recv`. -/
def State.takeEntry (s : State) (d a : Fin 16) (e : Nat × InSlot) : State :=
  let m := e.2.entry.msg
  let off := (s.g a).toNat
  let s := s.bufStore .store .a off (leBytes 64 m.toNat)
  let x := s.co
  let s := (s.setCo { x with inbox := terase x.inbox e.1 }).liveDown e.2.ctx (msgLid m)
  (s.writeG d (w64 (recBits m 0 64))).endWith codeDone 0
/-- `recv` (R231): the entries of annulled lineages are removed before the search. -/
def execRecv (d a b : Fin 16) (ds : Sel) (s : State) : Step :=
  let tag : BitVec 8 := (s.g b).setWidth 8
  .next (if s.co.tagen.getLsbD tag.toNat then s.refuse 1
    else
      let s := s.purgeCore s.curCore
      let found := oldestOf (s.co.waiting s.curCtx tag)
      s.await (.recv d a b ds) ds 0 found.isSome
        (fun s => match found with | some e => s.takeEntry d a e | none => s) State.endPlain)
/-- `poll` (R232). -/
def execPoll (d b : Fin 16) (s : State) : Step :=
  .next (s.writeG d (w64 (s.co.waiting s.curCtx ((s.g b).setWidth 8)).length)).complete
/-- The hash of R234. -/
def homeHash (seq block : Word) : Word := seq * 0x9E3779B97F4A7C15#64 + block * 0xC2B2AE3D27D4EB4F#64
/-- `home` (R234): the entry is read as a direct load at supervisor level (log 64). -/
def execHome (d a b : Fin 16) (ds : Sel) (s : State) : Step :=
  let i := Instr.home d a b ds
  let va := s.ringVa s.curCtx (homeHash (s.g a) (s.g b))
  .next (s.walked i ds [va] (fun s =>
    match s.translateRange s.curCtx 1 va 4 needR with
    | .error e => s.devFault e
    | .ok ps =>
      let s := s.noteRange s.curCtx va 4
      let as := byteList ps
      if ps.any fun p => (match p.1 with | some q => s.deadPeer s.curCtx q | none => false) then s.refuse 1
      else if ds != .poll && !s.late && (ps.any fun p => p.1.isSome) && Config.peerRefuses s.tick then s.refuse 2
      else
        let near := as.all fun a => a.1.isNone && Config.sliceHolds s.tick (a.2 / 64)
        s.await i ds 0 (if ds == .poll then near else !s.late) (fun s =>
          let s := s.touchCells s.curCore as
          let e := leNat (as.map fun x => (s.pathByte s.curTask (granOf x) (x.2 % 64)).getD (s.cellByte x))
          (s.writeG d (w64 e)).endWith (if bitsOf e 31 1 = 1 then codeDone else codeRefused)
            (if bitsOf e 31 1 = 1 then 0 else 1)) State.endPlain) State.endPlain)

end Sys2Proof.Machine
end

