-- ==== Sys2Proof/Machine/Candidates.lean ====
section
/-! DEFINITION. The candidates of a core's scheduler and their rank (R37, R40, R41, R247, R248). -/

namespace Sys2Proof.Machine

/-- A candidate of the second group of R248. -/
inductive CandKind where
  | record (entry : Nat) (q : Queued)
  | message (entry : Nat) (m : Msg)
  | package (id : Nat) (pk : Package)
  | rerun (r : Rerun)
  | deque (place : Nat) (q : Queued)
  deriving DecidableEq, Repr
/-- A candidate with the keys it is ranked by: PRIO, domain and sequence, ready instant, and entry index. -/
structure Cand where
  kind : CandKind
  prio : Nat
  domain : Nat
  seq : Nat
  ready : Nat
  index : Nat
  deriving DecidableEq, Repr

/-- The address of a tag's handler entry (R37). -/
def State.handlerVa (s : State) (ctx : Nat) (tag : BitVec 8) : Word := s.descWord ctx 4 + w64 (16 * tag.toNat)
/-- The handler entry of a tag (R37), or KIND and address of the table entry that cannot be read. -/
def State.handlerOf (s : State) (ctx : Nat) (tag : BitVec 8) : Except (Nat × Word) Nat :=
  let va := s.handlerVa ctx tag
  match s.vread ctx va 16 with
  | .ok l => .ok (leNat l)
  | .error e => .error (e.1, va)
def handlerValid (e : Nat) : Bool := bitsOf e 102 1 == 1
def handlerPrio (e : Nat) : Nat := bitsOf e 98 2
/-- PRIO of a message's candidate: the handler entry's; 3 where there is no handler, since it is then only forwarded (log 25). -/
def State.tagPrio (s : State) (ctx : Nat) (tag : BitVec 8) : Nat :=
  match s.handlerOf ctx tag with
  | .ok e => if handlerValid e then handlerPrio e else 3
  | .error _ => 3
/-- Whether a handler of a tag runs on a core (R40). -/
def Core.handling (x : Core) (tag : BitVec 8) : Bool :=
  x.slots.toList.any fun sl => match sl.task with
    | some k => (match k.kind with | .handler t _ => t == tag | _ => false)
    | none => false
/-- Whether a message or completion may start its handler now: its tag is enabled, no handler of it runs, and no earlier entry of the tag
waits (R40). -/
def Core.eligible (x : Core) (ctx : Nat) (e : Nat × InSlot) (tag : BitVec 8) : Bool :=
  x.tagen.getLsbD tag.toNat && !x.handling tag && (match oldestOf (x.waiting ctx tag) with | some f => f.1 == e.1 | none => false)

def candOf (kind : CandKind) (r : Rec) (ready : Word) (index : Nat) : Cand :=
  ⟨kind, (recPrio r).toNat, (tsDomain (recTstamp r)).toNat, (tsSeq (recTstamp r)).toNat, ready.toNat, index⟩
/-- The candidate an inbox entry gives. -/
def State.entryCand (s : State) (x : Core) (ctx : Nat) (e : Nat × InSlot) : Option Cand :=
  if e.2.ctx != ctx || e.2.taken then none
  else match e.2.entry with
    | .record q => some (candOf (.record e.1 q) q.record e.2.ready e.1)
    | .package _ id (some pk) =>
      some ⟨.package id pk, pk.task.prio.toNat, (tsDomain pk.thread.tstamp).toNat, (tsSeq pk.thread.tstamp).toNat, e.2.ready.toNat, e.1⟩
    | .message m hops =>
      if stray hops then some ⟨.message e.1 m, 3, 0, 0, e.2.ready.toNat, e.1⟩
      else if x.eligible ctx e (msgTag m) then some ⟨.message e.1 m, s.tagPrio ctx (msgTag m), 0, 0, e.2.ready.toNat, e.1⟩ else none
    | .completion m =>
      if x.eligible ctx e (msgTag m) then some ⟨.message e.1 m, s.tagPrio ctx (msgTag m), 0, 0, e.2.ready.toNat, e.1⟩ else none
    | _ => none
/-- PRIO of a task that re-runs: its kind's, as at its first start (R31, R37). -/
def Rerun.prio (r : Rerun) : Nat := (recPrio r.q.record).toNat
/-- The newest deque entry that is not reserved (R41). -/
def Core.newest (x : Core) : Option (DequeEntry × Queued) :=
  (x.deque.filterMap fun d => d.rec?.map fun q => (d, q)).getLast?
/-- The oldest deque entry that is not reserved (R41, R249). -/
def Core.oldest (x : Core) : Option (DequeEntry × Queued) :=
  (x.deque.filterMap fun d => d.rec?.map fun q => (d, q)).head?
/-- The candidates of the second group at a core, for its resident context. -/
def State.candidates (s : State) (c : Nat) : List Cand :=
  let x := s.coreAt c
  match x.ctx with
  | none => []
  | some ctx =>
    (x.inbox.filterMap fun e => s.entryCand x ctx e)
      ++ ((x.rerun.filter fun r => r.q.ctx == ctx).map fun r => { candOf (.rerun r) r.q.record r.q.ready 128 with prio := r.prio })
      ++ (match x.newest with
        | some (d, q) => if q.ctx = ctx then [candOf (.deque d.place q) q.record q.ready 129] else []
        | none => [])
/-- What a ranking of candidates does besides: the handler entries it reads are recalled (R192, log 105). -/
def State.sawHandlers (s : State) (c : Nat) : State :=
  (s.candidates c).foldl (fun s x => match x.kind, (s.coreAt c).ctx with
    | .message _ m, some ctx => s.saw ctx (s.handlerVa ctx (msgTag m)) 16
    | _, _ => s) s
/-- The oldest record on the privileged queue for a core that may start: one that carries an item needs a free inbox entry (R247). -/
def State.privFor (s : State) (c : Nat) : Option PrivRec :=
  let x := s.coreAt c
  s.priv.find? fun r => r.core == c && !r.held && some r.ctx == x.ctx && (r.carried.isNone || x.recRoom 1)
/-- Key 2: a candidate of an order domain is passed over while another of its domain and PRIO has a lower sequence. -/
def Cand.passed (all : List Cand) (x : Cand) : Bool :=
  x.domain != 0 && all.any fun y => y.prio == x.prio && y.domain == x.domain && decide (y.seq < x.seq)
/-- Keys 1, 3 and 4. -/
def Cand.before (a b : Cand) : Bool :=
  decide (b.prio < a.prio) || (a.prio == b.prio && (decide (a.ready < b.ready) || (a.ready == b.ready && decide (a.index ≤ b.index))))
/-- The first candidate by the order of R248. -/
def firstCand : List Cand → Option Cand
  | [] => none
  | a :: r => match firstCand r with
    | none => some a
    | some b => if a.before b then some a else some b
def State.bestCand (s : State) (c : Nat) : Option Cand :=
  let all := s.candidates c
  firstCand (all.filter fun x => !x.passed all)
/-- Whether some candidate ranks at or above a PRIO (R261). -/
def State.rival (s : State) (c : Nat) (prio : BitVec 2) : Bool :=
  (s.privFor c).isSome || (s.candidates c).any fun x => decide (prio.toNat ≤ x.prio)

end Sys2Proof.Machine
end

