-- ==== Sys2Proof/Machine/Work.lean ====
section
/-! DEFINITION. The work instructions on the thread's own task (R255 to R263): `fork`, `join`, `done`, `yield`, `irrev` and `migrate`. -/

namespace Sys2Proof.Machine

/-! ## `fork` (R256 to R258) -/

/-- The child record: a device makes it, so FLAGS [31:8] are zero (R31). -/
def State.childRec (s : State) (target : Word) : Rec :=
  match s.sl.task with
  | none => 0
  | some k =>
    mkRec k.khandle (BitVec.ofNat 32 ((target - k.base).toNat / 8)) s.sl.dict.activeBank.handle s.th.lid s.th.tstamp
      (recBudget k.record) (recFlags k.record &&& 0xFF) (s.g 0) (s.g 1) (s.g 2) (s.g 3)
/-- The forking thread counts one child more (R256). -/
def State.childUp (s : State) : State := s.setTh { s.th with children := s.th.children + 1 }
/-- The record pushed at the newest end of the deque. -/
def State.pushChild (s : State) (r : Rec) : State :=
  let (s, id) := s.fresh
  let x := s.co
  let e : DequeEntry := ⟨x.nextPlace, s.th.stealdom, some ⟨r, s.curCtx, id, some s.th.tid, s.instant, 0, 1⟩⟩
  let s := s.setCo { x with deque := x.deque ++ [e], nextPlace := x.nextPlace + 1 }
  ((s.enterDq id s.curCtx (recTstamp r)).childUp.liveUp s.curCtx (recLid r))
/-- A place reserved in the deque, with the record held in the commit buffer (R257). -/
def State.holdChild (s : State) (r : Rec) : State :=
  let x := s.co
  let e : DequeEntry := ⟨x.nextPlace, s.th.stealdom, none⟩
  let s := s.setCo { x with deque := x.deque ++ [e], nextPlace := x.nextPlace + 1 }
  let s := s.setSl { s.sl with cb := s.sl.cb ++ [.deque x.nextPlace r s.th.tid] }
  s.childUp.liveUp s.curCtx (recLid r)
/-- The inline frames of a core that are taken: by its threads, and by the packages that wait there (R258, R261). -/
def Core.framesUsed (x : Core) : List Nat :=
  (x.slots.toList.flatMap fun sl => sl.inline.map fun i => i.frame)
    ++ x.inbox.flatMap fun e => match e.2.entry with
      | .package _ _ (some pk) => pk.inline.map fun i => i.frame
      | _ => []
/-- An inline call: the unit completes in the parent, whose state is kept in the frame, and the child starts at the target with the
pre-unit g0 to g3 (R258). The call counts as a taken branch for the window of R77 (log 92). -/
def State.inlineCall (s : State) (target : Word) (f : Nat) : State :=
  let pc0 := s.th.pc
  let a0 := s.g 0
  let a1 := s.g 1
  let a2 := s.g 2
  let a3 := s.g 3
  let (s, id) := (s.completeTo target true).fresh
  let saved : Thread := { s.th with pc := pc0 + 8 }
  let g : Vector Word 16 := #v[a0, a1, a2, a3, 0, 0, 0, 0, 0, 0, 0, 0, 0, 0, w64 (0x6000 + 0x400 * f), 0]
  let child : Thread := { s.th with g := g, p := Vector.replicate 4 false, ws := 0, loops := [], children := 0, parent := none, tid := id }
  s.setSl { s.sl with thread := child, inline := s.sl.inline ++ [Inline.mk f saved] }
/-- Whether the deque counts as full (R257). -/
def Core.dequeFull (x : Core) : Bool := decide (64 ≤ x.deque.length)
/-- A child that goes at once: pushed, or called inline where the deque is full. -/
def State.forkNow (s : State) (target : Word) (r : Rec) : State :=
  if s.co.dequeFull then
    let used := s.co.framesUsed
    match (List.range 8).find? fun f => !used.contains f with
    | some f => if s.th.inldepth.toNat ≤ s.sl.inline.length then s.execFault 9 else s.inlineCall target f
    | none => s.execFault 9
  else (s.pushChild r).endWith codeDone 0
/-- `fork`: its first attempt decides whether a 33rd commit-buffer entry makes the transition, which then runs to its end (R257). -/
def execFork (d : BitVec 24) (s : State) : Step :=
  let target := relTarget s.th.pc d
  let r := s.childRec target
  .next (
    if s.sl.wait.isSome || (s.spec && !s.co.dequeFull && decide (32 ≤ s.sl.cb.length)) then
      s.transition (.fork d) .cap (fun s => s.forkNow target r) State.endPlain
    else if s.spec && !s.co.dequeFull then (s.holdChild r).endWith codeDone 0
    else s.forkNow target r)

/-! ## `join` and `irrev` (R259, R262) -/

def endJoin (code : BitVec 8) (s : State) : State := s.endWith code (BitVec.ofNat 32 s.th.children)
/-- `join`. -/
def execJoin (ds : Sel) (s : State) : Step :=
  let i := Instr.join ds
  let go (s : State) : State := s.await i ds 1 (s.th.children == 0) (endJoin codeDone) endJoin
  .next (if 0 < heldRecords s.sl.cb then s.transition i ds go State.endPlain else go s)
/-- `irrev`. -/
def execIrrev (ds : Sel) (s : State) : Step :=
  .next (s.transition (.irrev ds) ds (State.endPlain codeDone) State.endPlain)

/-! ## `done` (R260, R302) -/

/-- The return of an inline child (R258): the parent's state comes back from the frame, but for what the child shares with it; adopted
lineages are left (R271). The next pc is the parent's, and the return is no taken branch for the window of R77 (log 92). -/
def State.inlineReturn (s : State) (i : Inline) : State :=
  let s := s.completeTo i.saved.pc false
  let now := s.th
  let p := i.saved
  let s := if now.lid = p.lid then s else s.moveCount s.curCtx now.lid p.lid
  let back : Thread := { p with
    ws := wsWord codeDone 1, remain := now.remain, stealdom := now.stealdom, inldepth := now.inldepth
    bufW := now.bufW, bufA := now.bufA, bufC := now.bufC }
  s.setSl { s.sl with thread := back, inline := s.sl.inline.dropLast }
/-- The disposition a supervisor task carries at its `done` (R302, R303). -/
def State.dispose (s : State) (ctx : Nat) (g0 g1 g2 : Word) : State :=
  match bitsOf g0.toNat 0 8 with
  | 1 => s.resumeItem ctx g1
  | 2 => s.continueItem ctx g1
  | 3 => s.killItem ctx g1
  | 4 => s.mapped ctx g1 (bitsOf g2.toNat 0 2)
  | 5 => s.askPark ctx g1
  | 6 => s.reload ctx
  | _ => s
/-- Retirement (R34, R260): the unit completes, a supervisor's disposition and a delegation's completion follow, and the slot is given
up. -/
def State.retire (s : State) : State :=
  let g0 := s.g 0
  let g1 := s.g 1
  let g2 := s.g 2
  let g3 := s.g 3
  let s := s.complete
  match s.sl.task with
  | none => s
  | some k =>
    let c := s.curCore
    let t := s.curSlot
    let s := s.learnEst k.ctx k.khandle k.ran
    let s := match k.kind with
      | .deleg d => if d.nte then
          (s.postCompletion d.requester d.who (mkMsg d.ctag 32 (s.logOf c) s.chip d.lid 0 0
            (g0.toNat + g1.toNat * 2 ^ 64 + g2.toNat * 2 ^ 128 + g3.toNat * 2 ^ 192)) none none).liveUp k.ctx d.lid
        else s
      | _ => s
    let s := s.endTask c t
    match k.kind with
    | .supervisor .. => s.dispose k.ctx g0 g1 g2
    | _ => s
/-- A commit wait of `done` that ends CAP (R198). -/
def endDone (code : BitVec 8) (s : State) : State := s.sampleWait.takeTrap 11 0 0 0 (wsWord code 0) s.th.pc
/-- `done`. An attached follower's forwarded `done` waits for the leader's, which ends the group; one that does not end it, the return of
the leader's inline child, lets the follower go on. -/
def execDone (s : State) : Step :=
  .next (match s.sl.inline.getLast?, s.sl.group with
    | some i, _ => s.inlineReturn i
    | none, some (.follower _ _ _ true) =>
      (match s.sl.fwd with
        | f :: _ => if f.next.isSome then s.complete else s
        | [] => s)
    | none, some (.follower _ _ _ false) => s.complete.endTask s.curCore s.curSlot
    | none, _ => s.transition .done .cap State.retire endDone)

/-! ## Thread packages: `yield` and `migrate` (R45, R261, R263) -/

/-- The package of the current thread. -/
def State.packageOf (s : State) (target : Nat) (k : Task) : Package :=
  { thread := s.th, task := k, rs := s.sl.rs, handle := s.sl.dict.activeBank.handle, target := target
    inline := s.sl.inline, divider := s.sl.divider, halt := s.sl.halt }
/-- The four inbox entries of a package (R39, R45). -/
def Core.putPackage (x : Core) (pk : Package) (id ctx : Nat) (now : Word) : Core :=
  let x := (x.putIn (.package 0 id (some pk)) ctx now).1
  let x := (x.putIn (.package 1 id none) ctx now).1
  let x := (x.putIn (.package 2 id none) ctx now).1
  (x.putIn (.package 3 id none) ctx now).1
/-- The slot is freed and the thread goes on elsewhere: it keeps its counts, and its boost claim ends (R352). -/
def State.leaveSlot (s : State) : State :=
  let s := s.endClaim s.curCore s.curSlot
  s.setSl s.sl.clear
/-- `yield` and `migrate` end the thread's boost claim however they end (R352). -/
def State.leaveClaim (s : State) : State := s.endClaim s.curCore s.curSlot
/-- A `yield` or `migrate` that leaves the thread where it is. -/
def State.stayPut (s : State) : State := s.leaveClaim.endWith codeDone 0
/-- A `yield` or `migrate` that is refused. -/
def State.refuseMove (s : State) (detail : BitVec 32) : State := s.leaveClaim.refuse detail
/-- The ending of a wait of `yield` and `migrate`. -/
def endMove (code : BitVec 8) (s : State) : State := s.leaveClaim.endPlain code
/-- The package of a yielding thread takes its place among the candidates (R261). -/
def State.packUp (s : State) : State :=
  let s := s.endWith codeDone 1
  match s.sl.task with
  | none => s
  | some k =>
    let pk := s.packageOf s.curCore k
    let (s, id) := s.fresh
    let s := s.leaveSlot
    s.setCo (s.co.putPackage pk id k.ctx s.instant)
/-- The two tests of `yield`: a candidate that ranks, and room for the package. -/
def State.yields (s : State) (k : Task) : Bool := s.rival s.curCore k.prio && s.co.recRoom 4
/-- `yield` (R261): its tests are made at the first attempt, and again once a transition that waited has ended. A thread that is halted by then keeps
its slot (R367, log 91). -/
def execYield (ds : Sel) (s : State) : Step :=
  let i := Instr.yield ds
  let s := s.sawHandlers s.curCore
  .next (match s.sl.group, s.sl.task with
    | some _, _ => s.refuseMove 2
    | none, none => s.endWith codeDone 0
    | none, some k =>
      let go (s : State) : State := if s.yields k && s.sl.halt.isNone then s.packUp else s.stayPut
      if s.sl.wait.isSome then s.transition i ds go endMove
      else if !s.yields k || s.sl.cb.isEmpty then go s
      else s.transition i ds go endMove)

/-- An attached follower detaches (R44, R265). -/
def State.detach (s : State) (c : Nat) (t : Fin 4) : State :=
  let sl := s.slotAt c t
  match sl.group with
  | some (.follower lc lt pos true) =>
    let s := s.setSlot c t { sl with fwd := [], group := some (.follower lc lt pos false) }
    (match (s.slotAt lc lt).group with
      | some (.leader ms p mask) =>
        s.setSlot lc lt { s.slotAt lc lt with group := some (.leader ms p (mask &&& ~~~ BitVec.twoPow 16 pos)) }
      | _ => s)
  | _ => s
/-- Whether an engine operation of a task still has a completion or an arrival to post, or stands in the core matrix unit (R263). -/
def State.enginesBusy (s : State) (c id : Nat) : Bool :=
  let x := s.coreAt c
  (x.cmu.any fun o => o.who.tid == id)
    || (x.chans.toList.any fun ch => ch.queue.any fun y => y.who.tid == id && (y.nte || y.bound.isSome))
    || (x.pending.any fun p => p.who.tid == id)
    || (s.colls.any fun g => g.members.any fun m => m.who.tid == id)
    || ((s.clusterAt (clusterOf c)).harp.queue.any fun o => o.who.tid == id && (o.ntf != 0 || o.waiting))
/-- The lease ends where a thread that issued commands under it leaves its core (R46, event 5). -/
def State.leaseLeft (s : State) (c id : Nat) : State :=
  match (s.clusterAt (clusterOf c)).harp.lease with
  | some l => if l.core == c && l.users.contains id then s.endLease (clusterOf c) else s
  | none => s
/-- The thread leaves for another core: a follower leaves its group and is from then on a task of its own (log 24). -/
def State.depart (s : State) (target : Nat) : State :=
  let s := s.endWith codeDone 1
  match s.sl.task with
  | none => s
  | some k =>
    let isFollower := s.sl.group.isSome
    let s := if isFollower then
        ((s.leaveGroup s.curCore s.curSlot).liveUp k.ctx s.th.lid).enterDq k.id k.ctx s.th.tstamp
      else s
    let pk := s.packageOf target k
    let s := s.leaseLeft s.curCore k.id
    let s := s.leaveSlot
    let x := s.coreAt target
    let s := s.setCore target { x with pkgHeld := x.pkgHeld + 4 }
    { s with transit := s.transit ++ [pk] }
/-- Whether a target has four free inbox entries for a context (R247, R277). -/
def State.packRoom (s : State) (ctx target : Nat) : Bool :=
  (s.coreAt target).ctx == some ctx && (s.coreAt target).recRoom 4
/-- `migrate` (R263). Its checks are made at its first attempt. A thread that is halted keeps its slot until it runs again, or its deadline ends the
wait (R367, log 91). -/
def execMigrate (a : Fin 16) (ds : Sel) (s : State) : Step :=
  let i := Instr.migrate a ds
  let n := BitVec.ofNat 13 (bitsOf (s.g a).toNat 0 13)
  let isLeader := match s.sl.group with | some (.leader ..) => true | _ => false
  let isDeleg := match s.sl.task with | some k => (match k.kind with | .deleg _ => true | _ => false) | none => false
  .next (match s.physOf n with
    | none => s.refuseMove 1
    | some target =>
      let first := s.sl.wait.isNone
      let outside := first && !s.inCoreSet s.curCtx n
      let s := if first && !isLeader then s.sawCore s.curCtx n else s
      if first && isLeader then s.refuseMove 2
      else if outside then s.refuseMove 3
      else if first && (!s.sl.inline.isEmpty || isDeleg) then s.refuseMove 4
      else if first && target = s.curCore then s.stayPut
      else
        let s := s.detach s.curCore s.curSlot
        let leave (s : State) : State := s.await i ds 2 (s.packRoom s.curCtx target && s.sl.halt.isNone) (fun s => s.depart target) endMove
        let drain (s : State) : State := s.await i ds 1 (!s.enginesBusy s.curCore s.curTask) leave endMove
        if s.sl.cb.isEmpty then drain s else s.transition i ds drain endMove)

/-- `MIGRATION_MESSAGE` (R45): the i-th package in flight reaches its target's inbox; the package of an annulled lineage is removed. -/
def execMigrationArrive (i : Nat) (s : State) : Step :=
  match s.transit[i]? with
  | none => .next s
  | some pk =>
    let x := s.coreAt pk.target
    let s := { s with transit := s.transit.eraseIdx i }
    let x := { x with pkgHeld := x.pkgHeld - 4 }
    if s.annulled pk.task.ctx pk.thread.lid then
      let s := s.setCore pk.target x
      .next ((s.endPackage pk).liveDown pk.task.ctx pk.thread.lid)
    else
      let (s, id) := s.fresh
      .next (s.setCore pk.target (x.putPackage pk id pk.task.ctx s.instant))

end Sys2Proof.Machine
end

