-- ==== Sys2Proof/Machine/Groups.lean ====
section
/-! DEFINITION. Vector groups (R43, R44, R264 to R266): `gang` and `rejoin`. -/

namespace Sys2Proof.Machine

/-! ## `gang` (R264) -/

/-- Die, row and half of a logical core: its logical course (R47). -/
def logCourse (n : Nat) : Nat := n / 2048 * 128 + n / 32 % 64 * 2 + (if 16 ≤ n % 32 then 1 else 0)
/-- Whether physical cores, in whatever order, stand in one contiguous run of one course (R43). -/
def contiguous (cs : List Nat) : Bool :=
  let low := cs.foldl min (cs.headD 0)
  (cs.all fun c => courseOf c == courseOf low) && (List.range cs.length).all fun i => cs.contains (low + i)
/-- The physical cores of a run that `gang` may name. -/
def State.gangRun (s : State) (first n : Nat) : Option (List Nat) :=
  if n < 2 || 16 < n || 8192 < first + n || logCourse first != logCourse (first + n - 1) then none
  else
    let cs := (List.range n).filterMap fun i => s.targetCore s.curCtx (BitVec.ofNat 13 (first + i))
    if cs.length = n && contiguous cs && cs.contains s.curCore then some cs else none
/-- What the look at a run does besides: the core set's bits are read. -/
def State.sawRun (s : State) (first n : Nat) : State :=
  (List.range n).foldl (fun s i => s.sawCore s.curCtx (BitVec.ofNat 13 (first + i))) s
/-- The slot of a core reserved for the current thread's group. -/
def State.reservedAt (s : State) (c : Nat) : Option (Fin 4) :=
  ([0, 1, 2, 3] : List (Fin 4)).find? fun t => (s.slotAt c t).reserved == some (s.curCore, s.curSlot)
/-- The lowest free slot of a core, other than slot 3 while its server is enabled (R36). -/
def State.freeSlot (s : State) (c : Nat) : Option (Fin 4) :=
  let x := s.coreAt c
  if x.ctx != some s.curCtx then none
  else ([0, 1, 2, 3] : List (Fin 4)).find? fun t =>
    let sl := x.slots.get t
    sl.task.isNone && sl.reserved.isNone && x.switches.isEmpty && !(t == 3 && x.server)
/-- A slot reserved at each other member core that has one free. -/
def State.reserveAll (s : State) (cs : List Nat) : State :=
  cs.foldl (fun s c =>
    if c = s.curCore || (s.reservedAt c).isSome then s
    else match s.freeSlot c with
      | some t => s.setSlot c t { s.slotAt c t with reserved := some (s.curCore, s.curSlot) }
      | none => s) s
/-- The ending of `gang`'s wait: the reservations are released. -/
def endGang (code : BitVec 8) (s : State) : State := (s.dropClaims s.curCore s.curSlot).endPlain code
/-- A follower's slot filled with the leader's thread as it stood before the unit; it has its own counts (log 24). -/
def State.takeMember (s : State) (c : Nat) (t : Fin 4) (pos : Nat) (th : Thread) (k : Task) (d : Dict) : State :=
  let (s, id) := s.fresh
  let (s, tid) := s.fresh
  let sl := s.slotAt c t
  let s := s.touch c
  s.setSlot c t { sl.clear with
    thread := { th with pc := th.pc + 8, children := 0, parent := none, tid := tid }
    v := Vector.replicate 16 0, m := Vector.replicate 8 0, dict := d, dictCtx := some k.ctx, reserved := none
    task := some { k with id := id, kind := .plain, spec := false, ran := 0, image := none }, tseq := sl.tseq + 1
    group := some (.follower s.curCore s.curSlot pos true) }
/-- The members admitted: the leader's active handle is reloaded in each (R78); a failed reload frees the slot. -/
def State.admitAll (s : State) (th : Thread) (k : Task) (h : BitVec 32) :
    Nat → List Nat → State × List (Nat × (Nat × Fin 4))
  | _, [] => (s, [])
  | pos, c :: r =>
    if c = s.curCore then
      let (s', ms) := s.admitAll th k h (pos + 1) r
      (s', (pos, (s.curCore, s.curSlot)) :: ms)
    else match s.reservedAt c with
      | none => s.admitAll th k h (pos + 1) r
      | some t =>
        let sl := s.slotAt c t
        let d := sl.dictOf k.ctx
        let s := s.sawReload k.ctx d h
        match s.reloadDict k.ctx d h with
        | .error _ => (s.setSlot c t { sl with reserved := none }).admitAll th k h (pos + 1) r
        | .ok d' =>
          let (s', ms) := (s.takeMember c t pos th k d').admitAll th k h (pos + 1) r
          (s', (pos, (c, t)) :: ms)
/-- The mask of positions. -/
def maskOf (ps : List Nat) : BitVec 16 := ps.foldl (fun acc p => acc ||| BitVec.twoPow 16 p) 0
/-- What `gang` and `rejoin` write: the mask above the position. -/
def maskWord (mask : BitVec 16) (pos : Nat) : Word := w64 (mask.toNat * 65536 + pos)
/-- The group formed once every member core holds a reserved slot. -/
def State.formGroup (s : State) (d : Fin 16) (cs : List Nat) : State :=
  match s.sl.task with
  | none => s
  | some k =>
    let th := s.th
    let (s, ms) := s.admitAll th k s.sl.dict.activeBank.handle 0 cs
    if ms.length < 2 then s.refuse 3
    else
      let mask := maskOf (ms.map fun m => m.1)
      let mine := (ms.find? fun m => m.2 == (s.curCore, s.curSlot)).elim 0 fun m => m.1
      let s := ms.foldl (fun s m =>
        if m.2 == (s.curCore, s.curSlot) then s
        else
          let sl := s.slotAt m.2.1 m.2.2
          s.setSlot m.2.1 m.2.2 { sl with
            thread := { sl.thread.setG d (maskWord mask m.1) with ws := wsWord codeDone (mask.setWidth 32) } }) s
      let s := (s.writeG d (maskWord mask mine)).endWith codeDone (mask.setWidth 32)
      s.setSl { s.sl with group := some (.leader (ms.map fun m => m.2) mine mask) }
/-- The transition of `gang`, then the wait for a slot at every member core. -/
def State.gangWait (s : State) (d a : Fin 16) (ds : Sel) (cs : List Nat) : State :=
  let i := Instr.gang d a ds
  s.transition i ds (fun s =>
    let s := s.reserveAll cs
    s.await i ds 1 (cs.all fun c => c == s.curCore || (s.reservedAt c).isSome) (fun s => s.formGroup d cs) endGang) endGang
/-- `gang`: its operands are judged once, before its wait (R264). -/
def execGang (d a : Fin 16) (ds : Sel) (s : State) : Step :=
  let w := (s.g a).toNat
  .next (
    if s.sl.wait.isSome then
      s.gangWait d a ds ((List.range (bitsOf w 16 5)).filterMap fun i => s.physOf (BitVec.ofNat 13 (bitsOf w 0 13 + i)))
    else
      let run := s.gangRun (bitsOf w 0 13) (bitsOf w 16 5)
      let s := s.sawRun (bitsOf w 0 13) (bitsOf w 16 5)
      match run with
      | none => s.refuse 1
      | some cs => if s.sl.group.isSome then s.refuse 2 else s.gangWait d a ds cs)

/-! ## `rejoin` (R266) -/

/-- The `rejoin` a slot waits in, with its destination. -/
def Slot.rejoining (sl : Slot) : Option (Fin 16) :=
  match sl.wait with
  | some w => (match w.instr with | .rejoin d _ => some d | _ => none)
  | none => none
/-- A detached follower, named by its slot, is attached again: its `rejoin` completes, and it holds for the leader's next unit. -/
def State.reattach (s : State) (c : Nat) (t : Fin 4) (d : Fin 16) : State :=
  match (s.slotAt c t).group with
  | some (.follower lc lt pos _) =>
    (match (s.slotAt lc lt).group with
      | some (.leader ms p mask) =>
        let mask' := mask ||| BitVec.twoPow 16 pos
        let s := s.setSlot lc lt { s.slotAt lc lt with group := some (.leader ms p mask') }
        let s := s.asSlot c t fun s => (s.writeG d (maskWord mask' pos)).endWith codeDone 0
        s.setSlot c t { s.slotAt c t with fwd := [], group := some (.follower lc lt pos true) }
      | _ => s)
  | _ => s
/-- The detached followers of the current leader. -/
def State.detachedOf (s : State) (ms : List (Nat × Fin 4)) : List (Nat × Fin 4) :=
  ms.filter fun m => match (s.slotAt m.1 m.2).group with
    | some (.follower _ _ _ at_) => !at_
    | _ => false
/-- Every detached follower that waits at a `rejoin` at the leader's address attached again. -/
def State.gatherIn (s : State) (ms : List (Nat × Fin 4)) : State :=
  (s.detachedOf ms).foldl (fun s m =>
    let sl := s.slotAt m.1 m.2
    match sl.rejoining with
    | some d => if sl.thread.pc = s.th.pc then s.reattach m.1 m.2 d else s
    | none => s) s
/-- The positions of some members. -/
def State.positions (s : State) (ms : List (Nat × Fin 4)) : List Nat :=
  ms.filterMap fun m => match (s.slotAt m.1 m.2).group with
    | some (.follower _ _ pos _) => some pos
    | _ => none
/-- The mask and the leader's ws told to the unit that an attached follower still holds; one that holds none takes the mask at once. -/
def tellRejoin (d : Fin 16) (mask : BitVec 16) (pos : Nat) (ws : Word) (sl : Slot) : Slot :=
  if sl.fwd.isEmpty then { sl with thread := sl.thread.setG d (maskWord mask pos) }
  else { sl with fwd := sl.fwd.map fun f => if f.next.isNone then { f with rejoined := some (mask, ws) } else f }
/-- The end of the leader's `rejoin`. -/
def State.rejoinEnd (s : State) (d : Fin 16) (code : BitVec 8) : State :=
  match s.sl.group with
  | some (.leader ms p mask) =>
    let away := maskOf (s.positions (s.detachedOf ms))
    let detail : BitVec 32 := if code = codeDone then 0 else away.setWidth 32
    let s := ms.foldl (fun s m =>
      match (s.slotAt m.1 m.2).group with
      | some (.follower _ _ pos true) => s.setSlot m.1 m.2 (tellRejoin d mask pos (wsWord code detail) (s.slotAt m.1 m.2))
      | _ => s) s
    (s.writeG d (maskWord mask p)).endWith code detail
  | _ => s.endPlain code
/-- The ending of a `rejoin` wait: the leader's, or a detached follower's own. -/
def endRejoin (d : Fin 16) (code : BitVec 8) (s : State) : State :=
  match s.sl.group with
  | some (.leader ..) => s.rejoinEnd d code
  | _ => s.endPlain code
/-- `rejoin`. -/
def execRejoin (d : Fin 16) (ds : Sel) (s : State) : Step :=
  let i := Instr.rejoin d ds
  .next (match s.sl.group with
    | none => s.endWith codeDone 0
    | some (.leader ms _ _) =>
      let s := s.gatherIn ms
      s.await i ds 1 (s.detachedOf ms).isEmpty (fun s => s.rejoinEnd d codeDone) (endRejoin d)
    | some (.follower _ _ pos true) =>
      match s.sl.fwd with
      | f :: _ => (match f.rejoined with
        | some (mask, ws) =>
          let s := s.writeG d (maskWord mask pos)
          (s.setTh { s.th with ws := ws }).complete
        | none => s)
      | [] => s
    | some (.follower lc lt _ false) =>
      let lead := s.slotAt lc lt
      if lead.rejoining.isSome && lead.thread.pc == s.th.pc then s.reattach s.curCore s.curSlot d
      else s.await i ds 1 false (fun s => s) (endRejoin d))

end Sys2Proof.Machine
end

