-- ==== Sys2Proof/Machine/Nodes.lean ====
section
/-! DEFINITION. Graph nodes (R267 to R269), route tags (R270) and lineage instructions (R271 to R273), with the expiry step (R24). -/

namespace Sys2Proof.Machine

/-! ## Graph nodes -/

/-- The node limit of a die (R16). -/
def nodeMax : Nat := 262144
/-- A node's handle. -/
def State.nodeHandle (s : State) (d i : Nat) : BitVec 32 :=
  BitVec.ofNat 32 (((tget (s.dieAt d).gens i).getD 0).toNat * 2 ^ 20 + d * 2 ^ 18 + i)
/-- The divider of a record that joins the ready list (R353). -/
def State.dividerFor (s : State) (q : Queued) : Nat :=
  let est := match s.ctx? q.ctx with
    | some x => (match tget x.kernels (recKHandle q.record).toNat with | some k => k.est | none => 0)
    | none => 0
  let slack : Nat := (s.effExpiry q.ctx (recLid q.record)).toNat - s.instant.toNat
  if recPrio q.record = 3 then 1
  else ([8, 4, 2].find? fun d => decide (est * d ≤ 700 * slack / 4000)).getD 1
/-- A node whose counter is 0 joins its die's ready list. -/
def State.makeReady (s : State) (d i : Nat) : State :=
  let x := s.dieAt d
  match tget x.nodes i with
  | some n =>
    let task := { n.task with divider := s.dividerFor n.task }
    s.setDie d { x with nodes := tset x.nodes i { n with ready := true, task := task }, ready := x.ready ++ [i] }
  | none => s
/-- A node created, and ready at once where its counter is 0. -/
def State.newNode (s : State) (d : Nat) (r : Rec) (target : BitVec 13) (count : BitVec 16) (i : Nat) : State × BitVec 32 :=
  let (s, id) := s.fresh
  let x := s.dieAt d
  let n : Node := ⟨⟨r, s.curCtx, id, none, s.instant, 0, 1⟩, count, target, false⟩
  let s := s.setDie d { x with nodes := tset x.nodes i n }
  let s := (s.enterDq id s.curCtx (recTstamp r)).liveUp s.curCtx (recLid r)
  let h := s.nodeHandle d i
  (if count = 0 then s.makeReady d i else s, h)
/-- The wait of `node.new` for a free node of its die, with the record read: the lowest free one is taken (log 65). -/
def State.nodeWait (s : State) (i : Instr) (ds : Sel) (d : Fin 16) (r : Rec) (target : BitVec 13) (count : BitVec 16) : State :=
  let die := dieOf s.curCore
  let nodes := (s.dieAt die).nodes
  match if nodes.length < nodeMax then tfree nodes (nodes.length + 1) else none with
  | some n =>
    let (s, h) := (s.beginWait i ds).newNode die r target count n
    (s.writeG d (zext64 h)).endWith codeDone 0
  | none => s.holdWait { s.waitOf i ds with stage := 1, item := r } State.endPlain
/-- `node.new` (R268): the record is read and judged once, before its wait. -/
def execNodeNew (d a t : Fin 16) (ds : Sel) (count : BitVec 16) (s : State) : Step :=
  let i := Instr.nodeNew d a t ds count
  let target := BitVec.ofNat 13 (bitsOf (s.g t).toNat 0 13)
  .next (match s.sl.wait.filter fun w => w.stage == 1 with
    | some w => s.nodeWait i ds d w.item target count
    | none => s.transition i ds (fun s =>
        let r : Rec := BitVec.ofNat 512 (leNat (s.bufLoad .load .a (s.g a).toNat 64))
        let absent := (s.targetCore s.curCtx target).isNone
        let s := s.sawCore s.curCtx target
        if absent then s.refuse 1
        else if s.annulled s.curCtx (recLid r) then s.refuse 2
        else s.nodeWait i ds d r target count) State.endPlain)

/-- `node.dec` (R269). -/
def execNodeDec (a : Fin 16) (ds : Sel) (s : State) : Step :=
  let i := Instr.nodeDec a ds
  .next (s.barStep i ds (fun r s => s.endWith codeDone r.detail) fun s =>
    s.transition i ds (fun s => s.request i ds (.nodeDec ((s.g a).setWidth 32)) endBar) State.endPlain)
/-- The decrement at the node: a node of another context, a stale handle or a counter at 0 refuses it. -/
def State.decNode (s : State) (ctx : Nat) (h : BitVec 32) : State × RemoteAns :=
  let d := bitsOf h.toNat 18 2
  let i := bitsOf h.toNat 0 18
  let x := s.dieAt d
  match tget x.nodes i with
  | some n =>
    if ((tget x.gens i).getD 0).toNat = bitsOf h.toNat 20 12 && n.task.ctx = ctx && n.counter != 0 then
      let c := n.counter - 1
      let s := s.setDie d { x with nodes := tset x.nodes i { n with counter := c } }
      (if c = 0 then s.makeReady d i else s, ⟨0, codeDone, c.setWidth 32⟩)
    else (s, ⟨0, codeRefused, 1⟩)
  | none => (s, ⟨0, codeRefused, 1⟩)
/-- Whether every entry of a thread for this chip has been applied (R269). -/
def State.applied (s : State) (owner : Nat) : Bool := s.op.all fun e => !(e.owner == owner && e.gran.peer.isNone)
/-- `NODE_DECREMENT_STEP`: the decrement that a slot waits for, or one whose wait has ended. -/
def execNodeStep (c : Nat) (t : Fin 4) (s : State) : Step :=
  let sl := s.slotAt c t
  match sl.remote, sl.task with
  | some ⟨.nodeDec h, none⟩, some k =>
    if s.applied k.id then
      let (s, r) := s.decNode k.ctx h
      .next (s.setSlot c t { s.slotAt c t with remote := some ⟨.nodeDec h, some r⟩ })
    else .next s
  | _, _ =>
    match sl.orphans.find? fun o => match o.2 with | .nodeDec _ => s.applied o.1 | _ => false with
    | some (id, .nodeDec h) =>
      let s := s.setSlot c t { sl with orphans := sl.orphans.erase (id, .nodeDec h) }
      .next (match s.homeCtx c with | some ctx => (s.decNode ctx h).1 | none => s)
    | _ => .next s
/-- Where a ready node's record may go now: a core resident for its context, with a free inbox entry (R247, R277). -/
def State.nodeCore (s : State) (n : Node) : Option Nat :=
  match s.physOf n.target with
  | none => none
  | some c => if (s.coreAt c).ctx == some n.task.ctx && (s.coreAt c).recRoom 1 then some c else none
/-- Whether a node on the ready list leaves it now: its record is placed, or removed with its lineage. -/
def State.nodeGoes (s : State) (die i : Nat) : Bool :=
  match tget (s.dieAt die).nodes i with
  | none => true
  | some n => s.annulled n.task.ctx (recLid n.task.record) || (s.nodeCore n).isSome
/-- `NODE_RECORD_PLACE` (R247, R267): of the nodes on the ready list, in the order their counters reached zero, the first whose own target has a
free inbox entry places its record, and is freed; a record whose lineage is annulled is removed. -/
def execNodePlace (die : Nat) (s : State) : Step :=
  let x := s.dieAt die
  match x.ready.find? fun i => s.nodeGoes die i with
  | none => .next s
  | some i =>
    match tget x.nodes i with
    | none => .next (s.setDie die { x with ready := x.ready.erase i })
    | some n =>
      let ctx := n.task.ctx
      let l := recLid n.task.record
      .next (if s.annulled ctx l then ((s.freeNode die i).leaveDq n.task.id).liveDown ctx l
        else match s.nodeCore n with
          | none => s
          | some c => (s.freeNode die i).setCore c ((s.coreAt c).putIn (.record { n.task with ready := s.instant }) ctx s.instant).1)

/-! ## Route tags (R270) -/

def tagBit (x : Word) : Nat := bitsOf x.toNat 0 8
/-- `tag.en`. -/
def execTagEn (a : Fin 16) (s : State) : Step :=
  let s' := s.setCo { s.co with tagen := s.co.tagen ||| BitVec.twoPow 256 (tagBit (s.g a)) }
  .next s'.complete
/-- `tag.dis`. -/
def execTagDis (a : Fin 16) (s : State) : Step :=
  let s' := s.setCo { s.co with tagen := s.co.tagen &&& ~~~ BitVec.twoPow 256 (tagBit (s.g a)) }
  .next s'.complete
/-- `tag.pend`. -/
def execTagPend (d a : Fin 16) (s : State) : Step :=
  .next (s.writeG d (w64 (s.co.tagpend.getLsbD (tagBit (s.g a))).toNat)).complete
/-- A cleared entry of a core's inbox forwarded inside a fault record of cause 18. While the die's pool has no place it waits where it stands, and
waits for no handler or `recv` any more (R270, R300). -/
def State.clearEntry (s : State) (c : Nat) (e : Nat × InSlot) : State :=
  let m := e.2.entry.msg
  match s.forwardItem e.2.ctx 18 c 0 (msgTag m).toNat 0 3 (msgLid m) m with
  | some s => s.setCore c { s.coreAt c with inbox := terase (s.coreAt c).inbox e.1 }
  | none => s.setCore c { s.coreAt c with inbox := tset (s.coreAt c).inbox e.1 { e.2 with cleared := true } }
/-- Every entry of a list cleared. -/
def State.clearAll (s : State) (c : Nat) (l : List (Nat × InSlot)) : State := l.foldl (fun s e => s.clearEntry c e) s
/-- The cleared entries that still wait, of every core, forwarded where there is room. -/
def State.forwardCleared (s : State) : State :=
  s.cores.foldl (fun s x => s.clearAll x.1 (x.2.inbox.filter fun e => e.2.cleared)) s
/-- `tag.clr` (R270, R282): RD counts every entry that it clears. -/
def execTagClr (d a : Fin 16) (s : State) : Step :=
  if s.th.priv = 0 then .next s.privFault
  else
    let l := s.co.waiting s.curCtx (BitVec.ofNat 8 (tagBit (s.g a)))
    .next ((s.clearAll s.curCore l).writeG d (w64 l.length)).complete

/-! ## Lineages (R271 to R273) -/

/-- A lineage made; its parent counts one more. -/
def State.makeLineage (s : State) (ctx : Nat) (l : BitVec 20) (e : Word) (parent : Option (BitVec 20)) (clin : BitVec 2) : State :=
  let s := s.setLineage ctx l ⟨e, parent, clin, 0, .live, none, [], none, none⟩
  match parent with
  | some p => s.liveUp ctx p
  | none => s
/-- The task moves to a lineage of its own making (R271). -/
def State.adopt (s : State) (l : BitVec 20) : State :=
  let s := s.moveCount s.curCtx s.th.lid l
  s.setTh { s.th with lid := l }
/-- `lnew`. -/
def execLnew (d e rp : Fin 16) (pm : ParentMode) (cl : BitVec 2) (em : ExpiryMode) (adopt : Bool) (s : State) : Step :=
  let ctx := s.curCtx
  let par : Option (BitVec 20) := match pm with
    | .own => some s.th.lid
    | .reg => some ((s.g rp).setWidth 20)
    | .root => none
  let bound := match par with | some p => s.effExpiry ctx p | none => s.effExpiry ctx s.th.lid
  let want := match em with
    | .abs => s.g e
    | .rel => satAdd s.instant (s.g e)
    | .inherit => bound
  let dead := match par with | some p => s.annulled ctx p | none => false
  .next (
    if dead then s.refuse 2
    else
      let clamped := par.isSome && decide (bound < want)
      let x := if clamped then bound else want
      if x ≤ s.instant then s.refuse 3
      else match s.freeLid ctx with
        | none => s.refuse 1
        | some l =>
          let s := s.makeLineage ctx l x par cl
          let s := s.writeG d (zext64 l)
          let s := if adopt then s.adopt l else s
          s.endWith codeDone (if clamped then 1 else 0))
/-- `lext`. -/
def execLext (d a b : Fin 16) (s : State) : Step :=
  let ctx := s.curCtx
  let l : BitVec 20 := (s.g a).setWidth 20
  .next (
    if l = 0 then s.refuse 3
    else match s.lineage? ctx l with
      | none => s.refuse 1
      | some x =>
        if s.annulled ctx l then s.refuse 2
        else
          let n := match x.parent with
            | some p => let e := s.effExpiry ctx p; if e < s.g b then e else s.g b
            | none => s.g b
          let new := if x.expiry < n then n else x.expiry
          ((s.setLineage ctx l { x with expiry := new }).writeG d new).endWith codeDone 0)
/-- `lannul`: its tests are made once, before its transition (R273). The thread itself is annulled with its own lineage or an ancestor. -/
def execLannul (a : Fin 16) (s : State) : Step :=
  let ctx := s.curCtx
  let l : BitVec 20 := (s.g a).setWidth 20
  let first := s.sl.wait.isNone
  .next (
    if first && l == 0 then s.refuse 3
    else if first && (s.lineage? ctx l).isNone then s.refuse 1
    else if first && s.annulled ctx l then s.endWith codeDone 1
    else s.transition (.lannul a) .cap (fun s => (s.endWith codeDone 0).annulLineage ctx l) State.endPlain)

/-- `LINEAGE_EXPIRY` (R24, R25): a lineage whose effective expiry the local instant has reached leaves LIVE, and its work is annulled. -/
def execLineageExpiry (k : Nat) (l : BitVec 20) (s : State) : Step :=
  match s.lineage? k l with
  | none => .next s
  | some _ =>
    if s.effExpiry k l ≤ s.instant && l != 0 then
      let s := s.annulSweep
      let s := (s.lidsOf k).foldl (fun s j =>
        if isUnder s.lineages k l (s.lineages.length + 1) j && s.effExpiry k j ≤ s.instant then s.leaveLive k j .expired else s) s
      .next s
    else .next s

end Sys2Proof.Machine
end

