-- ==== Sys2Proof/Machine/MatrixSum.lean ====
section
/-! DEFINITION. The arithmetic of the matrix engines (R115, R116, R156, R161 to R163, R182): formats, exact products, and the column sum in
its one order. -/

namespace Sys2Proof.Machine

/-! ## Formats (R156) -/

/-- A class of formats: 0 8-bit, 1 4-bit, 2 16-bit; the operand types, and whether the accumulator is `.w`. -/
structure MacFmt where
  cls : Fin 3
  ta : Ty
  tb : Ty
  isW : Bool
  deriving DecidableEq, Repr
def isByteInt (t : Ty) : Bool := t == .b || t == .zb
/-- Whether a type is of the 8-bit class. -/
def isByteTy (t : Ty) : Bool := isByteInt t || t == .e4m3 || t == .e5m2
/-- The class that format registers name. -/
def macFmt (fmta fmtb fmtc : BitVec 4) : Option MacFmt :=
  match Ty.ofCode fmta.toNat, Ty.ofCode fmtb.toNat, Ty.ofCode fmtc.toNat with
  | some a, some b, some c =>
    if isByteTy a && isByteTy b then
      (if c == .f32 then some ⟨0, a, b, false⟩
       else if c == .w && isByteInt a && isByteInt b then some ⟨0, a, b, true⟩ else none)
    else if a == .q4 && b == .q4 && c == .f32 then some ⟨1, a, b, false⟩
    else if a == .bf16 && b == .bf16 && c == .f32 then some ⟨2, a, b, false⟩
    else none
  | _, _, _ => none
/-- The class of a weight type alone (R171, R174). -/
def weightCls (fmtb : BitVec 4) : Option (Fin 3) :=
  match Ty.ofCode fmtb.toNat with
  | some b => if isByteTy b then some 0 else if b == .q4 then some 1 else if b == .bf16 then some 2 else none
  | none => none
/-- The bytes that n elements of a class take (R160). -/
def clsBytes (cls : Fin 3) (n : Nat) : Nat :=
  match cls with
  | 0 => n
  | 1 => n / 2
  | 2 => 2 * n

/-! ## Elements (R111, R113, R115, R116, R160) -/

/-- `Code` of R116, doubled so that every code is whole. -/
def code2 (ty c : Nat) : Int :=
  let m := c % 8
  let neg := decide (8 ≤ c)
  let mag (l : List Int) : Int := let v := l.getD m 0; if neg then -v else v
  match ty with
  | 0 => 2 * (if neg then (c : Int) - 16 else c)
  | 1 => mag [0, 1, 2, 3, 4, 6, 8, 12]
  | 2 => mag [0, 2, 4, 8, 16, 32, 64, 128]
  | _ => mag [0, 2, 4, 6, 8, 12, 16, 24]
/-- Element k of a line of elements that starts at an offset: its pattern, or its 4-bit code. -/
def elemAt (cls : Fin 3) (byte : Nat → Byte) (line k : Nat) : Nat :=
  match cls with
  | 0 => (byte (line + k)).toNat
  | 1 => bitsOf (byte (line + k / 2)).toNat (4 * (k % 2)) 4
  | 2 => (byte (line + 2 * k)).toNat + 256 * (byte (line + 2 * k + 1)).toNat
/-- The exact value of an element of the 8-bit and 16-bit classes. -/
def elemVal (ty : Ty) (x : Nat) : FVal :=
  if ty.isFloat then (ffmtOf ty).val x
  else let v := readInt ty (w64 x); .fin (decide (v < 0)) v.natAbs 0
/-- The exact product; NaN for a NaN operand and for 0 × ∞ (R163). -/
def mulExact (a b : FVal) : FVal :=
  match a, b with
  | .fin s1 m1 e1, .fin s2 m2 e2 => .fin (s1 != s2) (m1 * m2) (e1 + e2)
  | .nan g, _ => .nan g
  | _, .nan g => .nan g
  | _, _ => if a.isZero || b.isZero then .nan false else .inf (a.sign != b.sign)

/-! ## The sum (R161 to R163) -/

def f32 : FFmt := ffmtOf .f32
/-- `Add` for FMTC `.f32`: nearest-even; a NaN sets NV, and an exact zero sum is +0. -/
def addF (s : Nat) (x : FVal) : FRes :=
  match f32.val s, x with
  | .fin s1 m1 e1, .fin s2 m2 e2 =>
    let lo := if e1 < e2 then e1 else e2
    let v := alignInt s1 m1 e1 lo + alignInt s2 m2 e2 lo
    if v = 0 then (0, 0) else f32.round modeNe false (decide (v < 0)) v.natAbs lo
  | .inf s1, .inf s2 => if s1 == s2 then (f32.inf s1, 0) else (f32.nan, flagNV)
  | .inf s1, .fin .. => (f32.inf s1, 0)
  | .fin .., .inf s2 => (f32.inf s2, 0)
  | _, _ => (f32.nan, flagNV)
/-- `Add` by FMTC: for `.w` modulo 2^32 with no flag (R162). -/
def addAcc (isW : Bool) (s : Nat) (x : FVal) : FRes :=
  if isW then
    match x with
    | .fin sg m _ => (intMod ((s : Int) + (if sg then -(m : Int) else m)) % 2 ^ 32, 0)
    | _ => (s, 0)
  else addF s x
/-- A running sum: the pattern, the flags raised, and the blocks skipped. -/
structure MacSum where
  val : Nat
  flags : BitVec 5
  skips : Nat
  deriving DecidableEq, Repr
/-- The accumulator element as an exact value, to be added. -/
def accVal (isW : Bool) (x : Nat) : FVal :=
  if isW then let v := readInt .w (w64 x); .fin (decide (v < 0)) v.natAbs 0 else f32.val x
def MacSum.add (isW : Bool) (s : MacSum) (x : FVal) : MacSum :=
  let r := addAcc isW s.val x
  ⟨r.1, s.flags ||| r.2, s.skips⟩
/-- The exact value of a block of 32 codes under its scale bytes. -/
def blockVal (a b : Nat → Nat) (sa sb : Nat) (k0 : Nat) : FVal :=
  let v : Int := (List.range 32).foldl (fun acc i => acc + code2 (sa / 64) (a (k0 + i)) * code2 (sb / 64) (b (k0 + i))) 0
  .fin (decide (v < 0)) v.natAbs (((sa % 64 + sb % 64 : Nat) : Int) - 82)
/-- The column sum over elements k0 to k0 + n − 1, from +0; with a knob, blocks below its threshold are skipped (R182). -/
def chunkSum (f : MacFmt) (knob : Nat) (a b sa sb : Nat → Nat) (k0 n : Nat) : MacSum :=
  if f.cls = 1 then
    (List.range (n / 32)).foldl (fun s i =>
      let blk := k0 / 32 + i
      if 0 < knob && decide (sa blk % 64 + sb blk % 64 < 8 * knob + 4) then ⟨s.val, s.flags, s.skips + 1⟩
      else s.add false (blockVal a b (sa blk) (sb blk) (32 * blk))) ⟨0, 0, 0⟩
  else
    (List.range n).foldl (fun s i =>
      s.add f.isW (mulExact (elemVal f.ta (a (k0 + i))) (elemVal f.tb (b (k0 + i))))) ⟨0, 0, 0⟩
/-- One output of R161 over K elements in chunks of 256. -/
def macOut (f : MacFmt) (knob : Nat) (a b sa sb : Nat → Nat) (kk acc : Nat) : MacSum :=
  (List.range ((kk + 255) / 256)).foldl (fun s j =>
    let c := chunkSum f knob a b sa sb (256 * j) (min 256 (kk - 256 * j))
    let r := addAcc f.isW s.val (accVal f.isW c.val)
    ⟨r.1, s.flags ||| c.flags ||| r.2, s.skips + c.skips⟩) ⟨acc, 0, 0⟩

end Sys2Proof.Machine
end

