-- ==== Sys2Proof/Machine/Matrix.lean ====
section
/-! DEFINITION. The matrix engines (R155 to R185): acceptance on the core matrix unit and the harp, the lease, and the steps that run, complete
and cancel their operations. -/

namespace Sys2Proof.Machine

/-! ## Bytes behind engine operands -/

/-- Device pages pinned for a range (R179): (virtual page, peer, physical page). -/
def State.pinPages (s : State) (ctx : Nat) (priv : BitVec 2) (va : Word) (n : Nat) (need : Need) :
    Except (Nat × Word) (List (Nat × Option Nat × Nat)) :=
  match s.translateRange ctx priv va n need with
  | .error e => .error e
  | .ok ps => .ok (((pieces (n / 4096 + 2) va.toNat n).zip ps).map fun e => (e.1.1 / 4096, e.2.1, e.2.2.1 / 4096))
/-- The place of byte i of a pinned range. -/
def pinned (va : Word) (pages : List (Nat × Option Nat × Nat)) (i : Nat) : Option Nat × Nat :=
  let a := va.toNat + i
  match pages.find? fun p => p.1 == a / 4096 with
  | some p => (p.2.1, p.2.2 * 4096 + a % 4096)
  | none => (none, 0)
/-- A byte at a physical place as an engine of a core and context sees it. The spec gives a harp command whose pinned range lies at a peer no outcome
where the link is dead or the peer refuses: its reads are free bytes, its writes are sent, and it completes (log 116). -/
def State.physByteOf (s : State) (core ctx : Nat) (a : Option Nat × Nat) : Byte :=
  match a.1 with
  | some p => Config.peerByte s.tick p a.2
  | none => if isWindow a.2 then s.winByte core ctx a.2 else mget s.mem a.2
/-- A byte of a harp operand. -/
def State.harpByte (s : State) (who : Issuer) (m : HarpMem) (i : Nat) : Byte :=
  match m with
  | .array snap off => mget snap ((off + i) % arrSize)
  | .device va pages => s.physByteOf who.core who.ctx (pinned va pages i)
/-- The places of device memory behind n bytes of a harp operand from byte lo on. -/
def HarpMem.places (m : HarpMem) (lo n : Nat) : List (Option Nat × Nat) :=
  match m with
  | .array .. => []
  | .device va pages => (List.range n).map fun i => pinned va pages (lo + i)
/-- Bytes written at physical places by an engine or by firmware, granule by granule (R199). -/
def State.putPhys (s : State) (ctx : Nat) (places : List (Option Nat × Nat)) (bytes : List Byte) : State :=
  ((places.zip bytes).foldl (fun l e => putByte l e.1 e.2) []).foldl (fun s (e : GranStore) =>
    match e.gran.peer with
    | some p => { s with sent := s.sent ++ [PeerOut.item ctx p (.store e.gran.num e.bytes e.mask)] }.abortPeer ctx p e.gran.num none
    | none =>
      if isWindow (64 * e.gran.num) then s.winGran ctx e.gran.num e.bytes e.mask
      else s.writeGran e.gran.num e.bytes e.mask none) s
/-- Addresses of the pages of a range. -/
def pageVas (va : Word) (n : Nat) : List Word := (pieces (n / 4096 + 2) va.toNat n).map fun p => w64 p.1
/-- The walks of a range's pages taken (R192, R283). -/
def State.walkedOver (s : State) (ctx : Nat) (va : Word) (n : Nat) : State :=
  s.recall ((pageVas va n).flatMap fun a => s.walksFor ctx a)
/-- Bytes written through a context's translation at supervisor level (R184, R291). -/
def State.vwrite (s : State) (ctx : Nat) (va : Word) (bytes : List Byte) : Except (Nat × Word) State :=
  match s.translateRange ctx 1 va bytes.length needW with
  | .error e => .error e
  | .ok ps => .ok ((s.walkedOver ctx va bytes.length).putPhys ctx (byteList ps) bytes)
/-- Bytes of the array buffer written from an offset on, modulo its size. -/
def arrWrite (m : Memory) : Nat → List Byte → Memory
  | _, [] => m
  | off, b :: r => arrWrite (mset m (off % arrSize) b) (off + 1) r

/-! ## Completion of an operation (R170) -/

/-- The payload of a completion. -/
def matrixPayload (skips eknob skipMap : Nat) (flags : BitVec 5) : Nat :=
  skips % 2 ^ 32 + eknob * 2 ^ 32 + skipMap * 2 ^ 64 + flags.toNat * 2 ^ 320
/-- The arrival and the completion entry that NTF asks for (R165, R170); an arrival that is discarded makes CSTAT 4 (R222). With no entry
the operation counts in its lineage no more. -/
def State.notify (s : State) (who : Issuer) (ntf : BitVec 2) (ctag : BitVec 8) (boff : BitVec 9) (cstat : BitVec 8)
    (payload : Nat) (cmuId harpId : Option Nat) : State :=
  let (s, ok) := if ntf.getLsbD 1 then s.engineArrive who boff else (s, true)
  let cstat := if ok || cstat != 0 then cstat else 4
  if ntf.getLsbD 0 then
    s.postCompletion who.core who (mkMsg ctag 48 (s.logOf who.core) s.chip who.lid 1 cstat payload) cmuId harpId
  else s.liveDown who.ctx who.lid
/-- Whether a completion entry finds room now. -/
def State.postRoom (s : State) (c : Nat) : Bool := (s.coreAt c).msgRoom && (s.coreAt c).pending.isEmpty

/-! ## Acceptance (R172) -/

def endHarp (code : BitVec 8) (s : State) : State := (s.dropClaims s.curCore s.curSlot).endPlain code
/-- The transition where the command needs it, the lease, then a place in the queue. -/
def State.waitAccept (s : State) (i : Instr) (ds : Sel) (direct : Bool) (lease : (State → State) → State → State)
    (admits : State → Bool) (accept : State → State) : State :=
  let place (s : State) : State := s.await i ds 2 (admits s) accept endHarp
  let go (s : State) : State := lease place s
  if direct then s.transition i ds go State.endPlain else go s
/-- No lease is needed on the core matrix unit. -/
def noLease (go : State → State) (s : State) : State := go s

/-! ## The core matrix unit (R164 to R169) -/

/-- Whether the unit admits an operation of some cycles. -/
def State.cmuRoom (cycles : Nat) (s : State) : Bool :=
  decide ((s.co.cmu.foldl (fun acc o => acc + o.cycles) 0) + cycles ≤ 4096)
def tileBytes : Nat := 1024
/-- An operation of the current thread with everything sampled (R159). -/
def State.cmuOp (s : State) (id : Nat) (kind : CmuKind) (cycles : Nat) (ntf : BitVec 2) (ctag : BitVec 8) (boff : BitVec 9) : CmuOp :=
  let x := s.co
  { id := id, kind := kind, who := s.issuer, fmta := x.fmta, fmtb := x.fmtb, fmtc := x.fmtc, scla := x.scla, sclb := x.sclb
    knob := x.qknob, snapA := x.bufA, snapW := x.bufW, bufW := s.th.bufW, bufA := s.th.bufA, bufC := s.th.bufC, cycles := cycles
    ntf := ntf, ctag := ctag, boff := boff, waiting := false }
/-- The operation enters the queue, its C tile locked against loads and stores; ws ends DONE with DETAIL 0. -/
def State.enqueueCmu (s : State) (o : CmuOp) (cOff : Nat) : State :=
  let s := s.lockCore s.curCore .a true true (physSegs s.th.bufC cOff tileBytes) o.id
  let x := s.co
  ((s.setCo { x with cmu := x.cmu ++ [o] }).liveUp o.who.ctx o.who.lid).endWith codeDone 0
/-- LOC of a scale pointer (R157). -/
def sclLoc (v : BitVec 32) : Nat := bitsOf v.toNat 30 2
def sclOff (v : BitVec 32) : Nat := bitsOf v.toNat 0 20
/-- The scale bytes of an operand locked where the core matrix unit reads them. -/
def State.lockScale (s : State) (v : BitVec 32) (n op : Nat) : State :=
  if sclLoc v = 0 then s.lockCore s.curCore .w false false (physSegs s.th.bufW (sclOff v) n) op
  else s.lockCore s.curCore .a false false (physSegs s.th.bufA (sclOff v) n) op
/-- `mma` with its place free. -/
def State.acceptMma (s : State) (f : MwFields) (kk : Nat) : State :=
  let x := s.co
  match macFmt x.fmta x.fmtb x.fmtc with
  | none => s.execFault 12
  | some mf =>
    if mf.cls = 1 && (2 ≤ sclLoc x.scla || 2 ≤ sclLoc x.sclb) then s.execFault 12
    else
      let (s, id) := s.fresh
      let aOff := (s.g f.ra).toNat
      let bOff := (s.g f.rb).toNat
      let cOff := (s.g f.rc).toNat
      let n := clsBytes mf.cls (16 * kk)
      let cycles := match mf.cls with | 0 => kk | 1 => kk / 2 | 2 => 2 * kk
      let o := s.cmuOp id (.mma aOff bOff cOff kk) cycles f.ntf f.ctag f.boff
      let s := s.lockCore s.curCore .a false false (physSegs s.th.bufA aOff n) id
      let s := s.lockCore s.curCore .w false false (physSegs s.th.bufW bOff n) id
      let s := if mf.cls = 1 then (s.lockScale x.scla (16 * (kk / 32)) id).lockScale x.sclb (16 * (kk / 32)) id else s
      s.enqueueCmu o cOff
/-- The cycles that `mma` counts before its formats are checked: by FMTA's class (R164). -/
def State.mmaCycles (s : State) (kk : Nat) : Nat :=
  match weightCls s.co.fmta with
  | some 1 => kk / 2
  | some 2 => 2 * kk
  | _ => kk
/-- `mma` (R166). -/
def execMma (f : MwFields) (kt : BitVec 7) (s : State) : Step :=
  let kk := 32 * kt.toNat
  .next (s.waitAccept (.mma f kt) f.ds (s.engineHits .c s.th.bufC (s.g f.rc).toNat tileBytes) noLease
    (State.cmuRoom (s.mmaCycles kk)) fun s => s.acceptMma f kk)
/-- `mzero` (R167). -/
def execMzero (a : Fin 16) (ds : Sel) (s : State) : Step :=
  let off := (s.g a).toNat
  .next (s.waitAccept (.mzero a ds) ds (s.engineHits .c s.th.bufC off tileBytes) noLease (State.cmuRoom 8) fun s =>
    let (s, id) := s.fresh
    s.enqueueCmu (s.cmuOp id (.mzero off) 8 0 0 0) off)
/-- The pairs of R168. -/
def drainPair (fmtc : BitVec 4) (dty : Ty) : Bool :=
  match Ty.ofCode fmtc.toNat with
  | some .f32 => dty == .f32 || dty == .bf16 || dty == .f16 || dty == .e4m3 || dty == .e5m2
  | some .w => dty == .w || dty == .h || dty == .b
  | _ => false
/-- `mdrain` (R168). -/
def execMdrain (f : MwFields) (dty : Ty) (sat : Bool) (s : State) : Step :=
  let aOff := (s.g f.ra).toNat
  let cOff := (s.g f.rc).toNat
  .next (s.waitAccept (.mdrain f dty sat) f.ds (s.engineHits .a s.th.bufA aOff (256 * dty.size)) noLease (State.cmuRoom 40) fun s =>
    if !drainPair s.co.fmtc dty then s.execFault 12
    else
      let (s, id) := s.fresh
      s.enqueueCmu (s.cmuOp id (.mdrain aOff cOff dty sat) 40 f.ntf f.ctag f.boff) cOff)

/-- The knob a block meets: one step higher where the engine's course is under droop (R182). -/
def State.effKnob (s : State) (c : Nat) (cls : Fin 3) (knob : BitVec 4) (droop : Bool) : Nat :=
  if cls != 1 || knob = 0 then 0
  else if droop && (s.courseAt (courseOf c)).droop then min 15 (knob.toNat + 1) else knob.toNat
/-- The outputs of an `mma`, in the order 16m + n. -/
def mmaOutputs (o : CmuOp) (bufC : Memory) (mf : MacFmt) (knob aOff bOff cOff kk : Nat) : List MacSum :=
  let aByte (i : Nat) : Byte := match physByte o.bufA aOff i with | some p => mget o.snapA p | none => 0
  let bByte (i : Nat) : Byte := match physByte o.bufW bOff i with | some p => mget o.snapW p | none => 0
  let scale (v : BitVec 32) (i : Nat) : Nat :=
    let al := if sclLoc v = 0 then o.bufW else o.bufA
    let m := if sclLoc v = 0 then o.snapW else o.snapA
    match physByte al (sclOff v) i with | some p => (mget m p).toNat | none => 0
  let line := clsBytes mf.cls kk
  (List.range 256).map fun i =>
    let m := i / 16
    let n := i % 16
    let acc := leNat (bufRead bufC o.bufC (cOff + 4 * i) 4)
    macOut mf knob (fun k => elemAt mf.cls aByte (m * line) k) (fun k => elemAt mf.cls bByte (n * line) k)
      (fun b => scale o.scla (m * (kk / 32) + b)) (fun b => scale o.sclb (n * (kk / 32) + b)) kk acc
/-- One element of `mdrain` converted. -/
def drainElem (fmtc : BitVec 4) (dty : Ty) (sat : Bool) (x : Nat) : FRes :=
  if Ty.ofCode fmtc.toNat = some .f32 then convert dty .f32 modeNe sat x
  else (if sat then satTy dty (readInt .w (w64 x)) else x % 2 ^ dty.bits, 0)
/-- What an operation leaves: the machine with its bytes written, its flags, and its skip record. -/
def State.runCmu (s : State) (c : Nat) (o : CmuOp) (droop : Bool) : State × BitVec 5 × Nat :=
  let x := s.coreAt c
  match o.kind with
  | .mzero cOff => (s.setCore c { x with bufC := bufWrite x.bufC o.bufC cOff (List.replicate tileBytes 0) }, 0, 0)
  | .mdrain aOff cOff dty sat =>
    let rs := (List.range 256).map fun i => drainElem o.fmtc dty sat (leNat (bufRead x.bufC o.bufC (cOff + 4 * i) 4))
    let flags := rs.foldl (fun acc r => acc ||| r.2) (0 : BitVec 5)
    (s.setCore c { x with bufA := bufWrite x.bufA o.bufA aOff (rs.flatMap fun r => leBytes dty.size r.1) }, flags,
      matrixPayload 0 0 0 flags)
  | .mma aOff bOff cOff kk =>
    match macFmt o.fmta o.fmtb o.fmtc with
    | none => (s, 0, 0)
    | some mf =>
      let knob := s.effKnob c mf.cls o.knob droop
      let outs := mmaOutputs o x.bufC mf knob aOff bOff cOff kk
      let flags := outs.foldl (fun acc r => acc ||| r.flags) (0 : BitVec 5)
      let skips := outs.foldl (fun acc r => acc + r.skips) 0
      let map := (outs.zipIdx).foldl (fun acc e => if e.1.skips = 0 then acc else acc + 2 ^ e.2) 0
      (s.setCore c { x with bufC := bufWrite x.bufC o.bufC cOff (outs.flatMap fun r => leBytes 4 r.val) }, flags,
        matrixPayload skips knob map flags)
/-- `CMU_OPERATION_COMPLETE`: the oldest operation that has not run is performed, its flags reach CFSUMk, its tile is unlocked, and it
notifies; with no room for its completion it keeps its place (R247). -/
def execCmuComplete (c : Nat) (droop : Bool) (s : State) : Step :=
  match (s.coreAt c).cmu.find? fun o => !o.waiting with
  | none => .next s
  | some o =>
    let (s, flags, payload) := s.runCmu c o droop
    let s := (s.raise (clusterOf c) o.who.ctx flags).dropLocks [o.id]
    let stays := o.ntf.getLsbD 0 && !s.postRoom c
    let x := s.coreAt c
    let left := if stays then x.cmu.map (fun q => if q.id = o.id then { q with waiting := true } else q)
      else x.cmu.filter (fun q => q.id != o.id)
    let s := s.setCore c { x with cmu := left }
    .next (s.notify o.who o.ntf o.ctag o.boff 0 payload (some o.id) none)

/-! ## The lease (R46, R173) -/

/-- Whether a core holds the lease of its cluster. -/
def State.holdsLease (s : State) (c : Nat) : Bool :=
  match (s.clusterAt (clusterOf c)).harp.lease with
  | some l => l.core == c
  | none => false
/-- Commands left under the lease. -/
def State.leaseLeft? (s : State) (c : Nat) : Nat :=
  match (s.clusterAt (clusterOf c)).harp.lease with
  | some l => 32 - l.count
  | none => 0
/-- Claims in the order of grants: claim instant, higher PRIO, lower core. -/
def HarpClaim.before (a b : HarpClaim) : Bool :=
  decide (a.at_ < b.at_) || (a.at_ == b.at_ && (decide (b.prio < a.prio) || (a.prio == b.prio && decide (a.core ≤ b.core))))
def firstClaim : List HarpClaim → Option HarpClaim
  | [] => none
  | a :: r => match firstClaim r with
    | none => some a
    | some b => if a.before b then some a else some b
/-- The harp park area of a core in a context (R184). -/
def State.parkArea (s : State) (ctx c : Nat) : Word := s.descWord ctx 13 + w64 (0x10040 * (s.logOf c).toNat)
/-- Accumulator rows read from an image's bytes, from row `acc0` on. -/
def rowsFrom (acc : Tab (BitVec 32)) (acc0 n : Nat) (byte : Nat → Byte) : Tab (BitVec 32) :=
  (List.range (n * 256)).foldl (fun t i =>
    let v := BitVec.ofNat 32 (leNat ((List.range 4).map fun j => byte (4 * i + j)))
    let k := (acc0 + i / 256) % 64 * 256 + i % 256
    if v = 0 then terase t k else tset t k v) acc
/-- Where the park image stands that a claim's grant restores: the thread carries it wherever it goes (R184). -/
def State.imageOf (s : State) (q : HarpClaim) : Option Word :=
  ((s.slotAt q.core q.slot).task.filter fun k => k.id == q.tid).bind fun k => k.image
/-- Whether a park image is to be restored at a claim's grant. -/
def State.imageWaits (s : State) (q : HarpClaim) : Bool := (s.imageOf q).isSome
/-- Whether the first claim may be granted: the harp is free and in service, and a change of context, or an image to restore, waits for the
commands still queued. -/
def State.grantable (s : State) (k : Nat) : Option HarpClaim :=
  let h := (s.clusterAt k).harp
  if h.lease.isSome || !h.inService then none
  else match firstClaim (h.claims.filter fun q => decide (q.core < 8192)) with
    | none => none
    | some q =>
      if (h.lastCtx == some q.ctx && !s.imageWaits q) || h.queue.all (fun o => o.waiting) then some q else none
/-- A grant (R173): planes and accumulators are zeroed on a change of context, and a park image comes back (R184). The holder is a core, so the
claims of its other slots are met and go; one of them that tries again after the lease has ended claims anew, with a new instant (log 96). An image
that cannot be read is dropped with no fault, as one marked absent is (log 114). -/
def State.grantLease (s : State) (k : Nat) : State :=
  match s.grantable k with
  | none => s
  | some q =>
    let x := s.clusterAt k
    let h := x.harp
    let h := if h.lastCtx == some q.ctx then h
      else { h with active := Plane.zero h.active.fmtb, shadow := Plane.zero h.shadow.fmtb, acc := [] }
    let s := match s.imageOf q with | some va => s.saw q.ctx va 65600 | none => s
    let image := (s.imageOf q).bind fun va => match s.vread q.ctx va 65600 with | .ok l => some l | .error _ => none
    let h := match image with
      | some l =>
        let data := (l.drop 64).toArray
        { h with acc := rowsFrom [] 0 64 fun i => data.getD i 0 }
      | none => h
    let h := { h with
      lease := some ⟨q.core, q.tid, q.ctx, 0, [], s.instant, 0⟩, claims := h.claims.filter fun r => r.core != q.core
      lastCtx := some q.ctx }
    let restored := s.imageWaits q
    let s := s.setCluster k { x with harp := h }
    let sl := s.slotAt q.core q.slot
    if restored then s.setSlot q.core q.slot { sl with task := sl.task.map fun k => { k with image := none } } else s
/-- `HARP_LEASE_GRANT`. -/
def execHarpGrant (k : Nat) (s : State) : Step := .next (s.grantLease k)
/-- 65,536 cycles, in the thousandths that a lease counts (R46). -/
def leaseSpan : Nat := 65536000
/-- `LEASE_CYCLE_LIMIT` (R46, event 2): 65,536 cycles of the holder's course clock, undivided, have passed since the grant. -/
def execLeaseLimit (k : Nat) (s : State) : Step :=
  match (s.clusterAt k).harp.lease with
  | some l => if leaseSpan ≤ l.spent then .next (s.endLease k) else .next s
  | none => .next s
/-- The current thread's claim stands in its cluster's list. -/
def State.claimHarp (s : State) : State :=
  let k := clusterOf s.curCore
  let x := s.clusterAt k
  if x.harp.claims.any (fun q => q.core == s.curCore && q.slot == s.curSlot) then s
  else
    let prio := match s.sl.task with | some t => t.prio | none => 0
    let q : HarpClaim := ⟨s.curCore, s.curSlot, s.curTask, s.curCtx, prio, s.instant⟩
    s.setCluster k { x with harp := { x.harp with claims := x.harp.claims ++ [q] } }
/-- The claim taken back once the core holds the lease. -/
def State.unclaim (s : State) : State :=
  let k := clusterOf s.curCore
  let x := s.clusterAt k
  if x.harp.claims.any (fun q => q.core == s.curCore && q.slot == s.curSlot) then
    s.setCluster k { x with harp := { x.harp with claims := x.harp.claims.filter fun q => !(q.core == s.curCore && q.slot == s.curSlot) } }
  else s
/-- The wait for the lease (R172): a claim on a free harp is granted at once where nothing has to be zeroed or restored first. A thread with a park
image whose core holds the lease through another slot's claim goes on unrestored; its image comes back at a grant of its own claim (log 115). -/
def State.withLease (i : Instr) (ds : Sel) (go : State → State) (s : State) : State :=
  let k := clusterOf s.curCore
  if s.holdsLease s.curCore then go s.unclaim
  else if !(s.clusterAt k).harp.inService then (s.dropClaims s.curCore s.curSlot).refuse 1
  else
    let s := s.claimHarp
    let s := match s.grantable k with
      | some q => if (s.clusterAt k).harp.lastCtx.all (· == q.ctx) && !s.imageWaits q then s.grantLease k else s
      | none => s
    if s.holdsLease s.curCore then go s.unclaim
    else s.holdWait { s.waitOf i ds with stage := 1 } endHarp
/-- An attached follower executes no harp instruction (R180). -/
def State.harpSkips (s : State) : Bool := match s.sl.group with | some (.follower _ _ _ true) => true | _ => false
/-- `hlease` (R173). -/
def execHlease (ds : Sel) (s : State) : Step :=
  if s.harpSkips then .next s.complete
  else .next (State.withLease (.hlease ds) ds (fun s => s.endWith codeDone (BitVec.ofNat 32 (s.leaseLeft? s.curCore))) s)
/-- `hrelease`. -/
def execHrelease (s : State) : Step :=
  if s.harpSkips then .next s.complete
  else .next ((if s.holdsLease s.curCore then s.endLease (clusterOf s.curCore) else s).complete)

/-! ## Harp commands (R171, R174 to R179) -/

/-- Whether the queue admits a command of some cycles. -/
def State.harpRoom (cycles : Nat) (s : State) : Bool :=
  decide (((s.clusterAt (clusterOf s.curCore)).harp.queue.foldl (fun acc o => acc + o.cycles) 0) + cycles ≤ 4096)
/-- The formats recorded with the active and the shadow plane once the queued commands have run. -/
def Harp.planeFmts (h : Harp) : BitVec 4 × BitVec 4 :=
  h.queue.foldl (fun p o => if o.waiting then p else match o.kind with
    | .ldw .. => (p.1, o.fmtb)
    | .clear => (p.1, o.fmtb)
    | .swap => (p.2, p.1)
    | _ => p) (h.active.fmtb, h.shadow.fmtb)
/-- A command enters the queue, its array ranges locked; it counts toward the lease, which its 32nd command ends (R46, R172). -/
def State.enqueueHarp (s : State) (f : MwFields) (kind : HarpKind) (cycles : Nat) (locks : List (Nat × Nat)) (scaleOff : Nat) :
    State :=
  let (s, id) := s.fresh
  let k := clusterOf s.curCore
  let c := s.co
  let snap := (s.clusterAt k).array
  let o : HarpCmd :=
    { id := id, kind := kind, who := s.issuer, fmta := c.fmta, fmtb := c.fmtb, fmtc := c.fmtc, scaleOff := scaleOff, scales := snap
      knob := c.qknob, cycles := cycles, ntf := f.ntf, ctag := f.ctag, boff := f.boff, bufC := s.th.bufC, skips := 0, skipCols := 0
      eknob := 0, flags := 0, waiting := false, after := (s.op.filter fun e => e.owner == s.curTask).map fun e => e.ft, park := none }
  let s := s.lockArray k locks id
  let x := s.clusterAt k
  let lease := x.harp.lease.map fun l => { l with count := l.count + 1, users := l.users ++ [s.curTask] }
  let left := match lease with | some l => 32 - l.count | none => 0
  let s := s.setCluster k { x with harp := { x.harp with
    queue := x.harp.queue ++ [o], lease := if left = 0 then none else lease } }
  (s.liveUp o.who.ctx o.who.lid).endWith codeDone (BitVec.ofNat 32 left)
/-- A harp operand resolved at acceptance: an array-buffer range as it stands then (R169), whatever a command queued ahead of it still writes there
(log 94), or pinned pages. -/
def State.harpMem (s : State) (isDev : Bool) (v : Word) (n : Nat) (need : Need) : Except (Nat × Word) HarpMem :=
  if isDev then
    match s.pinPages s.curCtx s.th.priv v n need with
    | .error e => .error e
    | .ok pages => .ok (.device v pages)
  else .ok (.array (s.clusterAt (clusterOf s.curCore)).array v.toNat)
/-- The fault of R179. -/
def State.harpFault (s : State) (e : Nat × Word) : State := (s.recall (s.walksFor s.curCtx e.2)).takeTrap 13 0 e.1 0 e.2 s.th.pc
/-- A command goes on with its operand, or faults (R179); the walks of a device operand's pages are part of the wait (R286). -/
def State.withMem (s : State) (i : Instr) (ds : Sel) (isDev : Bool) (v : Word) (n : Nat) (need : Need) (go : HarpMem → State → State) : State :=
  let vas := if isDev then pageVas v n else []
  if s.missing vas then s.holdWait { s.waitOf i ds with stage := 2 } endHarp
  else match s.harpMem isDev v n need with
    | .error e => s.harpFault e
    | .ok m => go m (vas.foldl (fun s va => s.noteTlb s.curCtx va) s)
/-- The array-buffer segments that an operand locks. -/
def harpLocks (isDev : Bool) (v : Word) (n : Nat) : List (Nat × Nat) := if isDev then [] else arrSegs v.toNat n
def ldwCycles : Option (Fin 3) → Nat
  | some 1 => 128
  | some 2 => 512
  | _ => 256
/-- The cycles that `hstream` counts. Its admission comes before its format check (R172): where FMTA names no class, M rows of the 8-bit class count,
as 256 cycles do for `hldw` (log 95). -/
def streamCycles (cls : Option (Fin 3)) (m : Nat) : Nat :=
  match cls with
  | some 1 => 512 + (m + 1) / 2
  | some 2 => 512 + 2 * m
  | _ => 512 + m
/-- `hldw` (R174). -/
def execHldw (f : MwFields) (org : Origin) (stg : Bool) (s : State) : Step :=
  let i := Instr.hldw f org stg
  let isDev := org == .device
  let v := s.g f.ra
  .next (if s.harpSkips then s.complete
    else s.waitAccept i f.ds false (State.withLease i f.ds) (State.harpRoom (ldwCycles (weightCls s.co.fmtb))) fun s =>
      match weightCls s.co.fmtb with
      | none => s.execFault 12
      | some cls =>
        let q4 := cls == 1
        if q4 && sclLoc s.co.sclb != 2 then s.execFault 12
        else
          let n := clsBytes cls 65536
          s.withMem i f.ds isDev v n needR fun m s =>
            let off := sclOff s.co.sclb
            s.enqueueHarp f (.ldw m (if stg && isDev then some ((s.g f.rb).toNat % arrSize) else none)) (ldwCycles (some cls))
              (harpLocks isDev v n ++ (if q4 then arrSegs off 2048 else [])) off)
/-- `hswap` (R175): no notify fields. -/
def execHswap (ds : Sel) (s : State) : Step :=
  let i := Instr.hswap ds
  .next (if s.harpSkips then s.complete
    else s.waitAccept i ds false (State.withLease i ds) (State.harpRoom 1) fun s =>
      s.enqueueHarp ⟨0, 0, 0, ds, 0, 0, 0⟩ .swap 1 [] 0)
/-- `hstream` (R176): FMTA, FMTC and the plane active at the command's place must form a class. -/
def execHstream (f : MwFields) (org : Origin) (m1 acc0 : BitVec 6) (za : Bool) (s : State) : Step :=
  let i := Instr.hstream f org m1 acc0 za
  let isDev := org == .device
  let v := s.g f.ra
  let m := m1.toNat + 1
  .next (if s.harpSkips then s.complete
    else s.waitAccept i f.ds false (State.withLease i f.ds) (State.harpRoom (streamCycles (weightCls s.co.fmta) m)) fun s =>
      let h := (s.clusterAt (clusterOf s.curCore)).harp
      match macFmt s.co.fmta h.planeFmts.1 s.co.fmtc with
      | none => s.execFault 12
      | some mf =>
        let q4 := mf.cls == 1
        if q4 && sclLoc s.co.scla != 2 then s.execFault 12
        else
          let n := clsBytes mf.cls (256 * m)
          s.withMem i f.ds isDev v n needR fun mem s =>
            let off := sclOff s.co.scla
            s.enqueueHarp f (.stream mem m acc0.toNat za 0) (streamCycles (some mf.cls) m)
              (harpLocks isDev v n ++ (if q4 then arrSegs off (8 * m) else [])) off)
/-- `hdrain` (R177). -/
def execHdrain (f : MwFields) (dest : DrainDest) (n1 acc0 : BitVec 6) (z : Bool) (s : State) : Step :=
  let i := Instr.hdrain f dest n1 acc0 z
  let v := s.g f.ra
  let n := n1.toNat + 1
  let isDev := dest == .device
  let direct := isDev || (dest == .c && s.engineHits .c s.th.bufC v.toNat (1024 * n))
  .next (if s.harpSkips then s.complete
    else s.waitAccept i f.ds direct (State.withLease i f.ds) (State.harpRoom (4 + 8 * n)) fun s =>
      s.withMem i f.ds isDev v (1024 * n) needW fun mem s =>
        s.enqueueHarp f (.drain dest v.toNat mem n acc0.toNat z) (4 + 8 * n) [] 0)
/-- The bytes of an image of n rows (R178). -/
def imageBytes (n : Nat) : Nat := 64 + 1024 * n
/-- `hsave` (R178). -/
def execHsave (f : MwFields) (loc : Origin) (n1 acc0 : BitVec 6) (s : State) : Step :=
  let i := Instr.hsave f loc n1 acc0
  let v := s.g f.ra
  let n := n1.toNat + 1
  let isDev := loc == .device
  .next (if s.harpSkips then s.complete
    else s.waitAccept i f.ds isDev (State.withLease i f.ds) (State.harpRoom (4 + 8 * n)) fun s =>
      s.withMem i f.ds isDev v (imageBytes n) needW fun mem s =>
        s.enqueueHarp f (.save mem isDev n acc0.toNat) (4 + 8 * n) [] 0)
/-- `hrestore` (R178). -/
def execHrestore (f : MwFields) (loc : Origin) (n1 acc0 : BitVec 6) (s : State) : Step :=
  let i := Instr.hrestore f loc n1 acc0
  let v := s.g f.ra
  let n := n1.toNat + 1
  let isDev := loc == .device
  .next (if s.harpSkips then s.complete
    else s.waitAccept i f.ds false (State.withLease i f.ds) (State.harpRoom (4 + 8 * n)) fun s =>
      s.withMem i f.ds isDev v (imageBytes n) needR fun mem s =>
        s.enqueueHarp f (.restore mem n acc0.toNat) (4 + 8 * n) (harpLocks isDev v (imageBytes n)) 0)

/-! ## Running harp commands -/

/-- The command that runs: the oldest that has not run. -/
def Harp.head (h : Harp) : Option HarpCmd := h.queue.find? fun o => !o.waiting
def Harp.update (h : Harp) (o : HarpCmd) : Harp := { h with queue := h.queue.map fun q => if q.id = o.id then o else q }
/-- An accumulator element. -/
def accAt (t : Tab (BitVec 32)) (r n : Nat) : Nat := ((tget t (r * 256 + n)).getD 0).toNat
def accSet (t : Tab (BitVec 32)) (r n : Nat) (v : Nat) : Tab (BitVec 32) :=
  let x := BitVec.ofNat 32 v
  if x = 0 then terase t (r * 256 + n) else tset t (r * 256 + n) x
/-- The little-endian bytes of accumulator rows `acc0` to `acc0 + n − 1`. -/
def accBytes (t : Tab (BitVec 32)) (acc0 n : Nat) : List Byte :=
  (List.range (n * 256)).flatMap fun i => leBytes 4 (accAt t ((acc0 + i / 256) % 64) (i % 256))
/-- Whether a command may take its step: it is not stopped by a soft error (R312), and its reads of some bytes of an operand wait for no store of its
issuing thread (R199). -/
def State.harpMay (s : State) (o : HarpCmd) (m : HarpMem) (lo n : Nat) : Bool :=
  o.park.isNone && !(s.op.any fun e => o.after.contains e.ft && (m.places lo n).any fun a => s.sameGran e.ctx e.gran (granOf a))
/-- Whether a stream's formats form a class with the plane that is active at its place. Where a cancelled `hldw` or `hswap` has left another plane
there, so that they form none, the stream writes no row and completes (log 93). -/
def HarpCmd.fits (o : HarpCmd) (h : Harp) : Bool := (macFmt o.fmta h.active.fmtb o.fmtc).isSome
/-- `HSTREAM_ROW_WRITE` (R176): the stream at the head writes its next row whole. -/
def execHstreamRow (k : Nat) (droop : Bool) (s : State) : Step :=
  let x := s.clusterAt k
  let h := x.harp
  match h.head with
  | none => .next s
  | some o =>
    match o.kind with
    | .stream mem m acc0 za row =>
      if m ≤ row then .next s
      else match macFmt o.fmta h.active.fmtb o.fmtc with
        | none => .next s
        | some mf =>
          let knob := s.effKnob o.who.core mf.cls o.knob droop
          let line := clsBytes mf.cls 256
          if !s.harpMay o mem (row * line) line then .next s
          else
          let aByte (i : Nat) : Byte := s.harpByte o.who mem i
          let bByte (i : Nat) : Byte := mget h.active.bytes i
          let r := (acc0 + row) % 64
          let outs := (List.range 256).map fun n =>
            macOut mf knob (fun e => elemAt mf.cls aByte (row * line) e) (fun e => elemAt mf.cls bByte (n * line) e)
              (fun b => (mget o.scales ((o.scaleOff + row * 8 + b) % arrSize)).toNat) (fun b => (mget h.active.scales (n * 8 + b)).toNat)
              256 (if za then 0 else accAt h.acc r n)
          let acc := (outs.zipIdx).foldl (fun t e => accSet t r e.2 e.1.val) h.acc
          let o' := { o with
            kind := .stream mem m acc0 za (row + 1)
            flags := outs.foldl (fun a e => a ||| e.flags) o.flags
            skips := outs.foldl (fun a e => a + e.skips) o.skips
            skipCols := (outs.zipIdx).foldl (fun a e => if e.1.skips = 0 then a else a ||| BitVec.twoPow 256 e.2) o.skipCols
            eknob := max o.eknob knob }
          .next ((s.setCluster k { x with harp := { h.update o' with acc := acc } }).touchCells o.who.core (mem.places (row * line) line))
    | _ => .next s
/-- `HARP_PLANE_SWAP` (R175): the swap at the head exchanges the planes and is over. -/
def execHarpSwap (k : Nat) (s : State) : Step :=
  let x := s.clusterAt k
  let h := x.harp
  match h.head with
  | none => .next s
  | some o =>
    match o.kind with
    | .swap =>
      let s := s.setCluster k { x with harp := Harp.settle { h with
        active := h.shadow, shadow := h.active, queue := h.queue.filter fun q => q.id != o.id } }
      .next (s.liveDown o.who.ctx o.who.lid)
    | _ => .next s
/-- A plane filled from a tile and its scale bytes. -/
def loadPlane (cls : Fin 3) (fmtb : BitVec 4) (tile : Nat → Byte) (scales : Nat → Byte) : Plane :=
  { fmtb := fmtb
    bytes := mputs [] 0 ((List.range (clsBytes cls 65536)).map tile)
    scales := if cls = 1 then mputs [] 0 ((List.range 2048).map scales) else [] }
/-- What the head command does as it completes, with its CSTAT; a stream has written its rows. -/
def State.runHarp (s : State) (k : Nat) (o : HarpCmd) : State × BitVec 8 :=
  let x := s.clusterAt k
  let h := x.harp
  let ctx := o.who.ctx
  match o.kind with
  | .ldw mem stage =>
    let cls := (weightCls o.fmtb).getD 0
    let p := loadPlane cls o.fmtb (fun i => s.harpByte o.who mem i) (fun i => mget o.scales ((o.scaleOff + i) % arrSize))
    let array := match stage with
      | some off => arrWrite x.array off ((List.range (clsBytes cls 65536)).map fun i => s.harpByte o.who mem i)
      | none => x.array
    ((s.setCluster k { x with array := array, harp := { h with shadow := p } }).touchCells o.who.core (mem.places 0 (clsBytes cls 65536)), 0)
  | .drain dest off mem n acc0 z =>
    let bytes := accBytes h.acc acc0 n
    let acc := if z then (List.range (n * 256)).foldl (fun t i => terase t ((acc0 + i / 256) % 64 * 256 + i % 256)) h.acc else h.acc
    let s := s.setCluster k { x with harp := { h with acc := acc } }
    (match dest with
      | .c => let y := s.coreAt o.who.core; s.setCore o.who.core { y with bufC := bufWrite y.bufC o.bufC off bytes }
      | .array => let y := s.clusterAt k; s.setCluster k { y with array := arrWrite y.array off bytes }
      | .device => (match mem with
        | .device va pages => s.putPhys ctx ((List.range bytes.length).map (pinned va pages)) bytes
        | .array .. => s), 0)
  | .save mem _ n acc0 =>
    let bytes := [1, 0, BitVec.ofNat 8 (n - 1)] ++ List.replicate 61 0 ++ accBytes h.acc acc0 n
    (match mem with
      | .array _ off => s.setCluster k { x with array := arrWrite x.array off bytes }
      | .device va pages => s.putPhys ctx ((List.range bytes.length).map (pinned va pages)) bytes, 0)
  | .restore mem n acc0 =>
    let byte (i : Nat) : Byte := s.harpByte o.who mem i
    let s := s.touchCells o.who.core (mem.places 0 (imageBytes n))
    if byte 0 = 1 && byte 1 = 0 && (byte 2).toNat + 1 = n then
      (s.setCluster k { s.clusterAt k with harp := { h with acc := rowsFrom h.acc acc0 n fun i => byte (64 + i) } }, 0)
    else (s, 1)
  | _ => (s, 0)
/-- The bytes that a command's last step reads. -/
def HarpCmd.reads (o : HarpCmd) : HarpMem × Nat :=
  match o.kind with
  | .ldw mem _ => (mem, clsBytes ((weightCls o.fmtb).getD 0) 65536)
  | .restore mem n _ => (mem, imageBytes n)
  | _ => (.array [] 0, 0)
/-- The operand bytes that the head command's next step reads: from an offset, how many. -/
def Harp.nextRead (h : Harp) (o : HarpCmd) : HarpMem × Nat × Nat :=
  match o.kind with
  | .stream mem m _ _ row =>
    (match macFmt o.fmta h.active.fmtb o.fmtc with
      | some mf => (mem, row * clsBytes mf.cls 256, if row < m then clsBytes mf.cls 256 else 0)
      | none => (mem, 0, 0))
  | _ => (o.reads.1, 0, o.reads.2)
/-- `HARP_COMMAND_COMPLETE` (R170, R171): the head command completes; a swap completes by its own step. -/
def execHarpComplete (k : Nat) (s : State) : Step :=
  match (s.clusterAt k).harp.head with
  | none => .next s
  | some o =>
    let may := match o.kind with
      | .swap => false
      | .stream _ m _ _ row => decide (m ≤ row) || !o.fits (s.clusterAt k).harp
      | _ => true
    if !may || !s.harpMay o o.reads.1 0 o.reads.2 then .next s
    else
      let (s, cstat) := s.runHarp k o
      let s := (s.raise k o.who.ctx o.flags).dropLocks [o.id]
      let stays := o.ntf.getLsbD 0 && !s.postRoom o.who.core
      let x := s.clusterAt k
      let h := if stays then x.harp.update { o with waiting := true }
        else { x.harp with queue := x.harp.queue.filter fun q => q.id != o.id }
      let s := s.setCluster k { x with harp := h.settle }
      .next (s.notify o.who o.ntf o.ctag o.boff cstat (matrixPayload o.skips o.eknob o.skipCols.toNat o.flags) none (some o.id))
/-- `HARP_STEPDOWN_EXPIRY` (R183): the harp's clock is whole again 1 µs after its last timing error. -/
def execHarpStepdownExpiry (k : Nat) (s : State) : Step :=
  let x := s.clusterAt k
  match x.harp.stepdown with
  | some t => if t.toNat + 1000 ≤ s.instant.toNat then .next (s.setCluster k { x with harp := { x.harp with stepdown := none } }) else .next s
  | none => .next s

/-! ## A supervisor-forced park (R184, R303) -/

/-- Whether a thread's matrix work is drained: none in the core matrix unit, and none in the harp while its core holds the lease. -/
def State.drained (s : State) (c : Nat) (t : Fin 4) : Bool :=
  let id := (s.slotAt c t).taskId
  ((s.coreAt c).cmu.all fun o => o.who.tid != id)
    && (!s.holdsLease c || (s.clusterAt (clusterOf c)).harp.queue.all (fun o => o.who.tid != id))
/-- What a forced park does where the thread's core holds the lease: all 64 accumulator rows are saved to the park area, and the lease ends. A
failed write marks the image absent and forwards a fault record of cause 13. -/
def State.saveHarp (s : State) (c : Nat) (t : Fin 4) : State :=
  if !s.holdsLease c then s
  else
    let cl := clusterOf c
    let h := (s.clusterAt cl).harp
    let bytes := [1, 0, 63] ++ List.replicate 61 0 ++ accBytes h.acc 0 64
    let s := s.endLease cl
    match (s.slotAt c t).task with
    | none => s
    | some k =>
      let area := s.parkArea k.ctx c
      let mark (s : State) (image : Option Word) : State :=
        let sl := s.slotAt c t
        s.setSlot c t { sl with task := sl.task.map fun k => { k with image := image } }
      match s.vwrite k.ctx area bytes with
      | .ok s => mark s (some area)
      | .error (kind, va) =>
        let s := mark s none
        let sl := s.slotAt c t
        s.queueFault k.ctx 13 c (faultWord 13 3 kind 0 sl.thread.lid 0) sl.thread.pc va (s.threadItem c t) (.thread c t) none
/-- The thread is parked between units, where it waits for a disposition; a park ends the window of R77. -/
def Slot.parkHere (sl : Slot) (now : Word) : Slot :=
  { sl with parkAsked := false, park := some ⟨0, 0, 0, 0, 0, sl.thread.pc, 4, 0, now, 0⟩, dictLag := [] }
/-- The thread is parked between units once its matrix work is drained (R303). -/
def State.parkNow (s : State) (c : Nat) (t : Fin 4) : State :=
  let sl := s.slotAt c t
  if sl.task.isNone then s.setSlot c t { sl with parkAsked := false }
  else (s.setSlot c t (sl.parkHere s.instant)).saveHarp c t

end Sys2Proof.Machine
end

