-- ==== Sys2Proof/Machine/Power.lean ====
section
/-! DEFINITION. Power (R347 to R354): clocks and dividers, boost permits and claims, falls, and droop. -/

namespace Sys2Proof.Machine

/-! ## Clocks (R347, R348) -/

/-- The course clock of a level, in MHz. -/
def levelMHz (lv : BitVec 2) : Nat := if lv = 0 then 700 else if lv = 1 then 875 else 1050
/-- The divider of a core: the smallest that a RUNNING task's slot requests, and not less than the step-down (R348). -/
def Core.divider (x : Core) : Nat :=
  let asks := (x.slots.toList.filter fun sl => sl.task.isSome && sl.wait.isNone && sl.park.isNone).map fun sl => sl.divider
  max (asks.foldl min (asks.headD 1)) (2 ^ x.stepdown.toNat)
/-- The voltage set point of a level, in mV (R347). -/
def levelMv (lv : BitVec 2) : Nat := if lv = 0 then 720 else if lv = 1 then 800 else 900
/-- The voltage set point of a course, in mV: it follows the course's level (R347). -/
def State.setPoint (s : State) (course : Nat) : Nat := levelMv (s.courseAt course).level
/-- The course clock of a core, in MHz. -/
def State.courseClock (s : State) (c : Nat) : Nat := levelMHz (s.courseAt (courseOf c)).clock
/-- The clock of a core, in kHz: its course's clock divided by its divider (R347). -/
def State.coreClock (s : State) (c : Nat) : Nat := 1000 * s.courseClock c / (s.coreAt c).divider
/-- The clock of a harp command, in kHz: that of the course of the core that issued it, halved during the harp's step-down (R171, R183, R347). -/
def State.harpClock (s : State) (o : HarpCmd) : Nat :=
  1000 * s.courseClock o.who.core / (if (s.clusterAt (clusterOf o.who.core)).harp.stepdown.isSome then 2 else 1)
/-- `COURSE_CLOCK_RISE` (R347): the faster clock takes effect after the voltage has risen. -/
def execClockRise (course : Nat) (s : State) : Step :=
  let x := s.courseAt course
  .next (if x.clock < x.level then s.setCourse course { x with clock := x.level } else s)
/-- `DROOP` (R347): it changes no clock. -/
def execDroop (course : Nat) (s : State) : Step := .next (s.setCourse course { s.courseAt course with droop := true })
/-- `DROOP_END`. -/
def execDroopEnd (course : Nat) (s : State) : Step := .next (s.setCourse course { s.courseAt course with droop := false })

/-! ## Claims (R352) -/

/-- The order of the claim queue: t0, cluster, course, core, slot. -/
def BoostReq.key (q : BoostReq) : List Nat := [q.at_.toNat, clusterOf q.core, courseOf q.core, q.core, q.slot.val]
def keyLe : List Nat → List Nat → Bool
  | a :: r, b :: r' => decide (a < b) || (a == b && keyLe r r')
  | _, _ => true
def firstReq : List BoostReq → Option BoostReq
  | [] => none
  | a :: r => match firstReq r with
    | none => some a
    | some b => if keyLe a.key b.key then some a else some b
/-- The claim that heads a die's queue; a switched-out thread is given none. -/
def Die.nextBoost (d : Die) : Option BoostReq := firstReq (d.boostQ.filter fun q => decide (q.core < 8192))
/-- Whether a die grants a claim now: no fall runs and 4 permits are there. -/
def Die.grants (d : Die) : Bool := d.fall == 0 && decide (4 ≤ d.pool.toNat)
/-- Whether the claim of a slot heads the queue and may be granted. -/
def State.boostReady (s : State) (c : Nat) (t : Fin 4) : Bool :=
  let d := s.dieAt (dieOf c)
  d.grants && (match d.nextBoost with | some q => q.core == c && q.slot == t | none => false)
/-- RD of `boost`: the course's level, and bit 2 in a fall. -/
def State.levelWord (s : State) : Word :=
  let x := s.courseAt (courseOf s.curCore)
  w64 (x.level.toNat + (if x.inFall then 4 else 0))
/-- The end of `boost`. -/
def State.boostEnd (s : State) (d : Fin 16) (code : BitVec 8) (detail : BitVec 32) : State :=
  (s.writeG d s.levelWord).endWith code detail
/-- The ending of a claim's wait: it leaves the queue, and the earlier claim is kept. -/
def endBoost (d : Fin 16) (code : BitVec 8) (s : State) : State := (s.dropClaims s.curCore s.curSlot).boostEnd d code 0
/-- A claim granted: it takes no permit. -/
def State.grantBoost (s : State) (d : Fin 16) (lv : BitVec 2) : State :=
  let s := s.dropClaims s.curCore s.curSlot
  let s := (s.setSl { s.sl with claim := lv }).relevel (courseOf s.curCore)
  s.boostEnd d codeDone ((s.dieAt (dieOf s.curCore)).pool.setWidth 32)
/-- The claim of the current thread put into its die's queue at t0. -/
def State.enterBoost (s : State) (lv : BitVec 2) (t0 : Word) : State :=
  let x := s.dieAt (dieOf s.curCore)
  if x.boostQ.any fun q => q.core == s.curCore && q.slot == s.curSlot then s
  else s.setDie (dieOf s.curCore) { x with boostQ := x.boostQ ++ [⟨s.curCore, s.curSlot, lv, t0⟩] }
/-- The two claim forms. -/
def State.boost (s : State) (i : Instr) (lv : BitVec 2) (d : Fin 16) (ds : Sel) : State :=
  if s.sl.wait.isNone && lv ≤ s.sl.claim && !(s.courseAt (courseOf s.curCore)).inFall then s.boostEnd d codeDone 0
  else
    let s := s.enterBoost lv (s.waitOf i ds).t0
    s.await i ds 1 (s.boostReady s.curCore s.curSlot) (fun s => s.grantBoost d lv) (endBoost d)
def execBoost875 (d : Fin 16) (ds : Sel) (s : State) : Step := .next (s.boost (.boost875 d ds) 1 d ds)
def execBoost1050 (d : Fin 16) (ds : Sel) (s : State) : Step := .next (s.boost (.boost1050 d ds) 2 d ds)
def execBoostOff (d : Fin 16) (s : State) : Step := .next ((s.endClaim s.curCore s.curSlot).boostEnd d codeDone 0)
/-- `BOOST_GRANT`: the claim that heads a die's queue is granted, where the die grants one; an annulled task's is not (R309). -/
def execBoostGrant (die : Nat) (s : State) : Step :=
  match (s.dieAt die).nextBoost with
  | none => .next s
  | some q =>
    if !(s.dieAt die).grants || s.slotAnnulled q.core q.slot then .next s
    else match (s.slotAt q.core q.slot).wait with
      | none => .next s
      | some w => match w.instr with
        | .boost875 d ds => .next (s.asSlot q.core q.slot fun s => s.boost (.boost875 d ds) 1 d ds)
        | .boost1050 d ds => .next (s.asSlot q.core q.slot fun s => s.boost (.boost1050 d ds) 2 d ds)
        | _ => .next s

/-! ## Intervals (R350, R351, R354) -/

/-- Whether a course holds a thread, running or parked. -/
def State.holdsThread (s : State) (k : Nat) : Bool :=
  s.cores.any fun e => decide (e.1 < 8192) && courseOf e.1 == k && e.2.slots.any fun sl => sl.task.isSome
/-- The courses of a die, in ascending order. -/
def dieCourses (d : Nat) : List Nat := (List.range 128).map fun i => 128 * d + i
/-- Step 1, for one course: an idle course returns one permit for four idle intervals. -/
def State.refund (s : State) (d k : Nat) : State :=
  let x := s.courseAt k
  if x.busy || s.holdsThread k then s.setCourse k { x with idle := 0 }
  else if x.idle = 3 then
    let y := s.dieAt d
    let s := s.setCourse k { x with idle := 0 }
    s.setDie d { y with pool := BitVec.ofNat 16 (min s.poolMax (y.pool.toNat + 1)) }
  else s.setCourse k { x with idle := x.idle + 1 }
/-- A permit taken from a die's pool, never below 0. -/
def State.takePermit (s : State) (d : Nat) : State :=
  let y := s.dieAt d
  if y.pool = 0 then s else s.setDie d { y with pool := y.pool - 1 }
/-- Step 2, for one course: charged at the highest level of the interval; in fall, and at the level a transfer gives, it is not (log 34). -/
def State.charge (s : State) (d k : Nat) : State :=
  let x := s.courseAt k
  if x.inFall then s
  else if x.highest = 2 then s.takePermit d
  else if x.highest = 1 && !s.inTransfer k then
    (if x.half then (s.setCourse k { x with half := false }).takePermit d else s.setCourse k { x with half := true })
  else s
/-- A transfer of the interval that ends is over; the die's interval is then the next one. -/
def State.nextInterval (s : State) (d : Nat) : State :=
  let ended := (dieCourses d).filter fun k => s.inTransfer k
  let s := s.setDie d { s.dieAt d with interval := (s.dieAt d).interval + 1 }
  ended.foldl (fun s k => (s.setCourse k { s.courseAt k with transferAt := none }).relevel k) s
/-- Whether what a core number names belongs to a die: a switched-out core to that of its logical number. -/
def State.ofDie (s : State) (d c : Nat) : Bool :=
  if c < 8192 then dieOf c == d else (s.physOf (BitVec.ofNat 13 c)).all fun p => dieOf p == d
/-- A fall begins (R351): every granted claim of the die ends, those of switched-out threads with them (log 47), and every course above level 0 runs
at level 1. -/
def State.beginFall (s : State) (d : Nat) : State :=
  let s := s.setDie d { s.dieAt d with fall := 2 }
  let s := (dieCourses d).foldl (fun s k =>
    if (s.courseAt k).level = 0 then s
    else (s.setCourse k { s.courseAt k with inFall := true }).setLevel k 1) s
  { s with cores := s.cores.map fun e =>
      if s.ofDie d e.1 then (e.1, { e.2 with slots := e.2.slots.map fun sl => { sl with claim := 0 } }) else e }
/-- A fall goes on: to level 0, and one interval later it is over. -/
def State.stepFall (s : State) (d : Nat) : State :=
  let y := s.dieAt d
  if y.fall = 2 then
    (dieCourses d).foldl (fun s k => if (s.courseAt k).inFall then s.setLevel k 0 else s) (s.setDie d { y with fall := 1 })
  else if y.fall = 1 then
    (dieCourses d).foldl (fun s k => if (s.courseAt k).inFall then
      (s.setCourse k { s.courseAt k with inFall := false }).relevel k else s) (s.setDie d { y with fall := 0 })
  else s
/-- Step 3: the fall test. -/
def State.fallTest (s : State) (d : Nat) : State :=
  let y := s.dieAt d
  if y.fall = 0 && y.pool = 0 && ((dieCourses d).any fun k => (s.courseAt k).level != 0 && !(s.courseAt k).inFall) then s.beginFall d
  else s
/-- The instant at which the interval ends that a die stands in (R350). -/
def Die.intervalEnd (d : Die) : Nat := 5000 * (d.interval + 1)
/-- `INTERVAL_END`: the end step of a die's interval, once the instant has passed its end; then the transfers of the next one begin. -/
def execIntervalEnd (die : Nat) (s : State) : Step :=
  if s.instant.toNat < (s.dieAt die).intervalEnd then .next s
  else
    let s := (dieCourses die).foldl (fun s k => s.refund die k) s
    let s := (dieCourses die).foldl (fun s k => s.charge die k) s
    let s := s.nextInterval die
    let s := if (s.dieAt die).fall = 0 then s.fallTest die else s.stepFall die
    let s := ((dieCourses die).filter fun k => s.inTransfer k).foldl (fun s k => s.relevel k) s
    .next ((dieCourses die).foldl (fun s k =>
      let x := s.courseAt k
      let y := { x with highest := x.level, busy := s.holdsThread k }
      if x = Course.reset && y = Course.reset then s else s.setCourse k y) s)

end Sys2Proof.Machine
end

