-- ==== Sys2Proof/Machine/Fabric.lean ====
section
/-! DEFINITION. What peers ask of this chip and what they tell it (R29, R193, R313, R330, R331, R340 to R342): packets that arrive, messages
held at the port unit, notices, and the loss of a link. -/

namespace Sys2Proof.Machine

/-! ## Peer traffic accepted (R340) -/

/-- The peer indices of a context that name a chip. -/
def Context.indicesOf (x : Context) (chip : Nat) : List Nat :=
  (List.range 32).filter fun i => match x.peers[i]? with | some e => e.valid && e.chip.toNat == chip | none => false
/-- Whether a context accepts traffic from a context of a chip: its own table lists that chip with that PCTX. -/
def State.accepts (s : State) (pctx chip ctx : Nat) : Bool :=
  match s.ctx? pctx with
  | some x => (x.indicesOf chip).any fun i => match x.peers[i]? with | some e => e.pctx.toNat == ctx | none => false
  | none => false
/-- Whether every byte of a range is device memory that a context may reach (R287). -/
def State.rangeReach (s : State) (ctx pa n : Nat) (write : Bool) : Bool :=
  (List.range ((pa % 2097152 + n) / 2097152 + 1)).all fun i =>
    let f := pa / 2097152 + i
    decide (pa + n ≤ f * 2097152) || (decide (f < 262144) && s.frameReach ctx (f * 2097152) write)
def State.reply (s : State) (o : PeerOut) : State := { s with sent := s.sent ++ [o] }

/-! ## Messages from peers (R29, R341) -/

/-- A message with the LID of its mirror and SKIND 2. -/
def mirrored (m : Msg) (l : BitVec 20) : Msg :=
  BitVec.ofNat 512 (m.toNat - recBits m 48 24 * 2 ^ 48 + (l.toNat + 2 * 2 ^ 20) * 2 ^ 48)
/-- The live mirror of a key. -/
def State.mirrorOf (s : State) (pctx : Nat) (key : Nat × Nat × BitVec 20 × Word) : Option (BitVec 20) :=
  (s.lidsOf pctx).find? fun l => match s.lineage? pctx l with
    | some x => x.mirror == some key && !s.annulled pctx l
    | none => false
/-- The mirror a message is bound to, made where its key has none; none while the lineage table is full. -/
def State.takeMirror (s : State) (h : HeldMsg) : Option (State × BitVec 20) :=
  let key := (h.chip, h.sctx, h.lid, h.expiry)
  match s.mirrorOf h.pctx key with
  | some l => some (s, l)
  | none => (s.freeLid h.pctx).map fun l => (s.setLineage h.pctx l ⟨h.expiry, none, 0, 0, .live, some key, [], none, none⟩, l)
/-- A held message released, where it can be: bound and appended, refused where its target is one no more, or, for one that a stub sent on,
appended or removed with its lineage. -/
def State.release (s : State) (h : HeldMsg) : Option State :=
  let target := s.targetCore h.pctx h.core
  let s := s.sawCore h.pctx h.core
  match target with
  | none => if h.stubbed then some (s.liveDown h.pctx (msgLid h.msg)) else some (s.reply (.refusal h.chip))
  | some c =>
    if h.stubbed then
      if s.annulled h.pctx (msgLid h.msg) then some (s.liveDown h.pctx (msgLid h.msg))
      else if s.hasCredit h.pctx (.localCore c) then some ((s.takeCredit h.pctx (.localCore c)).deliverHops h.pctx c h.msg h.hops)
      else none
    else if !s.hasCredit h.pctx (.localCore c) then none
    else match s.takeMirror h with
      | none => none
      | some (s, l) =>
        let s := (s.liveUp h.pctx l).takeCredit h.pctx (.localCore c)
        some ((s.deliverHops h.pctx c (mirrored h.msg l) h.hops).reply (.ack h.chip))
/-- A message from a peer: removed where it has expired or its target is refused, bound where it can be, held otherwise (R341). -/
def State.portMessage (s : State) (h : HeldMsg) : State :=
  if h.expiry ≤ s.instant then s.reply (.ack h.chip)
  else match s.release h with
    | some s' => s'
    | none => { s with heldMsgs := s.heldMsgs ++ [h] }
/-- `PORT_MESSAGE_RELEASE`: the i-th held message goes on. -/
def execPortRelease (i : Nat) (s : State) : Step :=
  match s.heldMsgs[i]? with
  | none => .next s
  | some h =>
    if h.expiry ≤ s.instant then .next s
    else match { s with heldMsgs := s.heldMsgs.eraseIdx i }.release h with
      | some s' => .next s'
      | none => .next s
/-- `PORT_HELD_MESSAGE_EXPIRY`: a held message whose expiry has passed is removed with no mirror; one that a stub sent on goes with its
lineage. -/
def execHeldExpiry (i : Nat) (s : State) : Step :=
  match s.heldMsgs[i]? with
  | none => .next s
  | some h =>
    let gone := { s with heldMsgs := s.heldMsgs.eraseIdx i }
    if h.stubbed then
      .next (if s.annulled h.pctx (msgLid h.msg) then gone.liveDown h.pctx (msgLid h.msg) else s)
    else .next (if h.expiry ≤ s.instant then gone.reply (.ack h.chip) else s)

/-! ## Atomics and barrier steps from peers (R209, R221) -/

/-- The reply to a barrier step: PHASE before, PHASE after, ABRT before in bit 62, and bit 63 where there is no barrier. -/
def barReply (o : Option (State × BarV × BarV)) : Word :=
  match o with
  | some (_, b, b') => w64 (b.phase.toNat + b'.phase.toNat * 65536 + b.abrt.toNat * 2 ^ 62)
  | none => w64 (2 ^ 63)
/-- A barrier step of a peer. -/
def State.peerBarrier (s : State) (chip pctx : Nat) (kind : Fin 5) (pa arg : Nat) : State :=
  let r := BarRef.dev pa true
  let ans (o : Option (State × BarV × BarV)) : State :=
    (match o with | some (s', _, _) => s' | none => s).reply (.value chip (barReply o))
  match kind with
  | 0 => ans (s.arriveAt r 0 0)
  | 1 => ans (s.abortAt r)
  | 2 =>
    if 2 ^ 32 ≤ arg then
      let (s', b) := s.initAt r (BitVec.ofNat 16 (arg % 65536)) pctx
      s'.reply (.value chip (barReply (some (s', b, b))))
    else ans (s.expectAt r (BitVec.ofNat 32 arg))
  | 3 => if 2 ^ 16 ≤ arg then ans (s.tryAt r 0 0) else ans (s.withdrawAt r (BitVec.ofNat 16 arg) 0 0)
  | 4 => (match s.gainAt r arg with | some (s', _, _) => s' | none => s).reply (.ack chip)

/-- A peer's member whose operation is cancelled leaves the group that it waits in (R229). -/
def State.leaveColl (s : State) (chip pctx pa rank : Nat) : State :=
  let its (m : CollMember) : Bool := m.chip == some chip && m.who.ctx == pctx && m.rank == rank
  { s with colls := s.colls.map fun g => if g.obj.same (.dev pa true) then { g with members := g.members.filter fun m => !its m } else g }
/-- A packet of a peer taken (R193): refused where the context does not accept it or may not reach the bytes (R340). A gate without a count
waits. -/
def State.incoming (s : State) (chip ctx pctx : Nat) (item : PeerItem) : State :=
  if !s.accepts pctx chip ctx then s.reply (.refusal chip)
  else match item with
    | .store pa bytes =>
      if s.rangeReach pctx pa bytes.length true then (s.writeCell pa bytes none).reply (.ack chip) else s.reply (.refusal chip)
    | .message lid expiry core score schip len tag payload hops =>
      s.portMessage ⟨chip, ctx, lid, expiry, core, pctx, mkMsg tag len score schip 0 2 0 payload.toNat, hops, false⟩
    | .atomic op ty pa b cmp =>
      let q : AmoReq := ⟨op, ty, .sys, pa, b, cmp⟩
      if s.rangeReach pctx pa ty.size true && pa % ty.size = 0 then
        if s.amoReady 0 pctx q then let (s, old) := s.amoStep 0 pctx q; s.reply (.value chip (w64 old)) else s
      else s.reply (.refusal chip)
    | .barrier kind pa arg =>
      if s.rangeReach pctx pa 16 true && pa % 16 = 0 then s.peerBarrier chip pctx kind pa arg else s.reply (.refusal chip)
    | .member pa rank len isRed op ty bytes =>
      if s.rangeReach pctx pa 16 true && pa % 16 = 0 then s.peerMember chip pctx pa rank len isRed op ty bytes
      else s.reply (.memberDone chip rank 4 0 [])
    | .memberGone pa rank => s.leaveColl chip pctx pa rank
    | .abort gran => s.abortRemote chip gran none

/-! ## Annul and reset notices (R313, R342) -/

/-- Unfreed mirrors of a source chip, context and LID: context and LID on this chip. -/
def State.mirrorsFrom (s : State) (chip ctx : Nat) (l : BitVec 20) : List (Nat × BitVec 20) :=
  s.lineages.filterMap fun e => match e.2.mirror with
    | some (c, k, j, _) => if c = chip && k = ctx && j = l then some (e.1 / 1048576, BitVec.ofNat 20 (e.1 % 1048576)) else none
    | none => none
/-- `ANNUL_NOTICE`: every mirror of the lineage that exists is annulled with its descendants; messages of it that are still held are removed,
since no handler of theirs may start after the notice (log 26). -/
def execAnnulNotice (chip ctx : Nat) (l : BitVec 20) (s : State) : Step :=
  let s := (s.mirrorsFrom chip ctx l).foldl (fun s e => s.annulLineage e.1 e.2) s
  let mine (h : HeldMsg) : Bool := !h.stubbed && h.chip == chip && h.sctx == ctx && h.lid == l
  let gone := s.heldMsgs.filter mine
  let s := { s with heldMsgs := s.heldMsgs.filter fun h => !mine h }
  .next (gone.foldl (fun s _ => s.reply (.ack chip)) s)
/-- Reset notices whose mirrors have all been freed are acknowledged. -/
def State.resetAcks (s : State) : State :=
  let due := s.fw.resetNotices.filter fun n => n.2.2.all fun l => (s.mirrorsFrom n.1 n.2.1 l).isEmpty
  if due.isEmpty then s
  else
    let s := { s with fw := { s.fw with resetNotices := s.fw.resetNotices.filter fun n => !due.contains n } }
    due.foldl (fun s n => s.reply (.resetAck n.1)) s
/-- `RESET_NOTICE`. -/
def execResetNotice (chip ctx : Nat) (ls : List (BitVec 20)) (s : State) : Step :=
  .next ({ s with fw := { s.fw with resetNotices := s.fw.resetNotices ++ [(chip, ctx, ls)] } }.resetAcks)

/-! ## The fence tracker (R193, R200, R230) -/

/-- A part of an entry applied on this chip; the entry goes with its last part. -/
def State.applyPart (s : State) (id : Nat) : State :=
  { s with ft := s.ft.filterMap fun e => if e.id != id then some e else if e.parts ≤ 1 then none else some { e with parts := e.parts - 1 } }
/-- A part answered at a peer. -/
def State.answerPart (s : State) (id : Nat) (ok : Bool) : State :=
  { s with ft := s.ft.map fun e =>
      if e.id != id then e else { e with parts := e.parts - 1, answered := some (ok && e.answered != some false) } }
/-- What a peer message's confirmation or failure frees: its credit, and its count in LIVE. -/
def State.freeMessage (s : State) (e : FtEntry) : State :=
  match e.msg, e.peer with
  | some (ctx, l), some p => (s.freeCredit ctx false (.peerCore p 0)).liveDown ctx l
  | _, _ => s
/-- Whether a task of a number stands somewhere: in a slot, a package, or waiting to re-run. -/
def State.taskStands (s : State) (id : Nat) : Bool :=
  s.cores.any (fun e => e.2.slots.any (fun sl => sl.task.isSome && sl.taskId == id)
    || e.2.inbox.any (fun q => match q.2.entry with | .package _ _ (some pk) => pk.task.id == id | _ => false))
  || s.transit.any fun pk => pk.task.id == id
/-- An entry confirmed, or marked failed; a failed entry stays for the fence of its task, where that stands. -/
def State.endEntry (s : State) (e : FtEntry) (fail : Option FailReason) : State :=
  let s := s.freeMessage e
  match fail with
  | none => { s with ft := s.ft.filter fun x => x.id != e.id }
  | some r =>
    if s.taskStands e.owner then
      { s with ft := s.ft.map fun x => if x.id = e.id then { x with failed := some r, msg := none, parts := 0, answered := none } else x }
    else { s with ft := s.ft.filter fun x => x.id != e.id }

/-! ## Link loss (R193, R194, R253, R331) -/

/-- The peers of every context that name a chip: context and index. -/
def State.namesOf (s : State) (chip : Nat) : List (Nat × Nat) :=
  s.contexts.flatMap fun e => (e.2.indicesOf chip).map fun i => (e.1, i)
/-- Entries of a context's peer table marked dead. -/
def Context.markDead (x : Context) (chip : Nat) : Context :=
  { x with peers := x.peers.map fun e => if e.valid && e.chip.toNat == chip then { e with dead := true, rewritten := e.rewritten && e.dead } else e }
/-- A request of a slot whose peer has gone: the answer REFUSED with DETAIL 1. -/
def deadAnswer (names : List (Nat × Nat)) (ctx : Nat) (lost : List Nat) (r : Remote) : Remote :=
  let gone := match r.req with
    | .amo k => lost.contains k
    | .gate k => lost.contains k
    | q => match q.obj with | some (.peer p _, _) => names.contains (ctx, p) | _ => false
  if r.ans.isNone && gone then { r with ans := some ⟨0, codeRefused, 1⟩ } else r
/-- What a slot loses with a link: its answers, and the steps still to be taken there. -/
def Slot.linkDead (names : List (Nat × Nat)) (ctx : Nat) (lost : List Nat) (sl : Slot) : Slot :=
  { sl with
    remote := sl.remote.map (deadAnswer names ctx lost)
    orphans := sl.orphans.filter fun o => match o.2.obj with | some (.peer p _, _) => !names.contains (ctx, p) | _ => true }
def Core.linkDead (names : List (Nat × Nat)) (lost : List Nat) (x : Core) : Core :=
  { x with slots := x.slots.map fun sl => sl.linkDead names (match sl.task with | some k => k.ctx | none => x.ctx.getD 0) lost }
/-- The link to a chip declared dead: its queues are dropped and their entries, with those whose answers have not come back, fail: those of whose
parts some have left the store path. Tasks that have read there are aborted; tokens from there are removed. -/
def State.linkDead (s : State) (chip : Nat) : State :=
  let names := s.namesOf chip
  let s := { s with
    contexts := s.contexts.map fun (e : Nat × Context) => (e.1, e.2.markDead chip)
    lq := s.lq.filter fun e => !names.contains (e.ctx, e.peer)
    annuls := s.annuls.filter fun e => !names.contains (e.1, e.2.1)
    tokens := s.tokens.filter fun t => t.chip != some chip }
  let shipped := s.ft.filter fun e => e.failed.isNone && (match e.peer with
    | some p => names.contains (e.ctx, p) && (e.answered.isSome || decide ((s.op.filter fun o => o.ft == e.id).length < e.parts))
    | none => false)
  let lost := shipped.map fun e => e.id
  let s := shipped.foldl (fun s e => s.endEntry e (some .deadLink)) s
  let s := { s with cores := s.cores.map fun (e : Nat × Core) => (e.1, e.2.linkDead names lost) }
  s.abortWhere (fun ctx g => match g.peer with | some p => names.contains (ctx, p) | none => false) none
/-- `LINK_LOSS`. -/
def execLinkLoss (chip : Nat) (s : State) : Step := .next (s.linkDead chip)
/-- `PEER_DEAD_TIMEOUT` (R331): an unacknowledged packet, or no port path left, declares the peer dead; bound mirrors stay. -/
def execPeerDead (chip : Nat) (s : State) : Step := .next (s.linkDead chip)

end Sys2Proof.Machine
end

