-- ==== Sys2Proof/Machine/Ordering.lean ====
section
/-! DEFINITION. The steps of the ordering machine (R190 to R201): store path, link queues, atomics, sends, confirmations and commits, and the
steps that a waiting unit takes at an object held elsewhere (R221). -/

namespace Sys2Proof.Machine

/-! ## Store path and link queues (R193) -/

/-- The direct-send condition (R193): of the entries its thread put on the path before it, none that targets this chip is left, nor for a
message to a peer one that goes there. -/
def State.mayDirectSend (s : State) (older : List OpEntry) (peer : Option Nat) : Bool :=
  older.all fun e =>
    let there := peer.isSome && s.sameChip e.ctx e.gran.peer peer
    match e.body with
    | .message .. => !there
    | .deleg .. => true
    | _ => e.gran.peer.isSome && !there
/-- The entries of one thread's store path, oldest first: those of the slot that made them. -/
def State.pathOf (s : State) (c : Nat) (t : Fin 4) : List OpEntry := s.op.filter fun e => e.core == c && e.slot == t
/-- The older entries of an entry's thread. -/
def State.olderThan (s : State) (e : OpEntry) : List OpEntry := (s.op.takeWhile fun x => x != e).filter fun x => x.owner == e.owner
/-- Whether no older entry of a store-path entry's thread targets its granule. -/
def State.firstOnGran (s : State) (e : OpEntry) : Bool := (s.olderThan e).all fun x => !s.sameGran x.ctx x.gran e.gran
/-- Whether no older entry of a store-path entry's thread goes to its peer chip: a thread's entries to one peer chip arrive in program order
(R193). -/
def State.firstToChip (s : State) (e : OpEntry) : Bool := (s.olderThan e).all fun x => !s.sameChip e.ctx x.gran.peer e.gran.peer
/-- The slot that runs a task, wherever it stands. -/
def State.slotOfTask (s : State) (id : Nat) : Option (Nat × Fin 4) :=
  (s.cores.flatMap fun e => ([0, 1, 2, 3] : List (Fin 4)).filterMap fun t =>
    let sl := e.2.slots.get t
    if sl.task.isSome && sl.taskId == id then some (e.1, t) else none).head?
/-- The result of an atomic or gate given to the unit that waits for it; where none does, it is discarded (R201). -/
def Slot.answer (ft : Nat) (a : RemoteAns) (sl : Slot) : Slot :=
  match sl.remote with
  | some ⟨.amo k, none⟩ => if k = ft then { sl with remote := some ⟨.amo k, some a⟩ } else sl
  | some ⟨.gate k, none⟩ => if k = ft then { sl with remote := some ⟨.gate k, some a⟩ } else sl
  | _ => sl
def State.answerAmo (s : State) (owner ft : Nat) (a : RemoteAns) : State :=
  match s.slotOfTask owner with
  | some (c, t) => s.setSlot c t ((s.slotAt c t).answer ft a)
  | none => s
/-- `APPLY`: a store entry for this chip is written into its cell, leaves the path and is confirmed. -/
def execApply (c : Nat) (t : Fin 4) (i : Nat) (s : State) : Step :=
  match (s.pathOf c t)[i]? with
  | none => .next s
  | some e =>
    match e.body with
    | .store bytes mask =>
      if e.gran.peer.isSome || !s.firstOnGran e then .next s
      else
        let s := { s with op := s.op.erase e }
        let s := if isWindow (64 * e.gran.num) then s.winGran e.ctx e.gran.num bytes mask
          else s.writeGran e.gran.num bytes mask none
        .next (s.applyPart e.ft)
    | _ => .next s
/-- Whether a peer of a context is gone, as an entry's number in the tracker names it. -/
def State.failPart (s : State) (ft : Nat) : State :=
  match s.ft.find? fun e => e.id == ft with
  | some e => s.endEntry e (some .deadLink)
  | none => s
/-- `SHIP`: a store or atomic for a peer moves to the tail of its link queue; on a dead link it fails at once. -/
def execShip (c : Nat) (t : Fin 4) (i : Nat) (s : State) : Step :=
  match (s.pathOf c t)[i]? with
  | none => .next s
  | some e =>
    match e.gran.peer with
    | none => .next s
    | some p =>
      let go (b : LqBody) : State :=
        let gone := { s with op := s.op.erase e }
        if !s.firstToChip e then s
        else if s.deadPeer e.ctx p then (gone.failPart e.ft).answerAmo e.owner e.ft ⟨0, codeRefused, 1⟩
        else
          let q : LqEntry := ⟨e.owner, e.core, e.slot, e.ctx, p, some e.ft, b⟩
          { gone with lq := gone.lq ++ [q] }
      match e.body with
      | .store bytes mask => .next (go (.store e.gran.num bytes mask))
      | .atomic a => .next (go (.atomic a))
      | _ => .next s
/-- `ATOMIC`: the read-modify-write of an entry for this chip, as one step; the old value goes to the unit that waits for it. -/
def execAtomic (c : Nat) (t : Fin 4) (i : Nat) (s : State) : Step :=
  match (s.pathOf c t)[i]? with
  | none => .next s
  | some e =>
    match e.body with
    | .atomic q =>
      if e.gran.peer.isSome || !s.firstOnGran e || !s.amoReady e.core e.ctx q then .next s
      else
        let (s, old) := { s with op := s.op.erase e }.amoStep e.core e.ctx q
        .next ((s.applyPart e.ft).answerAmo e.owner e.ft ⟨w64 old, codeDone, 0⟩)
    | _ => .next s
/-- `DIRECT_SEND`: the message or request in entry i is appended. One of an annulled lineage vanishes (R201). -/
def execDirectSend (c : Nat) (t : Fin 4) (i : Nat) (s : State) : Step :=
  match (s.pathOf c t)[i]? with
  | none => .next s
  | some e =>
    let older := s.olderThan e
    let gone := { s with op := s.op.erase e }
    match e.body with
    | .message target m =>
      if s.annulled e.ctx (msgLid m) then
        .next ({ gone with ft := gone.ft.filter fun f => f.id != e.ft || e.ft = 0 }.freeCredit e.ctx false target
          |>.liveDown e.ctx (msgLid m))
      else (match target with
        | .localCore d => if s.mayDirectSend older none then .next ((gone.deliverMsg e.ctx d m).sample (dieOf e.core) 3 (s.instant - e.at_)) else .next s
        | .peerCore p core =>
          if !s.mayDirectSend older (some p) then .next s
          else if s.deadPeer e.ctx p then .next (gone.failPart e.ft)
          else
            let q : LqEntry := ⟨e.owner, e.core, e.slot, e.ctx, p, some e.ft, .message core m 0⟩
            .next (({ gone with lq := gone.lq ++ [q] }).noteSent e.ctx (msgLid m) p))
    | .deleg d q =>
      if s.annulled q.ctx q.lid then .next ((gone.freeCredit e.ctx true (.localCore d)).liveDown q.ctx q.lid)
      else if s.mayDirectSend older none then .next (gone.deliverDeleg d q)
      else .next s
    | _ => .next s

/-! ## Answers from peers (R193, R221) -/

/-- What a peer's barrier step answers a request: the request goes on to its withdrawal, or has its answer. -/
def peerAns (req : RemoteReq) (v : PeerVerdict) : RemoteAns ⊕ RemoteReq :=
  match v with
  | .refused => .inl ⟨0, codeRefused, 2⟩
  | .ack => .inl ⟨0, codeDone, 0⟩
  | .value w =>
    let before : BitVec 16 := BitVec.ofNat 16 (bitsOf w.toNat 0 16)
    let after : BitVec 16 := BitVec.ofNat 16 (bitsOf w.toNat 16 16)
    if w.getLsbD 63 then .inl noBarrier
    else match req with
      | .withdraw r none code => .inr (.withdraw r (some before) code)
      | .withdraw _ (some p) code => .inl (withdrawAns p code ⟨w.getLsbD 62, before, 0, 0, 0, 0⟩)
      | .trySync _ code => .inl (withdrawAns before code ⟨false, after, 0, 0, 0, 0⟩)
      | _ => .inl ⟨before.setWidth 64, codeDone, after.setWidth 32⟩
/-- Whether a request is the one that a link-queue entry carries. -/
def RemoteReq.isLink (req : RemoteReq) (kind : Fin 5) (pa arg : Nat) : Bool := req.onLink == some (kind, pa, arg)
/-- The first step still to be taken of a task that fits changed as its answer says. -/
def answerOrphan (owner : Nat) (kind : Fin 5) (pa arg : Nat) (v : PeerVerdict) : List (Nat × RemoteReq) → List (Nat × RemoteReq)
  | [] => []
  | (id, req) :: r =>
    if id == owner && req.isLink kind pa arg then
      (match peerAns req v with | .inl _ => r | .inr req' => (id, req') :: r)
    else (id, req) :: answerOrphan owner kind pa arg v r
/-- A peer's answer to a barrier step given to the unit that waits, or to the step left by one that does not. -/
def State.answerBar (s : State) (e : LqEntry) (kind : Fin 5) (pa arg : Nat) (v : PeerVerdict) : State :=
  let orphan (s : State) : State :=
    { s with cores := s.cores.map fun (x : Nat × Core) => (x.1, { x.2 with slots := x.2.slots.map fun sl =>
        { sl with orphans := answerOrphan e.owner kind pa arg v sl.orphans } }) }
  match s.slotOfTask e.owner with
  | none => orphan s
  | some (c, t) =>
    let sl := s.slotAt c t
    match sl.remote with
    | some ⟨req, none⟩ =>
      if req.isLink kind pa arg then
        s.setSlot c t { sl with remote := some (match peerAns req v with | .inl a => ⟨req, some a⟩ | .inr req' => ⟨req', none⟩) }
      else orphan s
    | _ => orphan s
/-- The granule of its peer that a link-queue entry writes. -/
def LqEntry.writes (e : LqEntry) : Option Nat :=
  match e.body with
  | .store g _ _ => some g
  | .atomic q => some (q.pa / 64)
  | .barrier _ pa _ => some (pa / 64)
  | .message .. => none
/-- The aborts of what an entry has written at its peer (R193, R194). -/
def State.wroteThere (s : State) (e : LqEntry) : State :=
  match e.writes with
  | some g => s.abortPeer e.ctx e.peer g none
  | none => s
/-- An item of this chip reaches its peer: only the head of its thread's link queue does. -/
def State.outgoing (s : State) (c : Nat) (t : Fin 4) (peer : Nat) (v : PeerVerdict) : State :=
  match s.lq.find? fun e => e.core == c && e.slot == t && e.peer == peer with
  | none => s
  | some e =>
    let first := (s.lq.takeWhile fun x => x != e).all fun x => !(x.owner == e.owner && x.ctx == e.ctx && s.sameChip e.ctx (some x.peer) (some e.peer))
    let gone := { s with lq := s.lq.erase e }
    let ok := match v with | .refused => false | _ => true
    if !first then s
    else match e.body with
      | .barrier kind pa arg =>
        let wrote : Bool := match v with | .value w => !w.getLsbD 63 | .ack => true | .refused => false
        (if wrote then gone.wroteThere e else gone).answerBar e kind pa arg v
      | .atomic q => (match v with
        | .ack => s
        | .refused => (gone.answerPart (e.ft.getD 0) false).answerAmo e.owner (e.ft.getD 0) ⟨0, codeRefused, 2⟩
        | .value w =>
          if q.op = 8 && laneInt .d w.toNat ≤ 0 then s
          else ((gone.wroteThere e).answerPart (e.ft.getD 0) true).answerAmo e.owner (e.ft.getD 0) ⟨w, codeDone, 0⟩)
      | _ => (if ok then gone.wroteThere e else gone).answerPart (e.ft.getD 0) ok
/-- `ARRIVE`. -/
def execArrive (a : Arrival) (s : State) : Step :=
  match a with
  | .outgoing c t peer v => .next (s.outgoing c t peer v)
  | .incoming chip ctx pctx item => .next (s.incoming chip ctx pctx item)
/-- The fence-tracker entries made in a slot. -/
def State.trackerOf (s : State) (c : Nat) (t : Fin 4) : List FtEntry := s.ft.filter fun e => e.core == c && e.slot == t
/-- `CONFIRM`: the answers to an entry have all returned: it is confirmed, or marked failed with "refused access". -/
def execConfirm (c : Nat) (t : Fin 4) (i : Nat) (s : State) : Step :=
  match (s.trackerOf c t)[i]? with
  | none => .next s
  | some e =>
    match e.answered with
    | none => .next s
    | some ok =>
      if e.parts != 0 then .next s
      else
        let s := if e.msg.isSome then s.sample (dieOf e.core) 3 (s.instant - e.at_) else s
        .next (s.endEntry e (if ok then none else some .refused))

/-! ## Commit (R195 to R198) -/

/-- Whether a slot's task waits for its commit step. -/
def Slot.committing (sl : Slot) : Bool :=
  match sl.task, sl.wait with
  | some k, some w => k.spec && w.stage == stageCommit
  | _, _ => false
/-- Whether a task that waits for its commit step is commit-ready (R196): no task of its order domain has a lower sequence. -/
def State.commitReady (s : State) (c : Nat) (t : Fin 4) : Bool :=
  let sl := s.slotAt c t
  match sl.task with
  | none => false
  | some k =>
    let d := tsDomain sl.thread.tstamp
    sl.committing && !s.annulled k.ctx sl.thread.lid
      && (d == 0 || s.dq.all fun e => !(e.ctx == k.ctx && e.domain == d && decide (e.seq < tsSeq sl.thread.tstamp)))
/-- The instant at which a task became commit-ready. -/
def State.readyAt (s : State) (id : Nat) : Word := ((s.ready.find? fun e => e.1 == id).map fun e => e.2).getD s.instant
/-- The keys by which a tailpiece chooses (R197). -/
def State.commitKey (s : State) (c : Nat) (t : Fin 4) : List Nat :=
  let sl := s.slotAt c t
  [(s.readyAt sl.taskId).toNat, (tsDomain sl.thread.tstamp).toNat, c, t.val]
/-- The commit-ready slots of the chip. -/
def State.readySlots (s : State) : List (Nat × Fin 4) :=
  s.cores.flatMap fun e => ([0, 1, 2, 3] : List (Fin 4)).filterMap fun t =>
    if (e.2.slots.get t).committing && s.commitReady e.1 t then some (e.1, t) else none
/-- The instants at which tasks became commit-ready kept up to date. -/
def State.noteReady (s : State) : State :=
  { s with ready := s.readySlots.map fun e => ((s.slotAt e.1 e.2).taskId, s.readyAt (s.slotAt e.1 e.2).taskId) }
/-- Whether the tailpiece of a slot's die chooses it. -/
def State.chosen (s : State) (c : Nat) (t : Fin 4) : Bool :=
  s.commitReady c t && s.readySlots.all fun e => dieOf e.1 != dieOf c || keyLe (s.commitKey c t) (s.commitKey e.1 e.2)
/-- A granule store laid in granule order. -/
def insertGran (e : Nat × Nat × BitVec 512 × BitVec 64) : List (Nat × Nat × BitVec 512 × BitVec 64) → List (Nat × Nat × BitVec 512 × BitVec 64)
  | [] => [e]
  | x :: r => if keyLe [e.1, e.2.1] [x.1, x.2.1] then e :: x :: r else x :: insertGran e r
/-- The peer granules of a commit buffer, in granule order. -/
def peerGrans (cb : List CbEntry) : List (Nat × Nat × BitVec 512 × BitVec 64) :=
  cb.foldl (fun acc e => match e with
    | .store ⟨some p, g⟩ b m => insertGran (p, g, b, m) acc
    | _ => acc) []
/-- A committed granule for a peer put into its link queue, or failed on a dead link. -/
def State.commitPeer (s : State) (e : Nat × Nat × BitVec 512 × BitVec 64) : State :=
  let (p, g, b, m) := e
  let ctx := s.curCtx
  let (s, k) := s.track (some p) 1 none
  if s.deadPeer ctx p then s.failPart k
  else
    let q : LqEntry := ⟨s.curTask, s.curCore, s.curSlot, ctx, p, some k, .store g b m⟩
    { s with lq := s.lq ++ [q] }
/-- A held message, record or request of the current thread published. -/
def State.publish (s : State) (e : CbEntry) : State :=
  let ctx := s.curCtx
  match e with
  | .store .. => s
  | .message (.localCore d) m => (s.deliverMsg ctx d m).sample (dieOf s.curCore) 3 0
  | .message (.peerCore p core) m =>
    let (s, k) := s.track (some p) 1 (some (ctx, msgLid m))
    if s.deadPeer ctx p then s.failPart k
    else
      let q : LqEntry := ⟨s.curTask, s.curCore, s.curSlot, ctx, p, some k, .message core m 0⟩
      ({ s with lq := s.lq ++ [q] }).noteSent ctx (msgLid m) p
  | .deque place r parent =>
    let (s, id) := s.fresh
    let x := s.co
    let s := s.setCo { x with deque := x.deque.map fun d =>
      if d.place = place then { d with rec? := some ⟨r, ctx, id, some parent, s.instant, 0, 1⟩ } else d }
    s.enterDq id ctx (recTstamp r)
  | .deleg d q => s.deliverDeleg d q
/-- The commit of the current thread's task: its local granules are written, its peer granules and what it holds are put on their way, and it
is irrevocable from then on. -/
def State.commitCur (s : State) : State :=
  let sl := s.sl
  let s := s.unready sl.taskId
  let s := s.setSl { sl with cb := [], rs := [], task := sl.task.map fun k => { k with spec := false } }
  let s := sl.cb.foldl (fun s e => match e with
    | .store ⟨none, g⟩ b m => s.writeGran g b m (some (s.curCore, s.curSlot))
    | _ => s) s
  let s := (peerGrans sl.cb).foldl State.commitPeer s
  sl.cb.foldl State.publish s
/-- `COMMIT`: the task that the tailpiece chooses commits; at `done` it then retires. -/
def execCommit (c : Nat) (t : Fin 4) (s : State) : Step :=
  if !s.chosen c t then .next s
  else
    let sl := s.slotAt c t
    match sl.task, sl.wait with
    | some k, some w =>
      let d := dieOf c
      let isDone := w.instr == .done
      let s := s.sample d 4 (s.effExpiry k.ctx sl.thread.lid - s.instant)
      let s := if isDone then s.sample d 5 (s.instant - w.t0) else s
      .next (s.asSlot c t fun s => if isDone then s.commitCur.retire else s.commitCur)
    | _, _ => .next s

/-! ## Steps at an object (R221) -/

/-- Whether the step of a request may be taken: an arrival needs its release precondition. -/
def State.mayStep (s : State) (owner : Nat) (req : RemoteReq) : Bool :=
  match req.obj with
  | some (r, rel) => !rel || s.released owner r
  | none => false
/-- What a request becomes when its step is taken, or leaves for a peer: `none` in the sum where it is still on its way. -/
def State.stepReq (s : State) (owner c : Nat) (t : Fin 4) (ctx : Nat) (req : RemoteReq) : State × (RemoteAns ⊕ RemoteReq) :=
  match req.obj with
  | some (.peer p _, _) =>
    if s.deadPeer ctx p then (s, .inl ⟨0, codeRefused, 1⟩)
    else match req.onLink with
      | none => (s, .inr req)
      | some (kind, pa, arg) =>
        let q : LqEntry := ⟨owner, c, t, ctx, p, none, .barrier kind pa arg⟩
        if s.lq.contains q then (s, .inr req) else ({ s with lq := s.lq ++ [q] }, .inr req)
  | _ => s.takeStep c t ctx req
/-- `BARRIER_ARRIVAL_STEP`: the step of the unit that waits, or else the first step left by one that does not, is taken. -/
def execBarrierStep (c : Nat) (t : Fin 4) (s : State) : Step :=
  let sl := s.slotAt c t
  let ctx := match sl.task with | some k => k.ctx | none => (s.homeCtx c).getD 0
  let left : State :=
    match sl.orphans.find? fun o => s.mayStep o.1 o.2 with
    | none => s
    | some (id, req) =>
      let (s, r) := s.stepReq id c t ctx req
      let now := s.slotAt c t
      let rest := match r with
        | .inl _ => now.orphans.erase (id, req)
        | .inr req' => now.orphans.map fun o => if o == (id, req) then (id, req') else o
      s.setSlot c t { now with orphans := rest }
  match sl.remote with
  | some ⟨req, none⟩ =>
    if s.mayStep sl.taskId req then
      let (s, r) := s.stepReq sl.taskId c t ctx req
      .next (s.setSlot c t { s.slotAt c t with
        remote := some (match r with | .inl a => ⟨req, some a⟩ | .inr req' => ⟨req', none⟩) })
    else .next left
  | _ => .next left

end Sys2Proof.Machine
end

