-- ==== Sys2Proof/Machine/Expand.lean ====
section
/-! DEFINITION. Expansion of `dx` and `dxa` (R71, R72), the order in which a unit's faults are raised (R57), the running of a unit of two
slots (R52, R53, R55), and the completion of a unit whose reply has come back (R209, R221). -/

namespace Sys2Proof.Machine

/-- What an A-slot instruction writes when its unit completes (R55); none for the illegal ones and for what stands in no A slot. -/
def resA (i : Instr) (s : State) : Option AResult :=
  match i with
  | .nopA => some ⟨.none, 0⟩
  | .add d a b ty => some (resAdd d a b ty s)
  | .sub d a b ty => some (resSub d a b ty s)
  | .mul d a b ty => some (resMul d a b ty s)
  | .mulh d a b ty => some (resMulh d a b ty s)
  | .mulhz d a b ty => some (resMulhz d a b ty s)
  | .div d a b ty => some (resDiv d a b ty s)
  | .divz d a b ty => some (resDivz d a b ty s)
  | .rem d a b ty => some (resRem d a b ty s)
  | .remz d a b ty => some (resRemz d a b ty s)
  | .and d a b ty => some (resAnd d a b ty s)
  | .or d a b ty => some (resOr d a b ty s)
  | .xor d a b ty => some (resXor d a b ty s)
  | .andn d a b ty => some (resAndn d a b ty s)
  | .shl d a b ty => some (resShl d a b ty s)
  | .shr d a b ty => some (resShr d a b ty s)
  | .sra d a b ty => some (resSra d a b ty s)
  | .rotl d a b ty => some (resRotl d a b ty s)
  | .clz d a ty => some (resClz d a ty s)
  | .ctz d a ty => some (resCtz d a ty s)
  | .popc d a ty => some (resPopc d a ty s)
  | .min d a b ty => some (resMin d a b ty s)
  | .max d a b ty => some (resMax d a b ty s)
  | .minz d a b ty => some (resMinz d a b ty s)
  | .maxz d a b ty => some (resMaxz d a b ty s)
  | .bfx d a b => some (resBfx d a b s)
  | .bfi d a b => some (resBfi d a b s)
  | .lea d a b k => some (resLea d a b k s)
  | .addiA d a imm => some (resAddiA d a imm s)
  | .moviA d imm => some (resMoviA d imm s)
  | .mulImm d a imm => some (resMulImm d a imm s)
  | .andImm d a imm => some (resAndImm d a imm s)
  | .orImm d a imm => some (resOrImm d a imm s)
  | .xorImm d a imm => some (resXorImm d a imm s)
  | .shlImm d a k => some (resShlImm d a k s)
  | .shrImm d a k => some (resShrImm d a k s)
  | .sraImm d a k => some (resSraImm d a k s)
  | .rotlImm d a k => some (resRotlImm d a k s)
  | .minImm d a imm => some (resMinImm d a imm s)
  | .maxImm d a imm => some (resMaxImm d a imm s)
  | .minzImm d a imm => some (resMinzImm d a imm s)
  | .maxzImm d a imm => some (resMaxzImm d a imm s)
  | .bfxImm d a desc => some (resBfxImm d a desc s)
  | .bfiImm d a desc => some (resBfiImm d a desc s)
  | .fadd d a b ty => some (resFadd d a b ty s)
  | .fsub d a b ty => some (resFsub d a b ty s)
  | .fmul d a b ty => some (resFmul d a b ty s)
  | .ffma d a b c ty => some (resFfma d a b c ty s)
  | .fmin d a b ty => some (resFmin d a b ty s)
  | .fmax d a b ty => some (resFmax d a b ty s)
  | .fsgn d a b ty => some (resFsgn d a b ty s)
  | .fsgnN d a b ty => some (resFsgnN d a b ty s)
  | .fsgnX d a b ty => some (resFsgnX d a b ty s)
  | .fcmp d a b ty cc => some (resFcmp d a b ty cc s)
  | .fcvt d a ty sat src => some (resFcvt d a ty sat src s)
  | .frint d a ty md => some (resFrint d a ty md s)
  | .fexp2f d a => some (resFexp2f d a s)
  | .fscaleb d a b ty => some (resFscaleb d a b ty s)
  | .fclass d a ty => some (resFclass d a ty s)
  | .frcp d a ty => some (resFrcp d a ty s)
  | .frsq d a ty => some (resFrsq d a ty s)
  | .fsqrt d a ty => some (resFsqrt d a ty s)
  | .vadd d a b k ty fn => some (resVadd d a b k ty fn s)
  | .vsub d a b k ty fn => some (resVsub d a b k ty fn s)
  | .vmul d a b k ty => some (resVmul d a b k ty s)
  | .vfma d a b c k ty => some (resVfma d a b c k ty s)
  | .vmin d a b k ty fn => some (resVmin d a b k ty fn s)
  | .vmax d a b k ty fn => some (resVmax d a b k ty fn s)
  | .vand d a b k ty => some (resVand d a b k ty s)
  | .vor d a b k ty => some (resVor d a b k ty s)
  | .vxor d a b k ty => some (resVxor d a b k ty s)
  | .vshl d a b k ty => some (resVshl d a b k ty s)
  | .vshr d a b k ty => some (resVshr d a b k ty s)
  | .vsra d a b k ty => some (resVsra d a b k ty s)
  | .vcmp d a b cc k ty => some (resVcmp d a b cc k ty s)
  | .vsel d a b c k ty => some (resVsel d a b c k ty s)
  | .vcvt d a src k ty fn => some (resVcvt d a src k ty fn s)
  | .vrint d a md k ty => some (resVrint d a md k ty s)
  | .vexp2f d a k => some (resVexp2f d a k s)
  | .vscaleb d a b k ty => some (resVscaleb d a b k ty s)
  | .vperm d a b c k ty fn => some (resVperm d a b c k ty fn s)
  | .vpermi d a b pat k ty => some (resVpermi d a b pat k ty s)
  | .vbcast d b k ty => some (resVbcast d b k ty s)
  | .vred d a op k ty => some (resVred d a op k ty s)
  | .vscan d a op k ty fn => some (resVscan d a op k ty fn s)
  | .vpopc d a k ty => some (resVpopc d a k ty s)
  | .vbin d a b k ty => some (resVbin d a b k ty s)
  | .vext d a b ty => some (resVext d a b ty s)
  | .vins d a b ty => some (resVins d a b ty s)
  | .vnarrow d a b src k ty fn => some (resVnarrow d a b src k ty fn s)
  | .vwiden d a h src k ty => some (resVwiden d a h src k ty s)
  | .vdot4 d a b k ty => some (resVdot4 d a b k ty s)
  | .vaddS d a b k ty fn => some (resVaddS d a b k ty fn s)
  | .vsubS d a b k ty fn => some (resVsubS d a b k ty fn s)
  | .vmulS d a b k ty => some (resVmulS d a b k ty s)
  | .vfmaS d a b c k ty => some (resVfmaS d a b c k ty s)
  | .vminS d a b k ty fn => some (resVminS d a b k ty fn s)
  | .vmaxS d a b k ty fn => some (resVmaxS d a b k ty fn s)
  | .vshlS d a b k ty => some (resVshlS d a b k ty s)
  | .vshrS d a b k ty => some (resVshrS d a b k ty s)
  | .vsraS d a b k ty => some (resVsraS d a b k ty s)
  | _ => none

/-- The meaning of a C-slot instruction that a dictionary entry stands for: a `dx` never stands for another (R71), and what stands in no C
slot has no effect there. -/
def execC (i : Instr) (s : State) : Step :=
  match i with
  | .nopC => execNopC s
  | .b d => execB d s
  | .bc p d => execBc p d s
  | .bnc p d => execBnc p d s
  | .bok d => execBok d s
  | .bfail d => execBfail d s
  | .call d => execCall d s
  | .callReg a => execCallReg a s
  | .j a => execJ a s
  | .ret => execRet s
  | .loop ri rb nb disp dist => execLoop ri rb nb disp dist s
  | .lend d => execLend d s
  | .lendPop => execLendPop s
  | .cmp d a b cc ty => execCmp d a b cc ty s
  | .sel d a b q => execSel d a b q s
  | .pset d a => execPset d a s
  | .psetAnd d a b => execPsetAnd d a b s
  | .psetOr d a b => execPsetOr d a b s
  | .psetXor d a b => execPsetXor d a b s
  | .psetNot d a => execPsetNot d a s
  | .ldi d lit => execLdi d lit s
  | .ldiHi d lit => execLdiHi d lit s
  | .addiC d a imm => execAddiC d a imm s
  | .moviC d imm => execMoviC d imm s
  | .getc d n => execGetc d n s
  | .setc a n => execSetc a n s
  | .trap a n => execTrap a n s
  | .brk imm => execBrk imm s
  | .udf => execUdf s
  | .ldB t m => execLdB t m s
  | .ldH t m => execLdH t m s
  | .ldW t m => execLdW t m s
  | .ldD t m => execLdD t m s
  | .ldZb t m => execLdZb t m s
  | .ldZh t m => execLdZh t m s
  | .ldZw t m => execLdZw t m s
  | .stB t m => execStB t m s
  | .stH t m => execStH t m s
  | .stW t m => execStW t m s
  | .stD t m => execStD t m s
  | .vld t m => execVld t m s
  | .vst t m => execVst t m s
  | .vldx d a b bu ty q => execVldx d a b bu ty q s
  | .vstx d a b bu ty q => execVstx d a b bu ty q s
  | .ldgB t m => execLdgB t m s
  | .ldgH t m => execLdgH t m s
  | .ldgW t m => execLdgW t m s
  | .ldgD t m => execLdgD t m s
  | .ldgZb t m => execLdgZb t m s
  | .ldgZh t m => execLdgZh t m s
  | .ldgZw t m => execLdgZw t m s
  | .stgB t m => execStgB t m s
  | .stgH t m => execStgH t m s
  | .stgW t m => execStgW t m s
  | .stgD t m => execStgD t m s
  | .amoAdd d a b ty sc ds => execAmoAdd d a b ty sc ds s
  | .amoMin d a b ty sc ds => execAmoMin d a b ty sc ds s
  | .amoMax d a b ty sc ds => execAmoMax d a b ty sc ds s
  | .amoAnd d a b ty sc ds => execAmoAnd d a b ty sc ds s
  | .amoOr d a b ty sc ds => execAmoOr d a b ty sc ds s
  | .amoXor d a b ty sc ds => execAmoXor d a b ty sc ds s
  | .amoSwap d a b ty sc ds => execAmoSwap d a b ty sc ds s
  | .amoCas d a b ty sc ds => execAmoCas d a b ty sc ds s
  | .fence d sc ds => execFence d sc ds s
  | .cp f => execCp f s
  | .cpDeal f => execCpDeal f s
  | .cpGath f => execCpGath f s
  | .cpRot f => execCpRot f s
  | .collRed f op ty => execCollRed f op ty s
  | .collGath f => execCollGath f s
  | .barInit t o count attach => execBarInit t o count attach s
  | .barExpect t o bytes => execBarExpect t o bytes s
  | .barArrive t o => execBarArrive t o s
  | .barWait t o => execBarWait t o s
  | .barSync t o => execBarSync t o s
  | .barAbort o => execBarAbort o s
  | .send rc rs ds len tag => execSend rc rs ds len tag s
  | .recv d a b ds => execRecv d a b ds s
  | .poll d b => execPoll d b s
  | .deleg rc ra rr ds nte ctag => execDeleg rc ra rr ds nte ctag s
  | .delegOn ds => execDelegOn ds s
  | .delegOff => execDelegOff s
  | .home d a b ds => execHome d a b ds s
  | .fork d => execFork d s
  | .join ds => execJoin ds s
  | .done => execDone s
  | .yield ds => execYield ds s
  | .irrev ds => execIrrev ds s
  | .migrate a ds => execMigrate a ds s
  | .gang d a ds => execGang d a ds s
  | .rejoin d ds => execRejoin d ds s
  | .nodeNew d a t ds count => execNodeNew d a t ds count s
  | .nodeDec a ds => execNodeDec a ds s
  | .tagEn a => execTagEn a s
  | .tagDis a => execTagDis a s
  | .tagPend d a => execTagPend d a s
  | .tagClr d a => execTagClr d a s
  | .lnew d e rp pm cl em adopt => execLnew d e rp pm cl em adopt s
  | .lext d a b => execLext d a b s
  | .lannul a => execLannul a s
  | .mma f kt => execMma f kt s
  | .mzero a ds => execMzero a ds s
  | .mdrain f dty sat => execMdrain f dty sat s
  | .hlease ds => execHlease ds s
  | .hrelease => execHrelease s
  | .hldw f org stg => execHldw f org stg s
  | .hswap ds => execHswap ds s
  | .hstream f org m1 acc0 za => execHstream f org m1 acc0 za s
  | .hdrain f dest n1 acc0 z => execHdrain f dest n1 acc0 z s
  | .hsave f loc n1 acc0 => execHsave f loc n1 acc0 s
  | .hrestore f loc n1 acc0 => execHrestore f loc n1 acc0 s
  | .boost875 d ds => execBoost875 d ds s
  | .boost1050 d ds => execBoost1050 d ds s
  | .boostOff d => execBoostOff d s
  | .dload t m => execDload t m s
  | .dset a => execDset a s
  | .dfence => execDfence s
  | _ => .next s

/-! ## Expansion (R71) -/

/-- What a word of a slot stands for. -/
inductive Expansion where
  /-- An invalid entry, with the active bank's handle. -/
  | undefined (handle : BitVec 32) (idx : BitVec 8)
  | illegal
  | instr (i : Instr)
  deriving DecidableEq, Repr

/-- A hole's bits placed in a template; bits that would land above bit 63 are dropped. -/
def putHole (t desc h : Nat) : Nat :=
  let pos := bitsOf desc 0 6
  (List.range (bitsOf desc 6 3)).foldl (fun t b =>
    if pos + b ≤ 63 then t - bitsOf t (pos + b) 1 * 2 ^ (pos + b) + bitsOf h b 1 * 2 ^ (pos + b) else t) t
/-- The template with its three holes filled, in order. -/
def DictEntry.fill (e : DictEntry) (h0 h1 h2 : Nat) : Nat :=
  let d := e.desc.toNat
  putHole (putHole (putHole e.template.toNat (bitsOf d 0 9) h0) (bitsOf d 9 9) h1) (bitsOf d 18 9) h2
def DictEntry.cls (e : DictEntry) : Nat := bitsOf e.desc.toNat 29 2
/-- A valid entry of a bank. -/
def Bank.entry? (b : Bank) (idx : BitVec 8) : Option DictEntry :=
  match tget b.entries idx.toNat with
  | some e => if e.desc.getLsbD 31 && e.cls != 3 then some e else none
  | none => none
def expOf : Option Instr → Expansion
  | some i => .instr i
  | none => .illegal
/-- A filled template in the C slot: narrow or wide. -/
def expandC (cls t : Nat) : Expansion :=
  let op := bitsOf t 24 7
  if cls = 0 && !loneC op && op != 0x7F then expOf (decodeC (t % 2 ^ 31) 0)
  else if cls = 1 && loneC op then expOf (decodeC (t % 2 ^ 31) (bitsOf t 32 32))
  else .illegal
/-- A filled template in the A slot. -/
def expandA (cls t : Nat) : Expansion :=
  if cls = 2 && bitsOf t 25 7 != 0x7F then expOf (decodeA (t % 2 ^ 32)) else .illegal
/-- The expansion of a slot's word against the store its unit decodes with. -/
def State.expandC (s : State) : Option Instr → Expansion
  | some (.dx idx h0 h1 h2) =>
    let b := s.sl.decodeDict.activeBank
    match b.entry? idx with
    | some e => Machine.expandC e.cls (e.fill h0.toNat h1.toNat h2.toNat)
    | none => .undefined b.handle idx
  | c => expOf c
def State.expandA (s : State) : Option Instr → Expansion
  | some (.dxa idx h0 h1 h2) =>
    let b := s.sl.decodeDict.activeBank
    match b.entry? idx with
    | some e => Machine.expandA e.cls (e.fill h0.toNat h1.toNat h2.toNat)
    | none => .undefined b.handle idx
  | a => expOf a
/-- The undefined-dictionary-entry fault of a slot (R72, R297). -/
def State.undefEntry (s : State) (slotF : Nat) (handle : BitVec 32) (idx : BitVec 8) : State :=
  s.takeTrap 3 slotF 0 handle.toNat (zext64 idx) s.th.pc

/-- `dx`: the instruction its entry stands for. -/
def execDx (idx : BitVec 8) (h0 h1 : BitVec 6) (h2 : BitVec 4) (s : State) : Step :=
  match s.expandC (some (.dx idx h0 h1 h2)) with
  | .undefined h i => .next (s.undefEntry 0 h i)
  | .illegal => .next (s.illegal 0)
  | .instr i => execC i s
/-- `dxa`. -/
def execDxa (idx : BitVec 8) (h0 h1 : BitVec 6) (h2 : BitVec 5) (s : State) : Step :=
  match s.expandA (some (.dxa idx h0 h1 h2)) with
  | .undefined h i => .next (s.undefEntry 1 h i)
  | .illegal => .next (s.illegal 1)
  | .instr i => match resA i s with
    | some r => .next (s.finishA r)
    | none => .next (s.illegal 1)

/-! ## The faults of a unit in their order, and its running (R55, R57) -/

/-- Row 3 for an expanded instruction: the fault opcodes and an unassigned control-register number. -/
def Expansion.bad : Expansion → Bool
  | .instr .udf => true
  | .instr .udfa => true
  | .instr (.getc _ n) => !crAssigned n.toNat
  | .instr (.setc _ n) => !crAssigned n.toNat
  | .illegal => true
  | _ => false
/-- The trap of rows 2 and 3 that a pair raises, if any. -/
def State.pairFault (s : State) (c a : Option Instr) : Option State :=
  let ec := s.expandC c
  let ea := s.expandA a
  match ec with
  | .undefined h i => some (s.undefEntry 0 h i)
  | _ => match ea with
    | .undefined h i => some (s.undefEntry 1 h i)
    | _ => if ec.bad then some (s.illegal 0) else if ea.bad then some (s.illegal 1) else none
/-- The A-slot result of a pair, computed from the pre-unit sources. -/
def State.pairA (s : State) (a : Instr) : State :=
  match s.expandA (some a) with
  | .instr i => match resA i s with
    | some r => s.latch r
    | none => s
  | _ => s
/-- A pair that raises no fault of rows 1 to 3, under the meanings `run`: an instruction beside a `nop` runs alone, and a C instruction beside
an A instruction runs with the A result held. -/
def State.runPair (run : Instr → State → Step) (c a : Instr) (s : State) : Step :=
  if a = .nopA then run c s
  else if c = .nopC then run a s
  else run c (s.pairA a)
/-- The loads from typed buffers (R103 to R105). -/
def loadsBuffer : Instr → Bool
  | .ldB .. => true
  | .ldH .. => true
  | .ldW .. => true
  | .ldD .. => true
  | .ldZb .. => true
  | .ldZh .. => true
  | .ldZw .. => true
  | .vld .. => true
  | .vldx .. => true
  | _ => false
/-- The unit that is about to run noted, where it is a typed-buffer load: a soft error that it meets names it (R312). -/
def State.noteLoad (s : State) (c : Instr) : State :=
  let isLoad := match s.expandC (some c) with | .instr i => loadsBuffer i | _ => false
  s.setSl { s.sl with lastLoad := if isLoad then some s.th.pc else none }
/-- A unit from its words. -/
def State.runUnit (run : Instr → State → Step) (w0 w1 : Nat) (s : State) : Step :=
  match readUnit w0 w1 with
  | .classFault => .next (s.takeTrap 4 2 0 0 0 s.th.pc)
  | .lone none => .next (s.illegal 0)
  | .lone (some c) => run c (s.noteLoad c)
  | .pair c a =>
    match s.pairFault c a, c, a with
    | some t, _, _ => .next t
    | none, some c, some a => (s.noteLoad c).runPair run c a
    | none, _, _ => .next s

/-- The state a meaning leaves. -/
def stateOf (s : State) : Step → State
  | .next t => t
  | _ => s
/-- `STEP_REPLY` (R209, R221): the reply to a slot's waiting unit completes it. -/
def execStepReply (c : Nat) (t : Fin 4) (s : State) : Step :=
  let sl := s.slotAt c t
  match sl.wait, sl.remote with
  | some w, some ⟨_, some _⟩ => .next (if s.slotAnnulled c t then s else s.asSlot c t fun s => stateOf s (execC w.instr s))
  | _, _ => .next s

end Sys2Proof.Machine
end

