-- ==== Sys2Proof/Machine/Scheduler.lean ====
section
/-! DEFINITION. The core scheduler and the clock's own steps: task start (R33, R37, R233, R248, R306), theft (R249), deadline steps (R243),
budget overruns (R252), park limits and replay timers (R300, R301), and absence tokens (R253). -/

namespace Sys2Proof.Machine

/-! ## Starting a task (R33) -/

/-- What a task starts from. -/
structure Begin where
  record : Rec
  kind : TaskKind
  id : Nat
  parent : Option Nat
  retries : Nat
  divider : Nat
  supervisor : Bool
  spec : Bool
  args : Vector Word 4
  deriving DecidableEq, Repr
/-- Why a record does not start: its kernel is not loaded, or its dictionary cannot be (KIND). -/
inductive StartFail where
  | noKernel
  | noDict (kind : Nat)
  deriving DecidableEq, Repr

/-- A buffer allocation from a kernel descriptor's word (R279, R99). -/
def allocOf (w : BitVec 32) : Alloc :=
  let size := BitVec.ofNat 16 (bitsOf w.toNat 0 16)
  ⟨BitVec.ofNat 10 (bitsOf w.toNat 16 10), size, size⟩
/-- The budget of a record: 0 is the greatest (R30). -/
def budgetOf (b : BitVec 32) : BitVec 32 := if b = 0 then 0xFFFFFFFF else b
def recArgs (r : Rec) : Vector Word 4 := #v[recArg r 0, recArg r 1, recArg r 2, recArg r 3]
/-- The thread of a task at its start. STEALDOM and INLDEPTH are always the descriptor's: KFLAGS has no coding that would set neither, so the
values that R41 and R42 give for that case stand only at reset (R279, log 97). -/
def State.newThread (s : State) (ctx : Nat) (k : Kernel) (b : Begin) (tid : Nat) : Thread :=
  let lid := recLid b.record
  let e := s.effExpiry ctx lid
  { Thread.reset with
    g := #v[b.args[0], b.args[1], b.args[2], b.args[3], 0, 0, 0, 0, 0, 0, 0, 0, 0, 0, 0, 0]
    pc := k.base + w64 (8 * (recEntry b.record).toNat), dla := e, dlb := e, waitcap := s.descWord ctx 8
    lid := lid, tstamp := recTstamp b.record, priv := if b.supervisor then 1 else 0, remain := budgetOf (recBudget b.record)
    stealdom := BitVec.ofNat 2 (bitsOf k.kflags.toNat 0 2), inldepth := BitVec.ofNat 4 (bitsOf k.kflags.toNat 2 4)
    bufW := allocOf k.bufW, bufA := allocOf k.bufA, bufC := allocOf k.bufC, parent := b.parent, tid := tid }
/-- The dictionary store with which a slot starts a task (R78). -/
def State.startDict (s : State) (c : Nat) (t : Fin 4) (ctx : Nat) (h : BitVec 32) : Except (Nat × Word) Dict :=
  let d := (s.slotAt c t).dictOf ctx
  if h = 0 then .ok d else s.reloadDict ctx d h
/-- The slot's new task; the caller has taken the record from where it was queued. -/
def State.begin (s : State) (c : Nat) (t : Fin 4) (ctx : Nat) (b : Begin) (k : Kernel) (d : Dict) : State :=
  let (s, tid) := s.fresh
  let sl := s.slotAt c t
  let s := s.touch c
  s.setSlot c t { sl.clear with
    thread := s.newThread ctx k b tid, v := Vector.replicate 16 0, m := Vector.replicate 8 0, dict := d, dictCtx := some ctx
    tseq := sl.tseq + 1, divider := b.divider, scan := none
    task := some { id := b.id, ctx := ctx, record := b.record, kind := b.kind, khandle := recKHandle b.record, base := k.base
                   prio := recPrio b.record, retries := b.retries, spec := b.spec, firstDone := false, started := s.instant, ran := 0
                   image := none } }
/-- What an attempt to start a record does besides, whether it starts or not: a dictionary load recalls the cells it reads (R192, log 105). -/
def State.sawBegin (s : State) (c : Nat) (t : Fin 4) (ctx : Nat) (r : Rec) : State :=
  match (s.ctx? ctx).bind fun x => tget x.kernels (recKHandle r).toNat with
  | some _ => s.sawReload ctx ((s.slotAt c t).dictOf ctx) (recDict r)
  | none => s
/-- The start of a record, or why it cannot start. -/
def State.tryBegin (s : State) (c : Nat) (t : Fin 4) (ctx : Nat) (b : Begin) : State ⊕ StartFail :=
  match s.ctx? ctx with
  | none => .inr .noKernel
  | some x =>
    match tget x.kernels (recKHandle b.record).toNat with
    | none => .inr .noKernel
    | some k =>
      match s.startDict c t ctx (recDict b.record) with
      | .error e => .inr (.noDict e.1)
      | .ok d => .inl (s.begin c t ctx b k d)
def StartFail.cause : StartFail → Nat
  | .noKernel => 16
  | .noDict _ => 15
def StartFail.kind : StartFail → Nat
  | .noKernel => 0
  | .noDict k => k

/-! ## The candidates started (R37, R45, R248) -/

/-- A queued record as it starts. -/
def Queued.begin (q : Queued) : Begin :=
  ⟨q.record, .plain, q.id, q.parent, q.retries, q.divider, false, !recIrr q.record, recArgs q.record⟩
/-- The registers of a handler: the entry's M offset, LEN, tag and source word. -/
def handlerArgs (entry : Nat) (m : Msg) : Vector Word 4 :=
  #v[w64 (64 * entry), w64 (msgLen m), (msgTag m).setWidth 64,
    w64 ((msgScore m).toNat + (msgSchip m).toNat * 2 ^ 16 + (msgSkind m).toNat * 2 ^ 32)]
/-- A record that has left its queue starts, or is forwarded inside a fault record, and then counts no more (R33, R296): none where the pool
has no place for it. `s` still holds it, `gone` does not. -/
def State.startRecord (gone : State) (c : Nat) (t : Fin 4) (q : Queued) (ready : Word) : Option State :=
  let gone := gone.sawBegin c t q.ctx q.record
  match gone.tryBegin c t q.ctx q.begin with
  | .inl s => some (s.sample (dieOf c) 1 (s.instant - ready))
  | .inr f =>
    match gone.forwardItem q.ctx f.cause c f.kind 0 0 2 (recLid q.record) q.record with
    | some s => some ((s.leaveDq q.id).childDown q.parent)
    | none => none
/-- The record that a handler entry makes of a message (R37). -/
def handlerRec (e : Nat) (m : Msg) (dict : BitVec 32) : Rec :=
  mkRec (BitVec.ofNat 32 (bitsOf e 0 32)) (BitVec.ofNat 32 (bitsOf e 32 32)) dict (msgLid m) 0 (BitVec.ofNat 32 (bitsOf e 64 32))
    (BitVec.ofNat 32 (bitsOf e 100 2 * 16 + bitsOf e 98 2 * 4)) 0 0 0 0
/-- A task that re-runs starts from its record again, as the kind of task it was (R34): a handler finds its message in the inbox entry that it
still holds; where it cannot start, that message is forwarded. -/
def State.startRerun (gone : State) (c : Nat) (t : Fin 4) (r : Rerun) : Option State :=
  let gone := gone.sawBegin c t r.q.ctx r.q.record
  match r.kind with
  | .handler tag e =>
    let m := match tget (gone.coreAt (e / 128)).inbox (e % 128) with | some i => i.entry.msg | none => 0
    (match gone.tryBegin c t r.q.ctx { r.q.begin with kind := r.kind, args := handlerArgs (e % 128) m } with
      | .inl s => some (s.sample (dieOf c) 1 (s.instant - r.q.ready))
      | .inr f => ((gone.freeTaskEntries r.kind).forwardItem r.q.ctx f.cause c f.kind tag.toNat 0 3 (msgLid m) m).map fun s => s.leaveDq r.q.id)
  | _ => gone.startRecord c t r.q r.q.ready
/-- A message or completion in inbox entry `n` starts its handler, or is forwarded (R37). -/
def State.startMessage (s : State) (c : Nat) (t : Fin 4) (ctx n : Nat) (m : Msg) : Option State :=
  let x := s.coreAt c
  let tag := msgTag m
  let away (s : State) (cause kind : Nat) (addr : Word) : Option State :=
    (s.setCore c { x with inbox := terase x.inbox n }).forwardItem ctx cause c kind tag.toNat addr 3 (msgLid m) m
  let isStray := match (tget x.inbox n).map (·.entry) with | some (.message _ hops) => stray hops | _ => false
  let s' := s.saw ctx (s.handlerVa ctx tag) 16
  match s.handlerOf ctx tag with
  | .error (kind, va) => if isStray then away s' 17 0 0 else away s' 17 kind va
  | .ok e =>
    if isStray || !handlerValid e then away s' 17 0 0
    else
      let dict := match s.ctx? ctx with
        | some y => (match tget y.kernels (bitsOf e 0 32) with | some k => k.dict | none => 0)
        | none => 0
      let r := handlerRec e m dict
      let s' := s'.sawBegin c t ctx r
      let (s, id) := s'.fresh
      match s.tryBegin c t ctx ⟨r, .handler tag (128 * c + n), id, none, 0, 1, false, true, handlerArgs n m⟩ with
      | .inl s =>
        let s := s.enterDq id ctx 0
        let y := s.coreAt c
        some (match tget y.inbox n with
          | some i => s.setCore c { y with inbox := tset y.inbox n { i with started := true } }
          | none => s)
      | .inr f => away s' f.cause f.kind 0
/-- A thread package resumes (R45) with its divider (R353), and halted where it left in a step command (R368). Its dictionary is reloaded at
once (R78), after the slot's inactive bank is emptied; where that fails, its first fetch raises the fault. -/
def State.startPackage (s : State) (c : Nat) (t : Fin 4) (id : Nat) (pk : Package) : State :=
  let x := s.coreAt c
  let s := s.setCore c { x with inbox := x.inbox.filter fun e => match e.2.entry with | .package _ i _ => i != id | _ => true }
  let ctx := pk.task.ctx
  let sl := s.slotAt c t
  let s := s.touch c
  let base := (sl.dictOf ctx).dropInactive
  let s := s.sawReload ctx base pk.handle
  let (d, rl) := match s.migrateDict ctx base pk.handle with
    | .ok d => (d, none)
    | .error _ => (base, some (.package pk.handle))
  s.setSlot c t { sl.clear with
    thread := pk.thread, v := Vector.replicate 16 0, m := Vector.replicate 8 0, dict := d, dictCtx := some ctx, reload := rl
    tseq := sl.tseq + 1, scan := none, task := some pk.task, rs := pk.rs, inline := pk.inline, divider := pk.divider, halt := pk.halt }
/-- The reload that comes before the current slot's next fetch: the dictionary-load fault where it fails, precise at the resume address. -/
def State.reloadNow (s : State) : State :=
  let sl := s.sl
  match sl.reload with
  | none => s
  | some r =>
    let (s, d) := match r with
      | .package h => (s.sawReload s.curCtx sl.dict.dropInactive h, s.migrateDict s.curCtx sl.dict h)
      | .switchIn => (s.sawSwitch s.curCtx sl.dict, s.switchDict s.curCtx sl.dict)
    match d with
    | .ok d => s.setSl { sl with dict := d, reload := none }
    | .error (kind, va) => s.takeTrap 15 2 kind 0 va s.th.pc
/-- A candidate starts; none where it must wait where it stands (R300). -/
def State.startCand (s : State) (c : Nat) (t : Fin 4) (ctx : Nat) (x : Cand) : Option State :=
  let y := s.coreAt c
  match x.kind with
  | .record n q => (s.setCore c { y with inbox := terase y.inbox n }).startRecord c t q (w64 x.ready)
  | .rerun r => (s.setCore c { y with rerun := y.rerun.filter fun e => e.q.id != r.q.id }).startRerun c t r
  | .deque p q => (s.setCore c { y with deque := y.deque.filter fun d => d.place != p }).startRecord c t q q.ready
  | .message n m =>
    let since := ((tget y.inbox n).bind fun e => e.since).getD s.instant
    (s.startMessage c t ctx n m).map fun s' =>
      if (s'.slotAt c t).task.isSome then s'.sample (dieOf c) 1 (s.instant - since) else s'
  | .package id pk => some (s.startPackage c t id pk)
/-- The best candidate that need not wait starts: at most `fuel` are looked at. -/
def State.startBest (s : State) (c : Nat) (t : Fin 4) (ctx : Nat) : Nat → List Cand → State
  | 0, _ => s
  | fuel + 1, all =>
    match firstCand (all.filter fun x => !x.passed all) with
    | none => s
    | some x => match s.startCand c t ctx x with
      | some s' => s'
      | none => s.startBest c t ctx fuel (all.filter fun y => y != x)

/-! ## The privileged queue and the delegation queue (R233, R296, R297, R306) -/

/-- Whether a record on the privileged queue is a fault record. -/
def PrivRec.isFault (r : PrivRec) : Bool := match r.src with | .waitCap .. => false | _ => true
/-- A fault record that cannot start is held, and a double-fault record is queued; a second failure goes to the host (R306). -/
def State.holdFault (s : State) (r : PrivRec) (f : StartFail) : State :=
  let s := { s with priv := s.priv.map fun q => if q == r then { q with held := true } else q }
  let orig := bitsOf (recArg r.record 0).toNat 58 6
  let a0 := faultWord 20 3 0 1 0 (orig * 256 + f.cause)
  let item := s.entryItem 2 r.core
  let a2 := recArg r.record 3
  if orig = 20 then s.notice r.ctx 6 0 (a0.toNat + a2.toNat * 2 ^ 128 + item.toNat * 2 ^ 192)
  else s.queueFault r.ctx 20 r.core a0 0 a2 item r.src none
/-- A record of the privileged queue starts at supervisor level; a carried item takes a free inbox entry, and g3 its M offset. -/
def State.startPriv (s : State) (c : Nat) (t : Fin 4) (r : PrivRec) : Option State :=
  let taken := { s with priv := s.priv.erase r }.sawBegin c t r.ctx r.record
  let x := taken.coreAt c
  let args := recArgs r.record
  let (s1, entry) := match r.carried with
    | some m =>
      let (y, n) := x.putIn (.carried m) r.ctx s.instant
      let d := dieOf c
      let z := taken.dieAt d
      ((taken.setCore c y).setDie d { z with carriedPlaces := z.carriedPlaces - 1 }, some n)
    | none => (taken, none)
  let args := match entry with | some n => args.set 3 (w64 (64 * n)) | none => args
  match s1.tryBegin c t r.ctx ⟨r.record, .supervisor r.isFault (entry.map fun n => 128 * c + n), r.id, none, 0, 1, true, false, args⟩ with
  | .inl s' => some (s'.sample (dieOf c) 1 (s.instant - r.ready))
  | .inr f =>
    if r.isFault then some ((s.sawBegin c t r.ctx r.record).holdFault r f)
    else (taken.forwardItem r.ctx f.cause c f.kind 0 0 2 0 r.record).map fun s' => s'.leaveDq r.id
/-- The oldest delegation request starts in slot 3: an irrevocable task of domain 0 with budget 0 (R233). -/
def State.startDeleg (s : State) (c : Nat) (t : Fin 4) (d : DelegReq) (rest : List DelegReq) : State :=
  let taken := s.setCore c { s.coreAt c with delegQ := rest }
  let a := d.args.toNat
  let r := mkRec d.khandle d.entry 0 d.lid 0 0 (BitVec.ofNat 32 (d.prio.toNat * 4 + 1)) (w64 (bitsOf a 0 64)) (w64 (bitsOf a 64 64))
    (w64 (bitsOf a 128 64)) (w64 (bitsOf a 192 64))
  let taken := taken.sawBegin c t d.ctx r
  let (s1, id) := taken.fresh
  match s1.tryBegin c t d.ctx ⟨r, .deleg d, id, none, 0, 1, false, false, recArgs r⟩ with
  | .inl s' => s'.enterDq id d.ctx 0
  | .inr f => (taken.forwardItem d.ctx f.cause c f.kind 0 0 2 d.lid r).getD (s.sawBegin c t d.ctx r)

/-- Whether a slot may take new work for its core's resident context (R34, R264): while a SWITCH waits for the core's slots, it starts none
(R251). -/
def State.slotFree (s : State) (c : Nat) (t : Fin 4) : Bool :=
  let sl := s.slotAt c t
  decide (c < 8192) && sl.task.isNone && sl.reserved.isNone && (s.coreAt c).ctx.isSome && (s.coreAt c).switches.isEmpty
/-- `TASK_START` (R248): the free slot starts its best candidate. The work of annulled lineages is removed first. -/
def execTaskStart (c : Nat) (t : Fin 4) (s : State) : Step :=
  if !s.slotFree c t then .next s
  else
    let s := s.purgeCore c
    let x := s.coreAt c
    match x.ctx with
    | none => .next s
    | some ctx =>
      if t == 3 && x.server then
        .next (match x.delegQ with
          | d :: rest => s.startDeleg c t d rest
          | [] => s)
      else
        let all := s.candidates c
        let s := s.sawHandlers c
        .next (match s.privFor c with
          | some r => (s.startPriv c t r).getD (s.startBest c t ctx all.length all)
          | none => s.startBest c t ctx all.length all)

/-! ## Stealing (R41, R249) -/

/-- Mesh hops between two cores of one die. -/
def hops (a b : Nat) : Nat :=
  let row (c : Nat) := c / 32 % 64
  let col (c : Nat) := c % 32
  (row a - row b) + (row b - row a) + (col a - col b) + (col b - col a)
/-- The order of victims: the own die by hop distance, cores of equal distance by number (log 35), then the other dies by number. -/
def victimKey (thief v : Nat) : List Nat := if dieOf v = dieOf thief then [0, hops thief v, v] else [1, v, 0]
/-- The nearer of two cores for a thief. -/
def nearerVictim (thief v : Nat) (best : Option Nat) : Option Nat :=
  match best with
  | some b => if keyLe (victimKey thief b) (victimKey thief v) then some b else some v
  | none => some v
/-- The victim that a slot examines after the last one: the next in order, and the first again after the last of all. -/
def nextVictim (thief : Nat) (last : Option Nat) : Nat :=
  let after (w : Nat) : Bool := match last with
    | some l => !keyLe (victimKey thief w) (victimKey thief l)
    | none => true
  let others := (List.range 8192).filter fun w => w != thief
  let first (l : List Nat) : Option Nat := l.foldl (fun b v => nearerVictim thief v b) none
  ((first (others.filter after)).orElse fun _ => first others).getD thief
/-- Whether a recorded domain admits a theft between two cores (R41). -/
def domainAdmits (dom : BitVec 2) (a b : Nat) : Bool :=
  match dom with
  | 0 => courseOf a == courseOf b
  | 1 => clusterOf a == clusterOf b
  | 2 => dieOf a == dieOf b
  | _ => true
/-- `STEAL`: a free slot without a candidate examines its next victim and takes the oldest deque entry that is no reserved place, where its
domain and context admit it. -/
def execSteal (c : Nat) (t : Fin 4) (victim : Nat) (s : State) : Step :=
  let s := s.purgeCore c
  let x := s.coreAt c
  if !s.slotFree c t || (t == 3 && x.server) || (s.privFor c).isSome || !(s.candidates c).isEmpty
      || nextVictim c (s.slotAt c t).scan != victim then .next s
  else
    let s := s.purgeCore victim
    let s := s.setSlot c t { s.slotAt c t with scan := some victim }
    let v := s.coreAt victim
    match v.oldest with
    | some (d, q) =>
      if domainAdmits d.dom c victim && x.ctx == some q.ctx then
        .next (((s.setCore victim { v with deque := v.deque.filter fun e => e.place != d.place }).startRecord c t q q.ready).getD s)
      else .next s
    | none => .next s

/-! ## Deadline steps (R243 to R245) -/

/-- How each instruction's wait ends at its deadline step. -/
def endedOf (w : Wait) : BitVec 8 → State → State :=
  match w.instr with
  | .stB .. => endStore
  | .stH .. => endStore
  | .stW .. => endStore
  | .stD .. => endStore
  | .vst .. => endStore
  | .vstx .. => endStore
  | .amoAdd .. => endAmo
  | .amoMin .. => endAmo
  | .amoMax .. => endAmo
  | .amoAnd .. => endAmo
  | .amoOr .. => endAmo
  | .amoXor .. => endAmo
  | .amoSwap .. => endAmo
  | .amoCas .. => endAmo
  | .fence d sc _ => endFence d sc
  | .cpRot .. => endGate
  | .barInit .. => endBar
  | .barExpect .. => endBar
  | .barArrive .. => endBar
  | .barAbort .. => endBar
  | .nodeDec .. => endBar
  | .barWait t _ => endBarWait t
  | .barSync t _ => endBarSync t
  | .yield _ => endMove
  | .migrate .. => endMove
  | .send .. => endSend
  | .deleg .. => endSend
  | .join _ => if w.stage = stageCommit then State.endPlain else endJoin
  | .done => endDone
  | .gang .. => endGang
  | .rejoin d _ => endRejoin d
  | .boost875 d _ => endBoost d
  | .boost1050 d _ => endBoost d
  | .mma .. => endHarp
  | .mzero .. => endHarp
  | .mdrain .. => endHarp
  | .hlease _ => endHarp
  | .hldw .. => endHarp
  | .hswap _ => endHarp
  | .hstream .. => endHarp
  | .hdrain .. => endHarp
  | .hsave .. => endHarp
  | .hrestore .. => endHarp
  | _ => State.endPlain
/-- Whether a wait is past its deadline step already, and only its reply is awaited: a `bar.sync` withdrawal on its way, or a gate that has
taken its step (R218, R226). -/
def Slot.pastDeadline (sl : Slot) : Bool :=
  match sl.wait, sl.remote with
  | some _, some ⟨.gate _, some _⟩ => true
  | some w, some ⟨.withdraw .., _⟩ => (match w.instr with | .barSync .. => true | _ => false)
  | some w, some ⟨.trySync .., _⟩ => (match w.instr with | .barSync .. => true | _ => false)
  | _, _ => false
/-- Whether a slot's deadline step may be taken now: its deadline has come, its wait is not suspended, and its lineage lives (R243, R253). -/
def State.deadlineDue (s : State) (c : Nat) (t : Fin 4) : Bool :=
  let sl := s.slotAt c t
  match sl.wait, sl.task with
  | some w, some k =>
    decide (w.due ≤ s.instant) && w.suspended.isNone && !s.annulled k.ctx sl.thread.lid && !sl.pastDeadline
  | _, _ => false
/-- Whether a slot's watchdog has run out: a follower has none of its own (R264), and none runs while the thread is parked or halted. -/
def Slot.overrun (sl : Slot) : Bool :=
  let follower := match sl.group with | some (.follower ..) => true | _ => false
  sl.task.isSome && sl.thread.remain == 0 && sl.park.isNone && sl.halt.isNone && !follower
/-- Whether a wait still goes on at its deadline step: it is the same wait, its deadline has come, and it is no transition that a commit step has
ended. -/
def State.stillDue (s : State) (w v : Wait) : Bool :=
  v.t0 == w.t0 && v.instr == w.instr && v.suspended.isNone && decide (v.due ≤ s.instant) && (v.stage != stageCommit || s.spec)
/-- The deadline step of the current slot's wait: a condition that holds by then has ended the wait (R243), which one more attempt finds; a wait
that goes on ends as its instruction says. -/
def State.deadline (s : State) (w : Wait) : State :=
  let tried := if s.sl.overrun then s else stateOf s (execC w.instr { s with late := true })
  match tried.sl.wait with
  | some v => if tried.stillDue w v then endedOf v v.code (tried.capEvent v v.code) else tried
  | none => tried
/-- `DEADLINE_STEP`. -/
def execDeadlineStep (c : Nat) (t : Fin 4) (s : State) : Step :=
  if !s.deadlineDue c t then .next s
  else match (s.slotAt c t).wait with
    | some w => .next (s.asSlot c t fun s => s.deadline w)
    | none => .next s

/-! ## Budgets, park limits and replay timers (R252, R300, R301) -/

/-- `BUDGET_OVERRUN`: precise at the next unit or at the waiting unit, whose wait is given up without a status. -/
def execBudgetOverrun (c : Nat) (t : Fin 4) (s : State) : Step :=
  if decide (c < 8192) && (s.slotAt c t).overrun && !s.slotAnnulled c t then .next (s.asSlot c t fun s => s.takeTrap 19 2 0 0 0 s.th.pc) else .next s
/-- The park state of an item. -/
def State.parkOf (s : State) : Item → Option Park
  | .thread c t => (s.slotAt c t).park.orElse fun _ => (s.slotHarp c t).bind fun e => e.2.park
  | .copy c ch => (s.headCopy c ch).bind fun x => x.park
/-- The contexts in which a handle names an item whose park state fits. -/
def State.parkedAs (s : State) (item : Word) (p : Park → Bool) : Option Nat :=
  (s.contexts.find? fun e => match (s.item? e.1 item).bind s.parkOf with
    | some k => p k
    | none => false).map fun e => e.1
/-- `PARK_TIME_EXPIRY`: an item still parked PTIME µs after its precise point is killed. -/
def execParkTimeExpiry (item : Word) (s : State) : Step :=
  match s.parkedAs item fun k => k.ptime != 0 && decide (k.since.toNat + 1000 * k.ptime.toNat ≤ s.instant.toNat) with
  | some ctx => .next (s.killItem ctx item)
  | none => .next s
/-- `REPLAY_TIMER`: EVT 0b10 replays 10 µs after the precise point. -/
def execReplayTimer (item : Word) (s : State) : Step :=
  match s.parkedAs item fun k => k.action == 1 && k.evt == 2 && decide (k.since.toNat + 10000 ≤ s.instant.toNat) with
  | some ctx => .next (s.resumeItem ctx item)
  | none => .next s

/-! ## Absence tokens (R246, R253) -/

/-- The chips that the live peers of some context name. -/
def State.knownChips (s : State) : List Nat :=
  (s.contexts.flatMap fun e => e.2.peers.toList.filterMap fun p => if p.valid && !p.dead then some p.chip.toNat else none).eraseDups
/-- A token held at this chip's port unit, where there is room. -/
def State.addToken (s : State) (k : Token) : State :=
  if s.tokens.length < 1024 && !s.tokens.contains k then { s with tokens := s.tokens ++ [k] } else s
/-- `PROXY_ABSENCE_TOKEN`: a peer's token arrives. -/
def execAbsenceToken (tk : Token) (s : State) : Step :=
  match tk.chip with
  | some c => .next (if s.knownChips.contains c then s.addToken tk else s)
  | none => .next s
/-- `TOKEN_REMOVAL`. A token of this chip goes with the step that ends its thread's absence (`State.dropToken`). -/
def execTokenRemoval (tk : Token) (s : State) : Step :=
  match tk.chip with
  | some _ => .next { s with tokens := s.tokens.filter fun k => k != tk }
  | none => .next s
/-- Peers told of objects whose first token has come, and of those whose last token has gone. -/
def State.settleTokens (s : State) : State :=
  let held := (s.tokens.map fun k => k.obj).eraseDups
  let fresh := held.filter fun o => !s.absent.contains o
  let gone := s.absent.filter fun o => !held.contains o
  if fresh.isEmpty && gone.isEmpty then s
  else
    let chips := s.knownChips
    { s with absent := held
             sent := s.sent ++ (fresh.flatMap fun o => chips.map fun c => .suspend c o)
               ++ gone.flatMap fun o => chips.map fun c => .resume c o }
/-- A change of every wait of this chip on an object. -/
def State.mapWaits (s : State) (obj : Nat) (f : Wait → Wait) : State :=
  let fix (sl : Slot) : Slot :=
    match sl.wait, sl.task with
    | some w, some k => (match w.onObject with
      | some r => if s.objKey k.ctx r == some obj then { sl with wait := some (f w) } else sl
      | none => sl)
    | _, _ => sl
  { s with cores := s.cores.map fun e => (e.1, { e.2 with slots := e.2.slots.map fix }) }
/-- `SUSPENSION_NOTICE`: every wait of this chip on the object is suspended; of a local object, while a token is held for it. -/
def execSuspendNotice (obj : Nat) (s : State) : Step :=
  let known := 2 ^ 52 ≤ obj || s.tokens.any (fun k => k.obj == obj)
  if s.suspended.contains obj || !known then .next s
  else .next ({ s with suspended := s.suspended ++ [obj] }.mapWaits obj fun w =>
    if w.suspended.isNone then { w with suspended := some s.instant } else w)
/-- `RESUMPTION_NOTICE`: the bounds of each wait move later by the length of its suspension; of a local object, once no token is held. -/
def execResumeNotice (obj : Nat) (s : State) : Step :=
  let held := s.tokens.any fun k => k.obj == obj
  if !s.suspended.contains obj || held then .next s
  else .next ({ s with suspended := s.suspended.filter fun o => o != obj }.mapWaits obj fun w =>
    match w.suspended with
    | some t => { w with suspended := none, sel := satAdd w.sel (s.instant - t), capAt := satAdd w.capAt (s.instant - t) }
    | none => w)

end Sys2Proof.Machine
end

