-- ==== Sys2Proof/Machine/Recovery.lean ====
section
/-! DEFINITION. What the silicon does to itself and what firmware does about it: timing errors (R183, R310), soft errors (R312), worn
parts (R181, R314, R315), firewall drops (R290), monitor samples and epochs (R357, R358), energy (R359), precision time (R241, R332, R380);
and the dispositions as steps of their own (R303). -/

namespace Sys2Proof.Machine

/-! ## Timing errors (R183, R310) -/

/-- Cycles counted against a slot's budget, and as time its task ran (R252, R353). -/
def State.spend (s : State) (c : Nat) (t : Fin 4) (n : Nat) : State :=
  let sl := s.slotAt c t
  s.setSlot c t { sl with
    thread := { sl.thread with remain := BitVec.ofNat 32 (sl.thread.remain.toNat - n) }
    task := sl.task.map fun k => { k with ran := k.ran + n } }
/-- A core's step-down one step deeper for a microsecond, and its error counted in the second that the first error of it began. -/
def Core.slowDown (x : Core) (now : Word) : Core :=
  let same := x.timingErrors != 0 && decide (now.toNat < x.errorWindow.toNat + 1000000000)
  { x with
    stepdown := if x.stepdown = 3 then 3 else x.stepdown + 1
    stepdownAt := now
    timingErrors := if same then x.timingErrors + 1 else 1
    errorWindow := if same then x.errorWindow else now }
/-- `TIMING_ERROR`: nothing of the unit or operation has left the core, so it is executed again from where it stood, with the same t0 for any wait;
the replay's cycles count against BUDGET. -/
def execTimingError (p : ErrorPlace) (s : State) : Step :=
  match p with
  | .unit c t =>
    if 8192 ≤ c || (s.slotAt c t).task.isNone then .next s
    else .next ((s.setCore c ((s.coreAt c).slowDown s.instant)).spend c t (Config.cycles s.tick c))
  | .cmu c => .next (if 8192 ≤ c || (s.coreAt c).cmu.isEmpty then s else s.setCore c ((s.coreAt c).slowDown s.instant))
  | .harp k =>
    let x := s.clusterAt k
    .next (if x.harp.queue.isEmpty then s else s.setCluster k { x with harp := { x.harp with stepdown := some s.instant } })
/-- `STEPDOWN_EXPIRY`: a microsecond without a further error removes the whole step-down. -/
def execStepdownExpiry (c : Nat) (s : State) : Step :=
  let x := s.coreAt c
  .next (if x.stepdown != 0 && decide (x.stepdownAt.toNat + 1000 ≤ s.instant.toNat) then s.setCore c { x with stepdown := 0 } else s)

/-! ## Soft errors (R312) -/

/-- The instructions whose waits end with what a load of device memory reads. -/
def readsDevice : Instr → Bool
  | .ldgB .. => true
  | .ldgH .. => true
  | .ldgW .. => true
  | .ldgD .. => true
  | .ldgZb .. => true
  | .ldgZh .. => true
  | .ldgZw .. => true
  | .dload .. => true
  | .home .. => true
  | _ => false
/-- An uncorrectable error counted in its hour (R315). -/
def State.countSoft (s : State) : State :=
  let same := s.fw.softErrors != 0 && decide (s.instant.toNat < s.fw.softWindow.toNat + 3600000000000)
  let n := if same then s.fw.softErrors + 1 else 1
  let s := { s with fw := { s.fw with softErrors := n, softWindow := if same then s.fw.softWindow else s.instant } }
  if s.thSoft < n then s.health 6 else s
/-- The virtual address in device memory of a copy's next source byte. -/
def Copy.srcVa (x : Copy) : Option Word :=
  match x.src with
  | .dev va => some (va + w64 x.done)
  | .gather addrs b => some (addrs.getD (x.done / b) 0 + w64 (x.done % b))
  | _ => none
/-- The head command of a harp stopped as a copy fault stops a copy (R219, R312), its thread's handle naming it (log 98). -/
def State.faultHarp (s : State) (k : Nat) (o : HarpCmd) (va : Word) : State :=
  let ctx := o.who.ctx
  let evt := s.evtOf ctx 23
  let stop (act : Fin 5) : State := s.setHarpPark k o (some ⟨23, 3, 3, 0, va, o.who.pc, act, evt, s.instant, s.ptimeOf ctx 23⟩)
  match s.actionOf ctx 23 with
  | 0 => s.killHarp k o
  | 1 => if evt = 0 then s else stop 1
  | 2 => stop 2
  | 3 => (stop 3).queueFault ctx 23 o.who.core (faultWord 23 3 3 0 o.who.lid 0) o.who.pc va (s.threadItem o.who.core o.who.slot) .item none
/-- Whether a barrier object stands in this chip's device memory. -/
def BarRef.isDev : BarRef → Bool
  | .dev .. => true
  | _ => false
/-- Whether a request still to be taken is a barrier step at this chip's device memory whose arrival, if it makes one, has not been taken. -/
def Remote.unread (r : Remote) : Bool :=
  r.ans.isNone && (match r.req with | .withdraw _ (some _) _ => false | _ => true) && (match r.req.obj with | some (o, _) => o.isDev | none => false)
/-- Cause 23 at the current slot's unit (R312): nothing is read; an atomic or a barrier step that waits to be taken at this chip is given up. -/
def State.dataFault (s : State) (slotF : Nat) (va : Word) : State :=
  let s := match s.sl.remote with
    | some ⟨.amo k, none⟩ => (s.setSl { s.sl with remote := none }).dropGate k
    | some r => if r.unread then s.setSl { s.sl with remote := none } else s
    | none => s
  s.takeTrap 23 slotF 3 0 va s.th.pc
/-- Whether the waiting unit of a slot is to read a device address: as a load does, by an atomic or a gate on its way to its cell here, by a barrier
step to be taken here, or by the checks of a wait on an object here. -/
def State.willRead (s : State) (sl : Slot) (w : Wait) : Bool :=
  readsDevice w.instr || (w.onObject.any BarRef.isDev) || (sl.remote.any Remote.unread) || match sl.remote with
    | some ⟨.amo k, none⟩ => s.op.any fun e => e.ft == k && e.gran.peer.isNone
    | some ⟨.gate k, none⟩ => s.op.any fun e => e.ft == k && e.gran.peer.isNone
    | _ => false
/-- An uncorrectable error that a slot's thread meets in device memory: in the waiting unit's read, or in the fetch of the next unit. -/
def State.threadError (s : State) (c : Nat) (t : Fin 4) (va : Word) : State :=
  let sl := s.slotAt c t
  match sl.task, sl.wait with
  | none, _ => s
  | some _, some w => if s.willRead sl w then s.countSoft.asSlot c t fun s => s.dataFault 0 va else s
  | some _, none =>
    if c < 8192 && sl.park.isNone && sl.halt.isNone && va.toNat / 8 == sl.thread.pc.toNat / 8 then
      s.countSoft.asSlot c t fun s => s.dataFault 2 va
    else s
/-- `UNCORRECTABLE_DATA`, by where the error is found. -/
def execUncorrectableData (p : SoftPlace) (s : State) : Step :=
  match p with
  | .threadRead c t va => .next (s.threadError c t va)
  | .engineRead c ch =>
    match s.headCopy c ch with
    | some x =>
      if 8192 ≤ c || x.park.isSome || x.failed || x.len ≤ x.done then .next s
      else match x.srcVa with
        | some va => .next (s.countSoft.faultCopy c ch x 23 3 0 va)
        | none => .next s
    | none => .next s
  | .buffer c t =>
    match (s.slotAt c t).task with
    | some k =>
      let sl := s.slotAt c t
      (match sl.lastLoad with
        | some pc =>
          if sl.wait.isNone && !sl.stalled then
            .next (s.countSoft.queueFault k.ctx 23 c (faultWord 23 3 3 0 sl.thread.lid 0) pc 0 (s.threadItem c t) (.thread c t) none)
          else .next s
        | none => .next s)
    | none => .next s
  | .harp k off =>
    let h := (s.clusterAt k).harp
    (match h.head with
      | some o =>
        (match h.nextRead o with
          | (.device va _, lo, n) =>
            if n ≤ off || o.park.isSome then .next s else .next (s.countSoft.faultHarp k o (va + w64 (lo + off)))
          | _ => .next s)
      | none => .next s)
  | .dict c t idx =>
    let sl := s.slotAt c t
    let b := sl.dict.activeBank
    .next (s.countSoft.setSlot c t { sl with dict := sl.dict.setBank sl.dict.active { b with entries := terase b.entries idx.toNat } })
  | .lineage k l => .next (if l = 0 then s.countSoft else s.countSoft.annulLineage k l)
  | .node d i =>
    match tget (s.dieAt d).nodes i with
    | some n => .next (((s.countSoft.freeNode d i).leaveDq n.task.id).liveDown n.task.ctx (recLid n.task.record))
    | none => .next s
/-- `CORRECTED_SOFT_ERROR`: invisible but for its count. -/
def execCorrectedError (s : State) : Step := .next { s with fw := { s.fw with correctedErrors := s.fw.correctedErrors + 1 } }

/-! ## Worn parts (R181, R314, R315, R331) -/

/-- `HARP_ROW_REMAP`: a row is disabled only between leases, while the queue is empty; the planes keep their logical rows. -/
def execHarpRowRemap (k row : Nat) (s : State) : Step :=
  let x := s.clusterAt k
  if x.harp.lease.isSome || !x.harp.queue.isEmpty || 264 ≤ row || x.harp.disabled.contains row then .next s
  else
    let h := { x.harp with disabled := x.harp.disabled ++ [row] }
    let s := s.setCluster k { x with harp := h }
    .next (if h.disabled.length = 8 then s.health 2 else if 8 < h.disabled.length then (s.health 2).health 1 else s)
/-- Whether every port is down. -/
def State.allPortsDown (s : State) : Bool := (List.range 16).all fun p => s.portRate p == 0
/-- `LANE_RETIRE`: four retired lanes leave a port half its rate, a fifth takes it down; with no port left every peer is lost. -/
def execLaneRetire (port : Nat) (s : State) : Step :=
  let n := (tget s.fw.lanes port).getD 0
  if 16 ≤ port || 8 ≤ n then .next s
  else
    let s := { s with fw := { s.fw with lanes := tset s.fw.lanes port (n + 1), lanesRetired := s.fw.lanesRetired + 1 } }
    let s := if s.thLane < s.fw.lanesRetired || s.portRate port = 0 then s.health 5 else s
    .next (if s.allPortsDown then s.knownChips.foldl State.linkDead s else s)
/-- `MEMORY_CHANNEL_REMAP`: the channel's bytes move onto reserve frames; no byte changes. -/
def execMemoryRemap (frames : Nat) (s : State) : Step :=
  let n := min s.reserve (s.fw.reserveUsed + frames)
  let s := { s with fw := { s.fw with reserveUsed := n } }
  .next (if s.reserve ≤ n then s.health 4 else s)
/-- `FIREWALL_DROP` (R290): a packet from outside the nut column discarded at a nut router. -/
def execFirewallDrop (phys : Nat) (s : State) : Step :=
  match tget s.fw.fwctl phys with
  | some e =>
    if !e.getLsbD 30 then .next s
    else
      let e' := if bitsOf e.toNat 0 24 = 0xFFFFFF then e else e + 1
      .next ({ s with fw := { s.fw with fwctl := tset s.fw.fwctl phys e' } }.health 7)
  | none => .next s

/-! ## Monitors and energy (R357 to R359) -/

/-- A monitor unit changed in place. -/
def State.setMonitor (s : State) (die u : Nat) (m : Monitor) : State :=
  let x := s.dieAt die
  s.setDie die { x with monitors := tset x.monitors u m }
/-- Whether a course can stand at a voltage, in mV: under droop it is 25 mV or more below its set point (R347). -/
def State.voltageFits (s : State) (course v : Nat) : Bool := !(s.courseAt course).droop || decide (v + 25 ≤ s.setPoint course)
/-- `MONITOR_SAMPLE`: the course voltage or core temperature sampled by a unit of source 6 or 7. -/
def execMonitorSample (die u v : Nat) (s : State) : Step :=
  match tget (s.dieAt die).monitors u with
  | some m => .next (if (m.src = 6 && s.voltageFits (bitsOf m.sel.toNat 16 13) v) || m.src = 7 then s.setMonitor die u { m with now := m.now.add (w64 v) m.shift } else s)
  | none => .next s
/-- The length of an epoch in ns; a table value of 0 reads 1 µs. -/
def Monitor.epoch (m : Monitor) : Nat := 1000 * max 1 (bitsOf m.sel.toNat 32 32)
/-- `MONITOR_EPOCH_END`: the reported set is replaced in one step, and a new epoch begins with empty counts. -/
def execMonitorEpoch (die u : Nat) (s : State) : Step :=
  match tget (s.dieAt die).monitors u with
  | some m =>
    if m.src = 0 || 8 ≤ m.src || s.instant.toNat < m.start.toNat + m.epoch then .next s
    else .next (s.setMonitor die u { m with epno := m.epno + 1, start := m.start + w64 m.epoch, now := Figures.empty, rep := m.now })
  | none => .next s
/-- `ENERGY_ACCUMULATION`: the count advances modulo 2^64, and a wrap sets WRAP. -/
def execEnergyCount (acc n : Nat) (s : State) : Step :=
  let e := s.energyAt acc
  if 516 ≤ acc then .next s
  else .next { s with energy := tset s.energy acc { e with count := e.count + w64 n, wrap := e.wrap || decide (two64 ≤ e.count.toNat + n) } }
/-- A command's completion sent to the host (R333). -/
def State.answer (s : State) (status : Nat) (data : List Byte) : State := { s with replies := s.replies ++ [⟨w64 status, data⟩] }
/-- `ENERGY_LO_READ`: a read of LO by the host (none) or by a firmware core, which latches the high half for its requester. -/
def execEnergyLoRead (core : Option Nat) (acc : Nat) (s : State) : Step :=
  let e := s.energyAt acc
  if 516 ≤ acc then .next s
  else
    let s := { s with energy := tset s.energy acc (e.latch core) }
    .next (if core.isNone then s.answer 0 (leBytes 4 e.count.toNat) else s)

/-! ## Precision time (R241, R332, R380) -/

/-- A signed 32-bit field that saturates. -/
def satS32 (v : Int) : BitVec 32 := BitVec.ofInt 32 (max (-2147483648) (min 2147483647 v))
/-- INSTANT set once; what counts time in whole intervals or epochs starts from there. -/
def State.setInstant (s : State) (now : Word) : State :=
  { s with
    instant := now
    dies := ([0, 1, 2, 3] : List Nat).map fun d =>
      let x := s.dieAt d
      (d, { x with interval := now.toNat / 5000, monitors := x.monitors.map fun (u, m) => (u, { m with start := now }) }) }
/-- The trailer of a firmware image: its last 144 bytes (R381). -/
def imageTrailer (l : List Byte) : List Byte := l.drop (l.length - 144)
def imageSecver (l : List Byte) : Nat := leNat ((imageTrailer l).take 4)
/-- The digest that an image's signature covers: of its body and the first 8 bytes of its trailer. -/
def imageDigest (l : List Byte) : BitVec 512 := sha512 (l.take (l.length - 136))
/-- The signature in an image's trailer. -/
def imageSig (l : List Byte) : List Byte := ((imageTrailer l).drop 8).take 132
/-- Whether an image is one that the boot ROM takes: its SECVER is FSEC or above, and its signature is the boot key's. -/
def imageValid (fsec : BitVec 32) (l : List Byte) : Bool :=
  decide (fsec.toNat ≤ imageSecver l) && ecdsaValid Config.bootKey (imageDigest l) (imageSig l)
/-- What may be an image in a slot: a body from the slot's start, as long as LENGTH says in the trailer that follows it (R381). What stands behind
the trailer, as where a longer image stood before, is no part of it (log 121). -/
def imagesIn (slot : List Byte) : List (List Byte) :=
  ((List.range (slot.length - 143)).filter fun n => leNat ((slot.drop (n + 4)).take 4) == n).map fun n => slot.take (n + 144)
/-- The image that the boot ROM takes from a slot. -/
def imageIn (fsec : BitVec 32) (slot : List Byte) : Option (List Byte) := (imagesIn slot).find? (imageValid fsec)
/-- Step 6 of bring-up (R380): READY. The boot has succeeded, so FSEC is raised to the image's SECVER, and the digest of the image is FWMEAS
(R381). -/
def Firmware.goReady (f : Firmware) : Firmware :=
  if f.boot == .ready then f
  else
    let image := (imageIn f.fsec (if f.fwRun then f.fwSlot1 else f.fwSlot0)).getD []
    { f with
      boot := .ready
      fsec := if f.fsec.toNat < imageSecver image then BitVec.ofNat 32 (imageSecver image) else f.fsec
      fwMeas := sha512 image }
/-- `PTP_MEASUREMENT`: an offset of this counter from the transmitter's. The first one sets INSTANT where no context has been created yet; every
other is slewed away, which is part of how INSTANT advances (log 3). -/
def execPtpMeasurement (offs : Int) (port : Nat) (s : State) : Step :=
  if s.ptpPort != some port || !(s.fw.boot == .ready || s.fw.boot == .timing) then .next s
  else
    let first := !s.fw.instantSet
    let s := if first && !s.fw.ctxEver then s.setInstant (w64 ((s.instant.toNat : Int) - offs).toNat) else s
    .next { s with fw := { s.fw.goReady with
      instantSet := true, tsyncHold := false, tsyncOffs := satS32 offs
      offsets := (s.fw.offsets ++ [offs]).drop (s.fw.offsets.length - 15) } }
/-- `PTP_HOLD_TIMEOUT`: no protocol message for 2 s. -/
def execPtpHold (s : State) : Step :=
  .next (if s.fw.boot == .ready then { s with fw := { s.fw with tsyncHold := true } } else s)
/-- `PTP_FIRST_TIMEOUT`: bring-up goes on without a measurement after 5 s; INSTANT goes on counting from reset. -/
def execPtpFirstTimeout (s : State) : Step :=
  .next (if s.fw.boot == .timing && decide (5000000000 ≤ s.instant.toNat) then
      { s.setInstant s.instant with fw := { s.fw.goReady with tsyncHold := true } } else s)

/-! ## The dispositions as steps (R302, R303) -/

def execDispNone (_k : Nat) (s : State) : Step := .next s
def execDispResume (k : Nat) (item : Word) (s : State) : Step := .next (s.resumeItem k item)
def execDispContinue (k : Nat) (item : Word) (s : State) : Step := .next (s.continueItem k item)
def execDispKill (k : Nat) (item : Word) (s : State) : Step := .next (s.killItem k item)
def execDispMapped (k : Nat) (page size : Word) (s : State) : Step := .next (s.mapped k page (bitsOf size.toNat 0 2))
def execDispPark (k : Nat) (item : Word) (s : State) : Step := .next (s.askPark k item)
def execDispReload (k : Nat) (s : State) : Step := .next (s.reload k)

end Sys2Proof.Machine
end

