-- ==== Sys2Proof/Machine/Moves.lean ====
section
/-! DEFINITION. What a core holds moved as a whole: context switches (R251, R253, R291, R292, R338), thermal migration (R356) and the mapping
out of a core (R314). A move renumbers every reference to the core whose contents move. -/

namespace Sys2Proof.Machine

/-! ## Renumbering -/

/-- The exchange of two core numbers. -/
def exch (a b c : Nat) : Nat := if c = a then b else if c = b then a else c

def BarRef.ren (f : Nat → Nat) : BarRef → BarRef
  | .core c i => .core (f c) i
  | r => r
def MsgTarget.ren (f : Nat → Nat) : MsgTarget → MsgTarget
  | .localCore c => .localCore (f c)
  | m => m
def DelegReq.ren (f : Nat → Nat) (d : DelegReq) : DelegReq := { d with requester := f d.requester }
def OpBody.ren (f : Nat → Nat) : OpBody → OpBody
  | .message t m => .message (t.ren f) m
  | .deleg t d => .deleg (f t) (d.ren f)
  | b => b
def CbEntry.ren (f : Nat → Nat) : CbEntry → CbEntry
  | .message t m => .message (t.ren f) m
  | .deleg t d => .deleg (f t) (d.ren f)
  | b => b
/-- An inbox entry's name, 128 × core + entry. -/
def renEntry (f : Nat → Nat) (e : Nat) : Nat := 128 * f (e / 128) + e % 128
def TaskKind.ren (f : Nat → Nat) : TaskKind → TaskKind
  | .handler tag e => .handler tag (renEntry f e)
  | .supervisor b e => .supervisor b (e.map (renEntry f))
  | .deleg d => .deleg (d.ren f)
  | .plain => .plain
def Task.ren (f : Nat → Nat) (k : Task) : Task := { k with kind := k.kind.ren f }
def RemoteReq.ren (f : Nat → Nat) : RemoteReq → RemoteReq
  | .barInit r n => .barInit (r.ren f) n
  | .barExpect r n => .barExpect (r.ren f) n
  | .barArrive r => .barArrive (r.ren f)
  | .barAbort r => .barAbort (r.ren f)
  | .withdraw r p c => .withdraw (r.ren f) p c
  | .trySync r c => .trySync (r.ren f) c
  | q => q
def Group.ren (f : Nat → Nat) : Group → Group
  | .leader ms pos mask => .leader (ms.map fun m => (f m.1, m.2)) pos mask
  | .follower l t pos at_ => .follower (f l) t pos at_
def Slot.ren (f : Nat → Nat) (sl : Slot) : Slot :=
  { sl with
    cb := sl.cb.map (CbEntry.ren f), task := sl.task.map (Task.ren f)
    wait := sl.wait.map fun w => { w with obj := w.obj.map (BarRef.ren f), credit := w.credit.map (MsgTarget.ren f) }
    remote := sl.remote.map fun r => { r with req := r.req.ren f }
    orphans := sl.orphans.map fun o => (o.1, o.2.ren f)
    group := sl.group.map (Group.ren f), reserved := sl.reserved.map fun m => (f m.1, m.2) }
def Issuer.ren (f : Nat → Nat) (w : Issuer) : Issuer := { w with core := f w.core }
def CopyDst.ren (f : Nat → Nat) : CopyDst → CopyDst
  | .deal b cs block off => .deal b (cs.map f) block off
  | d => d
def Copy.ren (f : Nat → Nat) (x : Copy) : Copy := { x with who := x.who.ren f, dst := x.dst.ren f }
def Package.ren (f : Nat → Nat) (p : Package) : Package :=
  { p with task := p.task.ren f, target := f p.target }
def InSlot.ren (f : Nat → Nat) (e : InSlot) : InSlot :=
  match e.entry with
  | .package p i pk => { e with entry := .package p i (pk.map (Package.ren f)) }
  | _ => e
def Core.ren (f : Nat → Nat) (x : Core) : Core :=
  { x with
    slots := x.slots.map (Slot.ren f), inbox := x.inbox.map fun e => (e.1, e.2.ren f)
    chans := x.chans.map fun ch => { ch with queue := ch.queue.map (Copy.ren f) }
    cmu := x.cmu.map fun o => { o with who := o.who.ren f }
    pending := x.pending.map fun p => { p with who := p.who.ren f }
    delegQ := x.delegQ.map (DelegReq.ren f)
    rerun := x.rerun.map fun r => { r with kind := r.kind.ren f } }
def Harp.ren (f : Nat → Nat) (h : Harp) : Harp :=
  { h with
    queue := h.queue.map fun q => { q with who := q.who.ren f }
    lease := h.lease.map fun l => { l with core := f l.core }
    claims := h.claims.map fun q => { q with core := f q.core } }
def CollGroup.ren (f : Nat → Nat) (g : CollGroup) : CollGroup :=
  { g with obj := g.obj.ren f, members := g.members.map fun m => { m with who := m.who.ren f } }
def PrivSrc.ren (f : Nat → Nat) : PrivSrc → PrivSrc
  | .waitCap c t => .waitCap (f c) t
  | .thread c t => .thread (f c) t
  | .copy c ch => .copy (f c) ch
  | .item => .item
def BarObj.ren (f : Nat → Nat) (o : BarObj) : BarObj := { o with arrivals := o.arrivals.map fun a => (f a.1, a.2) }
/-- What stays at a physical core: the condition of its silicon, and the SWITCH commands that wait for its slots. -/
def Core.onSilicon (x y : Core) : Core :=
  { x with
    stepdown := y.stepdown, stepdownAt := y.stepdownAt, timingErrors := y.timingErrors, errorWindow := y.errorWindow
    lastIssued := y.lastIssued, switches := y.switches }
/-- A core's entry written; a core at reset is not listed. -/
def putCore (t : Tab Core) (c : Nat) (x : Core) : Tab Core := if x = Core.reset then terase t c else tset t c x
/-- The contents of two cores exchanged, and every reference to them with it. A record on the privileged queue follows where its context's is
what moves (`who`), or every record does. -/
def State.exchange (s : State) (a b : Nat) (who : Option Nat) : State :=
  let f := exch a b
  let x := s.coreAt a
  let y := s.coreAt b
  let cores := putCore (putCore s.cores a (y.onSilicon x)) b (x.onSilicon y)
  { s with
    cores := cores.map fun e => (e.1, e.2.ren f)
    clusters := s.clusters.map fun e => (e.1, { e.2 with harp := e.2.harp.ren f, objs := e.2.objs.map fun o => (o.1, o.2.ren f) })
    dies := s.dies.map fun e => (e.1, { e.2 with boostQ := e.2.boostQ.map fun q => { q with core := f q.core } })
    op := s.op.map fun e => { e with core := f e.core, body := e.body.ren f }
    lq := s.lq.map fun e => { e with core := f e.core }
    ft := s.ft.map fun e => { e with core := f e.core }
    priv := s.priv.map fun r =>
      if who.isNone || who == some r.ctx then { r with core := f r.core, src := r.src.ren f } else r
    transit := s.transit.map (Package.ren f)
    colls := s.colls.map (CollGroup.ren f)
    collSeqs := s.collSeqs.map fun e => (e.1.ren f, e.2) }

/-! ## Switch-out (R251, R253, R291) -/

/-- Whether a core's matrix work is drained: operations that only wait for room for their completions are over. -/
def State.matrixIdle (s : State) (c : Nat) : Bool :=
  (s.coreAt c).cmu.all (fun o => o.waiting)
    && (s.clusterAt (clusterOf c)).harp.queue.all fun o => o.waiting || o.who.core != c
/-- One step of the matrix work of a core, or of the harp commands that come before it. -/
def State.matrixStep (s : State) (c : Nat) : State :=
  if (s.coreAt c).cmu.any fun o => !o.waiting then stateOf s (execCmuComplete c false s)
  else
    let k := clusterOf c
    match (s.clusterAt k).harp.head with
    | none => s
    | some o => match o.kind with
      | .stream _ m _ _ row => if row < m then stateOf s (execHstreamRow k false s) else stateOf s (execHarpComplete k s)
      | .swap => stateOf s (execHarpSwap k s)
      | _ => stateOf s (execHarpComplete k s)
/-- The matrix work of a core run to its end, in at most `fuel` steps. -/
def State.drainMatrix (c : Nat) : Nat → State → State
  | 0, s => s
  | fuel + 1, s => if s.matrixIdle c then s else (s.matrixStep c).drainMatrix c fuel
/-- The steps that 4,096 cycles of queued work on each engine can take. -/
def drainSteps : Nat := 8192

/-- The 64 bytes that an inbox entry or a commit-buffer entry stands as in M (R39, R195); none where no layout is given: a part of a package,
and a delegation request. -/
def InEntry.image : InEntry → Option (BitVec 512)
  | .record q => some q.record
  | .message m _ => some m
  | .completion m => some m
  | .carried b => some b
  | .package .. => none
def CbEntry.image : CbEntry → Option (BitVec 512)
  | .store _ b _ => some b
  | .message _ m => some m
  | .deque _ r _ => some r
  | .deleg .. => none
/-- The 64-byte place of M below the sync slots that an offset lies in (R38): the inbox, the deque from its oldest record, or a slot's commit
buffer. -/
def Core.placeAt (x : Core) (m : Nat) : Option (BitVec 512) :=
  if m < 0x2000 then (tget x.inbox (m / 64)).bind fun e => e.entry.image
  else if m < 0x3000 then (x.deque[(m - 0x2000) / 64]?).bind fun d => d.rec?.map fun q => q.record
  else ((x.slots.get (Fin.ofNat 4 ((m - 0x3000) / 0x800))).cb[(m - 0x3000) % 0x800 / 64]?).bind CbEntry.image
/-- A byte of the save image of a core (R291): the buffers and M as R38 lays it out; the places of the rest are not given, nor what a place of M
reads as that holds nothing (log 30). -/
def State.imageAt (s : State) (c i : Nat) : Byte :=
  let x := s.coreAt c
  if i < 0xC000 then mget x.bufW i
  else if i < 0x14000 then mget x.bufA (i - 0xC000)
  else if i < 0x18000 then mget x.bufC (i - 0x14000)
  else
    let m := i - 0x18000
    if m < 0x5000 then (match x.placeAt m with
      | some b => BitVec.ofNat 8 (bitsOf b.toNat (8 * (m % 64)) 8)
      | none => Config.imageByte s.tick i)
    else if m < 0x6000 then
      let w := (tget x.sync ((m - 0x5000) / 16)).getD (0, 0)
      BitVec.ofNat 8 (bitsOf (w.1.toNat + w.2.toNat * 2 ^ 64) (8 * (m % 16)) 8)
    else if m < 0x8000 then mget x.frames m
    else Config.imageByte s.tick i
def imageSize : Nat := 0x28000
/-- What the image holds of the inbox and of the deque: the entries by their order of arrival, and the records by their places, with where in the
image they stand. -/
def Core.noteImage (x : Core) : Core :=
  { x with
    imgInbox := x.inbox.map fun e => e.2.order
    imgDeque := (x.deque.zipIdx).filterMap fun e => e.1.rec?.map fun _ => (e.1.place, e.2) }
def State.saveArea (s : State) (ctx : Nat) (n : BitVec 13) : Word := s.descWord ctx 11 + w64 (imageSize * n.toNat)

/-- The barrier object of a wait that sends an absence token (R253): in `bar.wait` or `bar.sync`, through a proxy with SYS = 1. -/
def Wait.sysObject (w : Wait) : Option BarRef :=
  match w.instr with
  | .barWait _ o => if o.scope == .sys then w.obj else none
  | .barSync _ o => if o.scope == .sys then w.obj else none
  | _ => none
/-- The absence token of a slot that is switched out: held at this chip's port unit, where it has room, or sent to the object's home; the wait
itself is suspended with the others. -/
def State.sendToken (s : State) (ctx c : Nat) (t : Fin 4) : State :=
  let sl := s.slotAt c t
  match sl.wait.bind Wait.sysObject with
  | none => s
  | some r =>
    let name := s.absentName ctx c t
    let noted := s.setSlot c t { sl with token := some r }
    match r with
    | .dev pa _ => if s.tokens.length < 1024 then noted.addToken ⟨none, name, pa⟩ else s
    | .peer p pa => if s.deadPeer ctx p then s else { noted with sent := noted.sent ++ [.token ctx p name pa] }
    | _ => s

/-- Whether a context is resident on some core (R338). -/
def State.residentSomewhere (s : State) (ctx : Nat) : Bool := s.cores.any fun e => decide (e.1 < 8192) && e.2.ctx == some ctx
/-- PROG of a queue's descriptor (R334): 8 bytes. -/
def State.progWord (s : State) (pa : Nat) : Nat := leNat (mbytes s.mem (pa + 0x18) 8)
def State.setProg (s : State) (pa : Nat) (v : Nat) : State := s.writeCell (pa + 0x18) (leBytes 8 v) none
/-- PARKED set or cleared in a queue, and in the PROG field of its descriptor; an unparked queue is visited within 1 µs (R338). -/
def State.parkQueue (s : State) (d q : Nat) (parked : Bool) : State :=
  let x := s.dieAt d
  match tget x.queues q with
  | some h =>
    if h.parked == parked then s
    else
      let h' := { h with parked := parked, interval := if parked then h.interval else 1 }
      let v := s.progWord h.pa % 2 ^ 63
      (s.setDie d { x with queues := tset x.queues q h' }).setProg h.pa (if parked then 2 ^ 63 + v else v)
  | none => s
/-- Every queue of a context parked or unparked as its residency says. -/
def State.settleQueues (s : State) (ctx : Nat) : State :=
  let parked := !s.residentSomewhere ctx
  (s.dies.flatMap fun d => d.2.queues.filterMap fun q => if q.2.qctx = ctx then some (d.1, q.1) else none).foldl
    (fun s e => s.parkQueue e.1 e.2 parked) s

/-- The slots of a core. -/
def fourSlots : List (Fin 4) := [0, 1, 2, 3]
/-- The slot whose thread the forced park names for the harp's image: the one whose task won the lease, else the first with a task. -/
def State.leaseSlot (s : State) (c : Nat) : Option (Fin 4) :=
  match (s.clusterAt (clusterOf c)).harp.lease with
  | some l =>
    match fourSlots.find? fun t => (s.slotAt c t).task.isSome && (s.slotAt c t).taskId == l.tid with
    | some t => some t
    | none => fourSlots.find? fun t => (s.slotAt c t).task.isSome
  | none => none
/-- The core with its lease ended, as a forced park ends it. -/
def State.leaveHarp (s : State) (c : Nat) : State :=
  if !s.holdsLease c then s
  else match s.leaseSlot c with
    | some t => s.saveHarp c t
    | none => s.endLease (clusterOf c)
/-- Switch-out of context `ctx` from core c of logical number n: none while its matrix work cannot be drained; `false` where the image cannot be
written, and the core then stays resident with its threads parked. -/
def State.switchOut (s : State) (ctx c : Nat) (n : BitVec 13) : Option (State × Bool) :=
  let s := s.drainMatrix c drainSteps
  if !s.matrixIdle c then none
  else
    let s := (fourSlots.foldl (fun s t => s.sendToken ctx c t) s).leaveHarp c
    match s.vwrite ctx (s.saveArea ctx n) ((List.range imageSize).map fun i => s.imageAt c i) with
    | .error _ =>
      some (fourSlots.foldl (fun s t =>
        let sl := s.slotAt c t
        if sl.task.isSome && sl.park.isNone then s.setSlot c t (sl.parkHere s.instant) else s) s, false)
    | .ok s =>
      let s := (s.setCore c (s.coreAt c).noteImage).exchange c (savedNum ctx n) (some ctx)
      let s := s.setCore c { s.coreAt c with ctx := none }
      some ((s.settleQueues ctx).relevel (courseOf c), true)

/-! ## Switch-in (R292) -/

/-- The 64 bytes of an image from an offset on. -/
def imageGran (l : List Byte) (off : Nat) : BitVec 512 := BitVec.ofNat 512 (leNat ((l.drop off).take 64))
def InEntry.restore (b : BitVec 512) : InEntry → InEntry
  | .record q => .record { q with record := b }
  | .message _ hops => .message b hops
  | .completion _ => .completion b
  | .carried _ => .carried b
  | e => e
def CbEntry.restore (b : BitVec 512) : CbEntry → CbEntry
  | .store g _ m => .store g b m
  | .message t _ => .message t b
  | .deque p _ r => .deque p b r
  | e => e
/-- The sync slots of an image; an empty one is not listed. -/
def syncOf (l : List Byte) : Tab (Word × Word) :=
  (List.range 256).filterMap fun i =>
    let w (j : Nat) : Word := w64 (leNat ((l.drop (0x1D000 + 16 * i + 8 * j)).take 8))
    if w 0 = 0 && w 1 = 0 then none else some (i, w 0, w 1)
/-- An inbox entry as a switch-in finds it: from the image where it stood there at the switch-out; one that came since stays (R292). -/
def InSlot.fromImage (e : InSlot) (saved : List Nat) (b : BitVec 512) : InSlot :=
  if saved.contains e.order then { e with entry := e.entry.restore b } else e
/-- A deque entry as a switch-in finds it: likewise, by its place. -/
def DequeEntry.fromImage (d : DequeEntry) (saved : List (Nat × Nat)) (gran : Nat → BitVec 512) : DequeEntry :=
  match saved.find? fun e => e.1 == d.place with
  | some e => { d with rec? := d.rec?.map fun q => { q with record := gran e.2 } }
  | none => d
/-- A core with every byte of its save image that has a place there restored; what the image holds elsewhere comes back as it was (log 30). -/
def Core.fromImage (x : Core) (l : List Byte) : Core :=
  { x with
    bufW := mputs [] 0 (l.take 0xC000), bufA := mputs [] 0 ((l.drop 0xC000).take 0x8000)
    bufC := mputs [] 0 ((l.drop 0x14000).take 0x4000), frames := mputs [] 0x6000 ((l.drop 0x1E000).take 0x2000)
    inbox := x.inbox.map fun e => (e.1, e.2.fromImage x.imgInbox (imageGran l (0x18000 + 64 * e.1)))
    deque := x.deque.map fun d => d.fromImage x.imgDeque fun i => imageGran l (0x1A000 + 64 * i)
    imgInbox := [], imgDeque := []
    slots := x.slots.mapIdx fun t sl => { sl with cb := sl.cb.mapIdx fun i e => e.restore (imageGran l (0x1B000 + 0x800 * t + 64 * i)) }
    sync := syncOf l }
/-- A slot's store reloaded after a switch-in or a move (R78): at once. Where that fails the fetch of the slot's thread raises the fault, and until
then the slot keeps the store that it had (log 118); a slot without a thread is left with empty banks (log 82). -/
def Slot.reloadBanks (s : State) (ctx : Nat) (sl : Slot) : Slot :=
  match s.switchDict ctx sl.dict with
  | .ok d => { sl with dict := d, dictLag := [], reload := sl.reload.filter fun r => r != .switchIn }
  | .error _ =>
    if sl.task.isSome then { sl with dictLag := [], reload := some .switchIn }
    else { sl with dict := Dict.empty, dictLag := [], reload := none }
/-- A core at its first residency: every register is zero (R292). -/
def Core.first : Core := { Core.reset with fmtc := 0 }
/-- Switch-in of context `ctx` to core c of logical number n, which is resident for none. -/
def State.switchIn (s : State) (ctx c : Nat) (n : BitVec 13) : State :=
  let sv := savedNum ctx n
  let s : State := match tget s.cores sv with
    | none => s.setCore c { Core.first.onSilicon (s.coreAt c) with ctx := some ctx }
    | some _ =>
      let s : State := fourSlots.foldl (fun (s : State) t => s.dropToken sv t) s
      let s := s.exchange c sv (some ctx)
      let s := { s with cores := terase s.cores sv }
      let x := s.coreAt c
      let s := s.saw ctx (s.saveArea ctx n) 0x20000
      let s := fourSlots.foldl (fun s t => s.sawSwitch ctx (x.slots.get t).dict) s
      let x := match s.vread ctx (s.saveArea ctx n) 0x20000 with | .ok l => x.fromImage l | .error _ => x
      s.setCore c { x with ctx := some ctx, slots := x.slots.map (Slot.reloadBanks s ctx) }
  ((s.touch c).settleQueues ctx).relevel (courseOf c)

/-- A command that comes before bring-up is over (R380): error 14, and nothing else. -/
def State.whenReady (s : State) (go : State → State) : State := if s.fw.boot == .ready then go s else s.answer 14 []
/-- The logical number whose present entry names a physical core. -/
def State.logOf? (s : State) (c : Nat) : Option Nat :=
  (s.fw.l2p.find? fun e => e.2.getLsbD 31 && bitsOf e.2.toNat 0 13 == c).map fun e => e.1
/-- The end of a SWITCH whose core is resident for none: the context to come is switched in. -/
def State.switchTo (s : State) (c : Nat) (n : BitVec 13) (k : Option Nat) : State :=
  match k with
  | some k => if (s.ctx? k).isSome then (s.switchIn k c n).answer 0 [] else s.answer 3 []
  | none => s.answer 0 []
/-- A SWITCH of a core whose slots may be taken: the context that is resident leaves it, then another comes in; none while the matrix work is not
drained. -/
def State.switchCore (s : State) (c : Nat) (n : BitVec 13) (k : Option Nat) : Option State :=
  match (s.coreAt c).ctx with
  | none => some (s.switchTo c n k)
  | some j => match s.switchOut j c n with
    | none => none
    | some (s, false) => some (s.answer 4 [])
    | some (s, true) => some (s.switchTo c n k)
/-- Whether a SWITCH has the slots of its core: none holds a task, or the supervisor forces the tasks to park (R251). -/
def State.mayTake (s : State) (c : Nat) (forced : Bool) : Bool := forced || (s.coreAt c).slots.all fun sl => sl.task.isNone
/-- The oldest SWITCH that waits for a core carried out, where it has the slots by now: the supervisor's choice to force a park may come at any step
(log 83). -/
def State.settleSwitch (s : State) (c : Nat) : State :=
  let x := s.coreAt c
  match x.switches with
  | [] => s
  | q :: r =>
    let out := s.setCore c { x with switches := r }
    let forced := q.forced || Config.forcesPark s.tick
    let held := s.setCore c { x with switches := { q with forced := forced } :: r }
    match s.logOf? c with
    | none => out.answer 3 []
    | some n => if s.mayTake c forced then (out.switchCore c (BitVec.ofNat 13 n) q.into).getD held else held
def State.settleSwitches (s : State) : State :=
  (s.cores.filterMap fun e => if e.2.switches.isEmpty then none else some e.1).foldl State.settleSwitch s
/-- `SWITCH` (R251, R291, R292, R333): it is carried out at once where it has the core's slots, else the core starts no task until it has. A core number
that names no core is refused as a context that is not live is. -/
def execSwitch (n : Nat) (k : Option Nat) (s : State) : Step :=
  .next (s.whenReady fun s =>
    let m := BitVec.ofNat 13 n
    match (if n < 8192 then s.physOf m else none) with
    | none => s.answer 3 []
    | some c =>
      if (match k with | some j => (s.ctx? j).isSome | none => true) then
        let x := s.coreAt c
        (s.setCore c { x with switches := x.switches ++ [⟨k, false⟩] }).settleSwitch c
      else s.answer 3 [])

/-! ## Thermal migration and mapping out (R314, R356) -/

/-- Whether every slot of a core is free. -/
def Core.vacant (x : Core) : Bool := x.slots.all fun sl => sl.task.isNone && sl.reserved.isNone
/-- Whether no slot of a core holds a RUNNING task; a task that waits is RUNNING (R34). -/
def Core.resting (x : Core) : Bool := x.slots.all fun sl => sl.task.isNone || sl.park.isSome
/-- The physical cores of a cluster, lowest first (R12). -/
def coresOf (k : Nat) : List Nat := (List.range 64).map fun i => 2048 * (k / 32) + 64 * (k % 32) + i
/-- A core's temperature among those that firmware has read, in units of 0.25 °C. -/
def tempOf (temps : List (Nat × Nat)) (c : Nat) : Option Nat := (temps.find? fun e => e.1 == c).map fun e => e.2
/-- Whether a core is hot: its temperature exceeds THERMLIM. -/
def State.isHot (s : State) (temps : List (Nat × Nat)) (c : Nat) : Bool :=
  match tempOf temps c with
  | some v => decide (4 * s.thermLim < v)
  | none => false
/-- Whether a core's contents may move to a target: it is present, its slots are free, and it is at most at THERMLIM − 15 °C. -/
def State.mayMove (s : State) (temps : List (Nat × Nat)) (c target : Nat) : Bool :=
  c != target && (s.logOf? target).isSome && (s.coreAt target).vacant
    && match tempOf temps target with
      | some v => decide (v ≤ 4 * (s.thermLim - 15))
      | none => false
/-- The target of a move: the lowest-numbered core of the cluster that fits, at an instant at which no slot of the core holds a RUNNING task. -/
def State.moveTarget (s : State) (temps : List (Nat × Nat)) (c : Nat) : Option Nat :=
  if c < 8192 && (s.coreAt c).resting then (coresOf (clusterOf c)).find? fun t => s.mayMove temps c t else none
/-- An entry of the logical-to-physical table. -/
def l2pEntry (pres : Bool) (c : Nat) : BitVec 32 := BitVec.ofNat 32 ((if pres then 2 ^ 31 else 0) + c)
/-- The move of R356: the leases and claims end, the contents change places (log 27), the two table entries are swapped, and each slot's banks are
reloaded. -/
def State.moveCore (s : State) (c target : Nat) : State :=
  match s.logOf? c, s.logOf? target with
  | some n, some m =>
    let s := match (s.clusterAt (clusterOf c)).harp.lease with
      | some l => if l.core = c || l.core = target then s.endLease (clusterOf c) else s
      | none => s
    let s := fourSlots.foldl (fun s t => s.endClaim c t) s
    let s := s.exchange c target none
    let x := s.coreAt target
    let y := s.coreAt c
    let ctx := x.ctx.getD 0
    -- a SWITCH names a logical core, and goes with it
    let s := s.setCore target { x with slots := x.slots.map (Slot.reloadBanks s ctx), switches := y.switches }
    let s := s.setCore c { y with switches := x.switches }
    let l2p := tset (tset s.fw.l2p n (l2pEntry true target)) m (l2pEntry true c)
    (({ s with fw := { s.fw with l2p := l2p } }.relevel (courseOf c)).relevel (courseOf target)).touch target
  | _, _ => s
/-- `THERMAL_MIGRATION`. -/
def execThermalMigration (hot : Nat) (temps : List (Nat × Nat)) (s : State) : Step :=
  .next (match s.moveTarget temps hot with
    | some t => if s.isHot temps hot && (s.logOf? hot).isSome then s.moveCore hot t else s
    | none => s)
/-- A physical core leaves the table: its logical number is absent, and nothing is resident on it. -/
def State.dropCore (s : State) (c : Nat) : State :=
  match s.logOf? c with
  | some n =>
    let s : State := { s with fw := { s.fw with l2p := tset s.fw.l2p n (l2pEntry false c) } }
    let left := (s.coreAt c).ctx
    let s : State := s.setCore c { s.coreAt c with ctx := none }
    let s : State := match left with | some k => s.settleQueues k | none => s
    let out := (s.fw.l2p.filter fun e => !e.2.getLsbD 31 && e.1 / 2048 == dieOf c).length
    if s.thCore < out then s.health 3 else s
  | none => s
/-- `CORE_MAP_OUT`: a core whose timing errors of one second are above the threshold gives its contents to a target, where any are resident, and
leaves the table. -/
def execCoreMapOut (c : Nat) (temps : List (Nat × Nat)) (s : State) : Step :=
  if 8192 ≤ c || (s.coreAt c).timingErrors ≤ s.thTerr || (s.logOf? c).isNone then .next s
  else match (s.coreAt c).ctx with
    | none => .next (s.dropCore c)
    | some _ => match s.moveTarget temps c with
      | some t => .next ((s.moveCore c t).dropCore c)
      | none => .next s

end Sys2Proof.Machine
end

