-- ==== Sys2Proof/Machine/Manage.lean ====
section
/-! DEFINITION. The management endpoint (R333), command queues (R334 to R339), queue resets (R313), kernel loads (R279), the control page as
the host and supervisors reach it (R5, R287, R289), and peer tables (R340). -/

namespace Sys2Proof.Machine

/-! ## Contexts (R278, R299, R333, R340) -/

/-- The end of device memory (R288). -/
def memEnd : Nat := 0x8000000000
/-- A peer-table entry from its 16 bytes. -/
def peerOf (l : List Byte) : Peer :=
  ⟨BitVec.ofNat 16 (leNat (l.take 2)), BitVec.ofNat 4 (leNat ((l.drop 2).take 1)), decide (leNat ((l.drop 3).take 1) % 2 = 1),
    w64 (leNat ((l.drop 8).take 8)), false, false⟩
def Peer.none : Peer := ⟨0, 0, false, 0, false, false⟩
/-- The peer table of a context as its memory holds it now. -/
def State.readPeers (s : State) (k : Nat) : Option (Vector Peer 32) :=
  match s.vread k (s.descWord k 7) 512 with
  | .ok l => some (Vector.ofFn fun i : Fin 32 => peerOf ((l.drop (16 * i.val)).take 16))
  | .error _ => .none
/-- What the reading of the peer table does besides. -/
def State.sawPeers (s : State) (k : Nat) : State := s.saw k (s.descWord k 7) 512
def Context.fresh (desc : Vector Word 14) : Context :=
  { desc := desc, actions := none, kernels := [], kbusy := none, kcode := 0, ipend := [], fserr := false
    peers := Vector.replicate 32 Peer.none, debug := none, notices := [], noticeCount := 0 }
/-- The context root, LID 0x0_0000 (R27). -/
def Lineage.root : Lineage := ⟨BitVec.allOnes 64, none, 0, 0, .live, none, [], none, none⟩
/-- An entry read again in place of the one held: a link that was declared dead stays dead unless the entry has been rewritten, by the host's
write of its bytes or to other contents (R331, log 102). -/
def Peer.reread (old new : Peer) : Peer :=
  if old.dead && !old.rewritten && new == { old with dead := false } then old else new
/-- Every peer entry whose bytes in its context's memory the host's write reaches is marked as rewritten (R331). -/
def State.markPeers (s : State) (pa n : Nat) : State :=
  let mark (k : Nat) (i : Nat) (p : Peer) : Peer :=
    match s.translateRange k 1 (s.descWord k 7 + w64 (16 * i)) 16 needR with
    | .ok ps => if ps.any fun q => q.1.isNone && decide (q.2.1 < pa + n) && decide (pa < q.2.1 + q.2.2) then { p with rewritten := true } else p
    | .error _ => p
  { s with contexts := s.contexts.map fun (e : Nat × Context) =>
      (e.1, { e.2 with peers := e.2.peers.mapIdx fun i p => if p.dead then mark e.1 i p else p }) }
/-- A context created: its descriptor is held, its root lineage stands, and its action table and peer table are copied. The root is added
without a look at the lineage table's 1,048,576 entries: CTXNEW has no error for a full table (R28, R333), and the model then holds one entry
more (log 101). -/
def State.makeCtx (s : State) (k : Nat) (desc : Vector Word 14) : State :=
  let s := (s.setCtx k (Context.fresh desc)).setLineage k 0 Lineage.root
  let s := (s.reload k).sawPeers k
  match s.ctx? k, s.readPeers k with
  | some x, some ps => s.setCtx k { x with peers := ps }
  | _, _ => s
/-- `CTXNEW`. -/
def execCtxNew (k pa : Nat) (s : State) : Step :=
  .next (s.whenReady fun s =>
    if (s.ctx? k).isSome then s.answer 1 []
    else if 16 ≤ k || memEnd < pa + 0x80 then s.answer 2 []
    else
      let s := (s.sawPhys pa 0x80).makeCtx k (Vector.ofFn fun i : Fin 14 => w64 (leNat (mbytes s.mem (pa + 8 * i.val) 8)))
      { s with fw := { s.fw with ctxEver := true } }.answer 0 [])
/-- `CTXDEL`. -/
def execCtxDel (k : Nat) (s : State) : Step :=
  .next (s.whenReady fun s => if (s.ctx? k).isSome then (s.teardown k).answer 0 [] else s.answer 3 [])
/-- `PEERS`: the table is read again; one that cannot be read stays as it was. -/
def execPeers (k : Nat) (s : State) : Step :=
  .next (s.whenReady fun s => match s.ctx? k with
    | some x =>
      let read := (s.readPeers k).getD x.peers
      ((s.sawPeers k).setCtx k { x with peers := Vector.ofFn fun i => (x.peers.get i).reread (read.get i) }).answer 0 []
    | none => s.answer 3 [])
/-- `RELOAD`. -/
def execReload (k : Nat) (s : State) : Step :=
  .next (s.whenReady fun s => if (s.ctx? k).isSome then (s.reload k).answer 0 [] else s.answer 3 [])

/-! ## Registers read and written (R5, R333, R359) -/

/-- `HREAD`: eight bytes of a register of the firmware windows; a read of an energy accumulator's LO latches its high half for the host. -/
def execHread (pa : Nat) (s : State) : Step :=
  let o := pa - fwBase
  .next (if pa < fwBase then s.answer 8 []
    else if 0x80000 ≤ o && o < 0x82040 && o % 16 = 4 then
      s.answer 0 (leBytes 8 (s.energyAt ((o - 0x80000) / 16)).latchHost.toNat)
    else match s.fwRead o with
      | some v =>
        let t := if 0x80000 ≤ o && o < 0x82040 && o % 16 = 0 then
            { s with energy := tset s.energy ((o - 0x80000) / 16) ((s.energyAt ((o - 0x80000) / 16)).latch none) }
          else s
        t.answer 0 (leBytes 8 v.toNat)
      | none => s.answer 8 [])
/-- `REGISTER_WRITE`: a write of a window register by a context at a privilege level. -/
def execRegisterWrite (pa : Nat) (v : Word) (k : Nat) (level : BitVec 2) (s : State) : Step :=
  .next (if pa % winWidth pa = 0 && windowOk k level true pa then s.winWrite k pa v else s)
/-- `HOST_WRITE`: an ordinary write of device memory by the host (R338). -/
def execHostWrite (pa : Nat) (bytes : List Byte) (s : State) : Step :=
  .next (if pa + bytes.length ≤ memEnd then (s.markPeers pa bytes.length).writeCell pa bytes none else s)
/-- `FRAME_OWNERSHIP_CHANGE` (R287): SHARE and SHRO are cleared, and the old owner's access is revoked. -/
def execFrameOwner (f : Nat) (owner : Option Nat) (s : State) : Step :=
  let old := (tget s.frames f).getD 0
  let was := if old.getLsbD 24 then some (bitsOf old.toNat 20 4) else none
  if 262144 ≤ f || was == owner || (match owner with | some k => decide (16 ≤ k) | none => false) then .next s
  else
    let s : State := { s with frames := match owner with
      | some k => tset s.frames f (BitVec.ofNat 32 (2 ^ 24 + k * 2 ^ 20))
      | none => terase s.frames f }
    .next (match was with | some k => s.pend k (pendOwner f) | none => s)

/-! ## The control page (R279, R289) -/

/-- `KLOAD`. -/
def execKload (k : Nat) (v : Word) (s : State) : Step := .next (s.startLoad k v)
/-- `INVALIDATE`. -/
def execInvalidate (k : Nat) (v : Word) (s : State) : Step := .next (s.startInvalidate k v)
/-- `SHARE_WRITE`. -/
def execShareWrite (k : Nat) (v : Word) (s : State) : Step := .next (s.setShare k v)
/-- Whether a buffer allocation of a kernel descriptor is refused (R279). -/
def badAlloc (w whole : Nat) : Bool :=
  let size := bitsOf w 0 16
  decide (size < 0x40) || size % 64 != 0 || decide (whole < bitsOf w 16 10 * 64 + size)
/-- A kernel from its descriptor's 64 bytes, or the code that refuses it. -/
def kernelOf (l : List Byte) : Except (BitVec 8) Kernel :=
  let f (off n : Nat) : Nat := leNat ((l.drop off).take n)
  if f 0 8 % 8 != 0 then .error 1
  else if badAlloc (f 0x08 4) 0xC000 || badAlloc (f 0x0C 4) 0x8000 || badAlloc (f 0x10 4) 0x4000 then .error 2
  else if 8 < bitsOf (f 0x14 4) 2 4 then .error 3
  else .ok
    { base := w64 (f 0 8), bufW := BitVec.ofNat 32 (f 0x08 4), bufA := BitVec.ofNat 32 (f 0x0C 4), bufC := BitVec.ofNat 32 (f 0x10 4)
      kflags := BitVec.ofNat 32 (f 0x14 4), dict := BitVec.ofNat 32 (f 0x18 4), resW := BitVec.ofNat 48 (f 0x20 6)
      resA := BitVec.ofNat 32 (f 0x28 4), resC := BitVec.ofNat 16 (f 0x2C 2), est := 0 }
/-- The kernel that firmware reads for a handle. -/
def State.fetchKernel (s : State) (k : Nat) (h : BitVec 16) : Except (BitVec 8) Kernel :=
  if bitsOf (s.descWord k 2).toNat 0 32 ≤ h.toNat then .error 4
  else match s.vread k (s.descWord k 1 + w64 (8 * h.toNat)) 8 with
    | .error _ => .error 5
    | .ok p => match s.vread k (w64 (leNat p)) 64 with
      | .error _ => .error 5
      | .ok l => kernelOf l
/-- What the reading of a kernel does besides. -/
def State.sawKernel (s : State) (k : Nat) (h : BitVec 16) : State :=
  let entry := s.descWord k 1 + w64 (8 * h.toNat)
  if bitsOf (s.descWord k 2).toNat 0 32 ≤ h.toNat then s
  else match s.vread k entry 8 with
    | .error _ => s.saw k entry 8
    | .ok p => (s.saw k entry 8).saw k (w64 (leNat p)) 64
/-- `KERNEL_LOAD_DONE`: a refused load leaves any earlier load of the handle standing. -/
def execKernelDone (k : Nat) (s : State) : Step :=
  match s.ctx? k with
  | some x => match x.kbusy with
    | some h =>
      let loaded := s.fetchKernel k h
      let s := s.sawKernel k h
      .next (match loaded with
        | .ok ker => s.setCtx k { x with kbusy := none, kcode := 0, kernels := tset x.kernels h.toNat ker }
        | .error c => s.setCtx k { x with kbusy := none, kcode := c })
    | none => .next s
  | none => .next s

/-- The physical ranges that the stale cached translations of a completion reach on this chip or at a peer: peer, first granule, and the
granule after the last. -/
def State.staleRanges (s : State) (k pend : Nat) : List (Option Nat × Nat × Nat) :=
  (s.tlb.filter fun e => s.stale k pend e).map fun e =>
    let pa := leafPa e.leaf e.level (e.vpn * pageSize e.level)
    ((if ptePeer e.leaf = 0 then none else some (ptePeer e.leaf - 1)), pa / 64, (pa + pageSize e.level) / 64)
/-- Whether a granule reached by a context lies in what a completion revokes. -/
def State.revoked (s : State) (k pend ctx : Nat) (g : Gran) : Bool :=
  if pend < 2 ^ 60 then
    ctx == k && (s.staleRanges k pend).any fun r => r.1 == g.peer && decide (r.2.1 ≤ g.num) && decide (g.num < r.2.2)
  else g.peer.isNone && g.num / 32768 == pend % 2 ^ 60 && !s.frameReach ctx (64 * g.num) true
/-- The granule of a link-queue entry. -/
def LqEntry.gran (e : LqEntry) : Gran :=
  ⟨some e.peer, match e.body with | .store g _ _ => g | .atomic a => a.pa / 64 | .barrier _ pa _ => pa / 64 | .message .. => 0⟩
/-- The pages that a harp command has pinned (R179). -/
def HarpKind.pins : HarpKind → List (Nat × Option Nat × Nat)
  | .ldw (.device _ ps) _ => ps
  | .stream (.device _ ps) .. => ps
  | .drain _ _ (.device _ ps) .. => ps
  | .save (.device _ ps) .. => ps
  | .restore (.device _ ps) .. => ps
  | _ => []
/-- The granules of the stores that a commit buffer holds. -/
def Slot.heldStores (sl : Slot) : List Gran := sl.cb.filterMap fun e => match e with | .store g _ _ => some g | _ => none
/-- The device objects of this chip that a slot's barrier instruction has translated and still reaches: by a step to be taken, or by its wait
(R221, R225). -/
def Slot.objects (sl : Slot) : List BarRef :=
  (match sl.remote with | some ⟨q, none⟩ => (q.obj.map (·.1)).toList | _ => [])
    ++ sl.orphans.filterMap (fun o => o.2.obj.map (·.1))
    ++ (sl.wait.bind (·.obj)).toList
/-- The granule of a device object. -/
def BarRef.gran? : BarRef → Option Gran
  | .dev pa _ => some ⟨none, pa / 64⟩
  | .peer p pa => some ⟨some p, pa / 64⟩
  | _ => none
/-- Whether nothing that had passed translation through what a completion revokes is still to be applied or pinned: stores in commit buffers
with it (R289). -/
def State.settled (s : State) (k pend : Nat) : Bool :=
  let isStore (b : OpBody) : Bool := match b with | .store .. => true | .atomic .. => true | _ => false
  let isPacket (b : LqBody) : Bool := match b with | .message .. => false | _ => true
  (s.op.all fun e => !isStore e.body || !s.revoked k pend e.ctx e.gran)
    && (s.lq.all fun e => !isPacket e.body || !s.revoked k pend e.ctx e.gran)
    && (s.cores.all fun c => c.2.slots.all fun sl => match sl.task with
      | some k' => sl.heldStores.all fun g => !s.revoked k pend k'.ctx g
      | none => true)
    && (s.cores.all fun c => c.2.slots.all fun sl =>
      (sl.objects.filterMap BarRef.gran?).all fun g => !s.revoked k pend (match sl.task with | some k' => k'.ctx | none => (s.homeCtx c.1).getD 0) g)
    && (s.colls.all fun c => !(s.barRead c.obj).any (fun b => b.phase == c.phase)
      || c.members.all fun m => (BarRef.gran? c.obj).all fun g => !s.revoked k pend m.who.ctx g)
    && s.clusters.all fun c => c.2.harp.queue.all fun q => q.waiting || q.kind.pins.all fun p =>
      (if pend < 2 ^ 60 then !(q.who.ctx == k && pendHolds pend p.1 0) else !s.revoked k pend q.who.ctx ⟨p.2.1, p.2.2 * 64⟩)
/-- `INVALIDATION_COMPLETE`: the oldest completion that is settled drops what it makes stale. -/
def execInvalidationDone (k : Nat) (s : State) : Step :=
  match s.ctx? k with
  | some x => match x.ipend.find? fun p => s.settled k p with
    | some p =>
      .next ({ s with tlb := s.tlb.filter fun e => !s.stale k p e }.setCtx k { x with ipend := x.ipend.erase p })
    | none => .next s
  | none => .next s

/-! ## Command queues (R334, R335, R339) -/

def State.queueAt (s : State) (d q : Nat) : Option HostQueue := tget (s.dieAt d).queues q
def State.setQueue (s : State) (d q : Nat) (h : HostQueue) : State :=
  let x := s.dieAt d
  s.setDie d { x with queues := tset x.queues q h }
/-- A field of a queue's descriptor in memory: the TAIL, PROG, EVHEAD and EVTAIL there are authoritative. -/
def State.queueWord (s : State) (h : HostQueue) (off n : Nat) : Nat := leNat (mbytes s.mem (h.pa + off) n)
/-- An unmapped queue goes once its command is over or the queue has stopped for good, its events are written and its reset is done. -/
def State.closeQueue (s : State) (d q : Nat) : State :=
  match s.queueAt d q with
  | some h =>
    if h.closing && (h.cur.isNone || h.stopped) && h.events.isEmpty && !h.resetting then
      let x := s.dieAt d
      s.setDie d { x with queues := terase x.queues q }
    else s
  | none => s
/-- A power of two from 16 to 65,536. -/
def ringSize (n : Nat) : Bool := decide (16 ≤ n) && decide (n ≤ 65536) && 2 ^ Nat.log2 n == n
/-- The queue that a descriptor describes; none where MAPQ refuses it. -/
def State.readQueue (s : State) (pa : Nat) : Option HostQueue :=
  let f (off n : Nat) : Nat := leNat (mbytes s.mem (pa + off) n)
  if memEnd < pa + 64 then none
  else if !ringSize (f 0x08 4) || !ringSize (f 0x30 4) || f 0x00 8 % 128 != 0 || f 0x28 8 % 64 != 0
      || (s.ctx? (f 0x0C 1 % 16)).isNone then none
  else some
    { pa := pa, ring := f 0x00 8, size := f 0x08 4, qctx := f 0x0C 1 % 16, notify := f 0x0C 1 / 16 % 2 == 1
      evring := f 0x28 8, evsize := f 0x30 4, interval := 1, lastTail := BitVec.ofNat 32 (f 0x18 4), stopped := false, closing := false
      parked := false, cur := none, events := [], resetting := false, resetNoticed := none, resetLids := [], resetPeers := []
      resetMask := 0, resetCookie := 0 }
/-- The notices held for a context go to its queue once one with NOTIFY is mapped (R339). -/
def State.handNotices (s : State) (d q : Nat) : State :=
  match s.queueAt d q with
  | some h => match s.ctx? h.qctx with
    | some x =>
      if h.notify then (s.setQueue d q { h with events := h.events ++ x.notices }).setCtx h.qctx { x with notices := [] } else s
    | none => s
  | none => s
/-- No lineage is the work of an earlier queue of this number any more. -/
def State.clearOrigin (s : State) (d q : Nat) : State :=
  { s with lineages := s.lineages.map fun e => (e.1, if e.2.origin == some (d, q) then { e.2 with origin := none } else e.2) }
/-- `MAPQ`. -/
def execMapq (die q pa : Nat) (s : State) : Step :=
  .next (s.whenReady fun s =>
    if 4 ≤ die || 4096 ≤ q then s.answer 6 []
    else if (s.queueAt die q).isSome then s.answer 5 []
    else match s.readQueue pa with
      | none => (s.sawPhys pa 64).answer 6 []
      | some h => (((((s.sawPhys pa 64).clearOrigin die q).setQueue die q h).handNotices die q).settleQueues h.qctx).answer 0 [])
/-- `UNMAPQ`. -/
def execUnmapq (die q : Nat) (s : State) : Step :=
  .next (s.whenReady fun s => match s.queueAt die q with
    | some h => ((s.setQueue die q { h with closing := true }).closeQueue die q).answer 0 []
    | none => s.answer 7 [])
/-- An event put into its queue, with the instant at which it is made. -/
def State.post (s : State) (d q kind reason : Nat) (lid : BitVec 20) (cookie count : Word) : State :=
  match s.queueAt d q with
  | some h => s.setQueue d q { h with events := h.events ++ [eventWord kind reason lid cookie s.instant count 0] }
  | none => s
/-- A visit of the die's scanner: a TAIL more than SIZE ahead of PROG stops the queue, sets QERR and posts OVERRUN; otherwise the interval starts
again with new commands, and doubles up to 1,024 µs without. -/
def State.visit (s : State) (d q : Nat) : State :=
  match s.queueAt d q with
  | none => s
  | some h =>
    if h.parked || h.stopped || h.closing then s
    else
      let tail := BitVec.ofNat 32 (s.queueWord h 0x10 4)
      let prog := BitVec.ofNat 32 (s.queueWord h 0x18 4)
      let s := s.sawPhys h.pa 64
      if h.size < (tail - prog).toNat then
        let s := s.setQueue d q { h with stopped := true, lastTail := tail }
        (s.setProg h.pa (s.progWord h.pa % 2 ^ 62 + 2 ^ 62)).post d q 4 0 0 0 0
      else s.setQueue d q { h with lastTail := tail, interval := if tail = h.lastTail then min 1024 (2 * h.interval) else 1 }
/-- `KICK`. -/
def execKick (die q : Nat) (s : State) : Step :=
  .next (s.whenReady fun s => match s.queueAt die q with
    | some h => ((s.setQueue die q { h with interval := 1 }).visit die q).answer 0 []
    | none => s.answer 7 [])
/-- `QUEUE_SCAN`. -/
def execQueueScan (die q : Nat) (s : State) : Step := .next (s.visit die q)
/-- Whether the event ring is full: no command executes then. -/
def State.eventsFull (s : State) (h : HostQueue) : Bool :=
  BitVec.ofNat 32 (s.queueWord h 0x38 4) - BitVec.ofNat 32 (s.queueWord h 0x34 4) == BitVec.ofNat 32 h.evsize
/-- `EVENT_WRITE`: the oldest waiting event is written to the ring, and EVTAIL advances after it. -/
def execEventWrite (die q : Nat) (s : State) : Step :=
  match s.queueAt die q with
  | some h => match h.events with
    | ev :: r =>
      if s.eventsFull h then .next s
      else
        let s := s.sawPhys h.pa 64
        let tail := s.queueWord h 0x38 4
        let s := s.setQueue die q { h with events := r }
        let s := s.writeCell (h.evring + 64 * (tail % h.evsize)) (leBytes 64 ev.toNat) none
        .next ((s.writeCell (h.pa + 0x38) (leBytes 4 (tail + 1)) none).closeQueue die q)
    | [] => .next s
  | none => .next s

/-! ## Commands (R336, R337) -/

/-- The next command of a queue that may begin now: the queue, and the 128 bytes of the slot. -/
def State.command (s : State) (d q : Nat) : Option (HostQueue × List Byte) :=
  match s.queueAt d q with
  | some h =>
    let prog := s.queueWord h 0x18 4
    if h.parked || h.stopped || h.closing || h.cur.isSome || h.lastTail == BitVec.ofNat 32 prog || s.eventsFull h then none
    else some (h, mbytes s.mem (h.ring + 128 * (prog % h.size)) 128)
  | none => none
/-- What the reading of a queue's descriptor and of the slot at PROG does besides. -/
def State.sawSlot (s : State) (h : HostQueue) : State :=
  (s.sawPhys h.pa 64).sawPhys (h.ring + 128 * (s.queueWord h 0x18 4 % h.size)) 128
def cmdOpc (l : List Byte) : Nat := leNat (l.take 1)
def cmdFan (l : List Byte) : Nat := leNat ((l.drop 1).take 1)
def cmdMode (l : List Byte) : Nat := leNat ((l.drop 2).take 1)
def cmdAck (l : List Byte) : Bool := leNat ((l.drop 3).take 1) % 2 == 1
def cmdClin (l : List Byte) : BitVec 2 := BitVec.ofNat 2 (leNat ((l.drop 3).take 1) / 2)
def cmdCore0 (l : List Byte) : Nat := leNat ((l.drop 4).take 4) % 8192
def cmdExpiry (l : List Byte) : Word := w64 (leNat ((l.drop 8).take 8))
def cmdCookie (l : List Byte) : Word := w64 (leNat ((l.drop 0x10).take 8))
def cmdAlid (l : List Byte) : BitVec 20 := BitVec.ofNat 20 (leNat ((l.drop 0x18).take 4))
def cmdRecord (l : List Byte) : Rec := BitVec.ofNat 512 (leNat ((l.drop 0x40).take 64))
/-- A command over: PROG advances by 1, modulo 2^32. -/
def State.endCommand (s : State) (d q : Nat) : State :=
  match s.queueAt d q with
  | some h =>
    let w := s.progWord h.pa
    let s := s.setQueue d q { h with cur := none }
    (s.setProg h.pa (w - w % 2 ^ 32 + (w + 1) % 2 ^ 32)).closeQueue d q
  | none => s
/-- A command refused. -/
def State.refuseCommand (s : State) (d q reason : Nat) (lid : BitVec 20) (cookie count : Word) : State :=
  (s.post d q 2 reason lid cookie count).endCommand d q
/-- A command done: ACCEPTED where ACK asks for it. -/
def State.acceptCommand (s : State) (d q : Nat) (lid : BitVec 20) (l : List Byte) : State :=
  (if cmdAck l then s.post d q 1 0 lid (cmdCookie l) 0 else s).endCommand d q
/-- A header field whose value is refused with reason 5, for every command (R336): FAN of 64 or more, or LMODE above 1. -/
def badField (l : List Byte) : Bool := decide (64 ≤ cmdFan l) || decide (2 ≤ cmdMode l)
/-- `NO_OP`; an opcode that names no command is refused. -/
def execNoOp (die q : Nat) (s : State) : Step :=
  match s.command die q with
  | some (h, l) =>
    let seen := s.sawSlot h
    .next (if 4 ≤ cmdOpc l || (cmdOpc l = 0 && badField l) then seen.refuseCommand die q 5 0 (cmdCookie l) 0
      else if cmdOpc l = 0 then seen.acceptCommand die q 0 l
      else s)
  | none => .next s
/-- What the look at a SUBMIT's cores does besides: their bits in the core set are read. -/
def State.sawCores (s : State) (ctx : Nat) (l : List Byte) : State :=
  if badField l then s else (List.range (cmdFan l + 1)).foldl (fun s i => s.sawCore ctx (BitVec.ofNat 13 (cmdCore0 l + i))) s
/-- The steps 1 and 2 of a SUBMIT: the lineage its records get, or the reason that refuses it. -/
def State.submitLid (s : State) (d q : Nat) (h : HostQueue) (l : List Byte) : Except Nat (State × BitVec 20) :=
  if badField l then .error 5
  else if (List.range (cmdFan l + 1)).any fun i =>
      decide (8192 ≤ cmdCore0 l + i) || (s.targetCore h.qctx (BitVec.ofNat 13 (cmdCore0 l + i))).isNone then .error 2
  else if cmdMode l = 0 then
    if cmdExpiry l ≤ s.instant then .error 3
    else match s.freeLid h.qctx with
      | none => .error 1
      | some j => .ok (s.setLineage h.qctx j ⟨cmdExpiry l, none, cmdClin l, 0, .live, none, [], some (d, q), none⟩, j)
  else
    let j := recLid (cmdRecord l)
    if (s.lineage? h.qctx j).isSome && !s.annulled h.qctx j then .ok (s, j) else .error 4
/-- `SUBMIT`: its first two steps. The records follow one by one. -/
def execSubmit (die q : Nat) (s : State) : Step :=
  match s.command die q with
  | some (h, l) =>
    if cmdOpc l != 1 then .next s
    else .next (match ((s.sawSlot h).sawCores h.qctx l).submitLid die q h l with
      | .error r => ((s.sawSlot h).sawCores h.qctx l).refuseCommand die q r (if cmdMode l = 1 then recLid (cmdRecord l) else 0) (cmdCookie l) 0
      | .ok (s, j) => s.setQueue die q { h with cur := some ⟨j, 0, false⟩ })
  | none => .next s
/-- The record of rank i: its LID, and ARGS doubleword 1 plus the rank. -/
def rankRec (r : Rec) (lid : BitVec 20) (i : Nat) : Rec :=
  let n := r.toNat - recBits r 96 20 * 2 ^ 96 + lid.toNat * 2 ^ 96
  BitVec.ofNat 512 (n - recBits r 320 64 * 2 ^ 320 + (recBits r 320 64 + i) % 2 ^ 64 * 2 ^ 320)
/-- Every SUBMIT in progress whose lineage has been annulled is marked, so that it writes nothing under a later lineage of the same LID. -/
def State.loseSubmits (s : State) : State :=
  let lost (h : HostQueue) : Bool := match h.cur with | some c => !c.gone && s.annulled h.qctx c.lid | none => false
  let mark (h : HostQueue) : HostQueue := if lost h then { h with cur := h.cur.map fun c => { c with gone := true } } else h
  if s.dies.any fun d => d.2.queues.any fun q => lost q.2 then
    { s with dies := s.dies.map fun (d : Nat × Die) => (d.1, { d.2 with queues := d.2.queues.map fun (q : Nat × HostQueue) => (q.1, mark q.2) }) }
  else s
/-- `SUBMIT_RECORD_WRITE`: the next rank, once its core is resident for the queue's context and has a free entry. A queue that has been stopped, that
is parked, or whose event ring is full goes no further (R335, R338, R339); one that is being unmapped still refuses a command whose lineage is
annulled. -/
def execSubmitRecord (die q : Nat) (s : State) : Step :=
  match s.queueAt die q with
  | some h => match h.cur with
    | some c =>
      let prog := s.queueWord h 0x18 4
      let l := mbytes s.mem (h.ring + 128 * (prog % h.size)) 128
      if (h.parked && !h.closing) || h.stopped || s.eventsFull h then .next s
      else if c.gone || s.annulled h.qctx c.lid then .next ((s.sawSlot h).refuseCommand die q 3 c.lid (cmdCookie l) (w64 c.rank))
      else if h.parked then .next s
      else match s.targetCore h.qctx (BitVec.ofNat 13 (cmdCore0 l + c.rank)) with
        | none => .next s
        | some k =>
          if !((s.coreAt k).ctx == some h.qctx && (s.coreAt k).recRoom 1) then .next s
          else
            let r := rankRec (cmdRecord l) c.lid c.rank
            let (s, id) := ((s.sawSlot h).sawCore h.qctx (BitVec.ofNat 13 (cmdCore0 l + c.rank))).fresh
            let s := (s.enterDq id h.qctx (recTstamp r)).liveUp h.qctx c.lid
            let s := s.setCore k ((s.coreAt k).putIn (.record ⟨r, h.qctx, id, none, s.instant, 0, 1⟩) h.qctx s.instant).1
            let s := s.setQueue die q { h with cur := some { c with rank := c.rank + 1 } }
            .next (if c.rank = cmdFan l then s.acceptCommand die q c.lid l else s)
    | none => .next s
  | none => .next s
/-- `ANNUL`. -/
def execAnnul (die q : Nat) (s : State) : Step :=
  match s.command die q with
  | some (h, l) =>
    if cmdOpc l != 2 then .next s
    else
      let j := cmdAlid l
      let s := s.sawSlot h
      .next (if badField l then s.refuseCommand die q 5 j (cmdCookie l) 0
        else if j = 0 || (s.lineage? h.qctx j).isNone then s.refuseCommand die q 4 j (cmdCookie l) 0
        else if s.annulled h.qctx j then s.acceptCommand die q j l
        else (s.annulLineage h.qctx j).acceptCommand die q j l)
  | none => .next s

/-! ## Queue-level reset (R313) -/

def State.setRstat (s : State) (pa v : Nat) : State := s.writeCell (pa + 0x20) (leBytes 8 v) none
/-- The reset's end: 0b10 complete, or 0b11 with the peers that did not acknowledge. -/
def State.endReset (s : State) (d q : Nat) (h : HostQueue) : State :=
  let v := (if h.resetMask = 0 then 2 else 3) * 2 ^ 62 + h.resetMask.toNat
  let s := s.setQueue d q { h with resetting := false, resetNoticed := none, resetLids := [], resetPeers := [] }
  ((s.setRstat h.pa v).post d q 3 0 0 h.resetCookie (w64 v)).closeQueue d q
/-- A reset moved on as far as it can go: once every lineage of it is freed its notices leave; peers whose links are dead count as unreachable, as
long as their context lives to name them; with no peer awaited it ends. -/
def State.settleReset (s : State) (d q : Nat) : State :=
  match s.queueAt d q with
  | none => s
  | some h =>
    if !h.resetting || s.lineages.any fun e => e.2.resetBy == some (d, q) then s
    else
      let lost (p : Nat) : Bool := (s.ctx? h.qctx).isSome && s.deadPeer h.qctx p
      let dead := h.resetPeers.filter lost
      let up := h.resetPeers.filter fun p => !lost p
      let h' := { h with
        resetPeers := up, resetMask := dead.foldl (fun m p => m ||| BitVec.twoPow 32 p) h.resetMask
        resetNoticed := match h.resetNoticed with | some t => some t | none => some s.instant }
      let s : State := if h.resetNoticed.isNone then
          { s with sent := s.sent ++ up.map fun p => PeerOut.resetNotice p h.qctx h.resetLids }
        else s
      if up.isEmpty then s.endReset d q h' else s.setQueue d q h'
/-- Every reset in progress moved on. -/
def State.settleResets (s : State) : State :=
  (s.dies.flatMap fun d => d.2.queues.filterMap fun q => if q.2.resetting then some (d.1, q.1) else none).foldl
    (fun s e => s.settleReset e.1 e.2) s
/-- A reset begun: the lineages of the queue's requests, with their descendants, are marked and annulled. -/
def State.beginReset (s : State) (d q : Nat) (h : HostQueue) (cookie : Word) : State :=
  let roots := (s.lidsOf h.qctx).filter fun l => match s.lineage? h.qctx l with | some x => x.origin == some (d, q) | none => false
  let all := (s.lidsOf h.qctx).filter fun l => roots.any fun a => isUnder s.lineages h.qctx a (s.lineages.length + 1) l
  let peers := (all.flatMap fun l => match s.lineage? h.qctx l with | some x => x.sentTo | none => []).eraseDups
  let s : State := { s with lineages := s.lineages.map fun e =>
      if e.1 / 1048576 = h.qctx && all.contains (BitVec.ofNat 20 (e.1 % 1048576)) then (e.1, { e.2 with resetBy := some (d, q) }) else e }
  let s := s.setQueue d q { h with
    resetting := true, resetNoticed := none, resetLids := all, resetPeers := peers, resetMask := 0, resetCookie := cookie }
  let s := s.setRstat h.pa (2 ^ 62)
  roots.foldl (fun s l => s.annulLineage h.qctx l) s
/-- STATE of RSTAT as the descriptor in memory, which is authoritative, holds it (R334). -/
def State.resetState (s : State) (h : HostQueue) : Nat := bitsOf (s.queueWord h 0x20 8) 62 2
/-- `RESET`: it begins, and the queue goes on with its next command. -/
def execQueueReset (die q : Nat) (s : State) : Step :=
  match s.command die q with
  | some (h, l) =>
    if cmdOpc l != 3 then .next s
    else
      let s := s.sawSlot h
      .next (if badField l then s.refuseCommand die q 5 0 (cmdCookie l) 0
        else if s.resetState h = 1 then s.refuseCommand die q 6 0 (cmdCookie l) 0
        else ((s.beginReset die q h (cmdCookie l)).acceptCommand die q 0 l).settleReset die q)
  | none => .next s
/-- `RESET_ACK`: a peer's own mirrors are all freed. -/
def execResetAck (die q peer : Nat) (s : State) : Step :=
  match s.queueAt die q with
  | some h =>
    if h.resetting && h.resetNoticed.isSome && h.resetPeers.contains peer then
      .next ((s.setQueue die q { h with resetPeers := h.resetPeers.filter fun p => p != peer }).settleReset die q)
    else .next s
  | none => .next s
/-- `RESET_PEER_TIMEOUT`: a peer has not acknowledged within 100 ms of the notice. -/
def execResetTimeout (die q peer : Nat) (s : State) : Step :=
  match s.queueAt die q with
  | some h => match h.resetNoticed with
    | some t =>
      if h.resetting && h.resetPeers.contains peer && decide (t.toNat + 100000000 ≤ s.instant.toNat) then
        .next ((s.setQueue die q { h with
          resetPeers := h.resetPeers.filter fun p => p != peer, resetMask := h.resetMask ||| BitVec.twoPow 32 peer }).settleReset die q)
      else .next s
    | none => .next s
  | none => .next s

end Sys2Proof.Machine
end

