-- ==== Sys2Proof/Machine/Bringup.lean ====
section
/-! DEFINITION. Device reset and bring-up (R17, R47, R181, R290, R355, R357, R380 to R382), the store's slots, and attestation (R386). -/

namespace Sys2Proof.Machine

/-! ## Images and tables (R381, R382) -/

/-- The bytes of a configuration table (R382). -/
def tableSize : Nat := 0x8B8
/-- The bytes of a slot of the base die's 8 MiB store, which two firmware slots and two table slots fill. The spec gives no slot's size: it is free, and
a table slot holds a table at least (log 120). -/
def slotSize (table : Bool) : Nat :=
  let fw := 144 + Config.fwSlotExtra % (0x400000 - tableSize - 143)
  if table then 0x400000 - fw else fw
/-- Whether the boot ROM finds an image in a slot that it takes. -/
def imageOk (fsec : BitVec 32) (slot : List Byte) : Bool := (imageIn fsec slot).isSome
/-- The key that signs configuration tables: the operator's, where its digest is the one fused into CFGKEY; the boot ROM's while CFGKEY is
unfused (R382). -/
def tableKey : Option (Nat × Nat) :=
  match Config.cfgKey with
  | none => some Config.bootKey
  | some d => if sha512 (Config.keyBytes Config.operatorKey) = d then some Config.operatorKey else none
/-- Whether a table's signature is the key's on the digest of bytes 0x000 to 0x833. -/
def tableSigned (key : Option (Nat × Nat)) (l : List Byte) : Bool :=
  match key with
  | some k => ecdsaValid k (sha512 (l.take 0x834)) ((l.drop 0x834).take 132)
  | none => false
/-- A field of a configuration table. -/
def tabWord (l : List Byte) (off n : Nat) : Nat := leNat ((l.drop off).take n)
/-- NUTW: 0 takes the default 1. -/
def nutWidth (l : List Byte) : Nat := if tabWord l 0x00A 1 = 0 then 1 else tabWord l 0x00A 1
/-- The roles of a die's nut cores. -/
def roles (l : List Byte) (d : Nat) : List Nat := (List.range (64 * nutWidth l)).map fun i => tabWord l (0x034 + 256 * d + i) 1
/-- Whether every field of a table lies in its range, 0 standing for the default where there is one. -/
def tableFields (l : List Byte) : Bool :=
  let all := (List.range 4).flatMap (roles l)
  tabWord l 0x000 4 == 1 && tabWord l 0x008 2 != 0 && decide (nutWidth l ≤ 4)
    && (tabWord l 0x00B 1 == 0 || (decide (70 ≤ tabWord l 0x00B 1) && decide (tabWord l 0x00B 1 ≤ 105)))
    && decide (tabWord l 0x00C 4 ≤ 65535) && decide (tabWord l 0x020 4 ≤ 256) && decide (tabWord l 0x028 4 ≤ 128)
    && decide (tabWord l 0x030 4 ≤ 4096) && all.all (fun r => decide (r ≤ 4)) && all.contains 3
    && (List.range 4).all fun d => (roles l d).contains 1
/-- Whether firmware takes a table. -/
def tableOk (fsec : BitVec 32) (l : List Byte) : Bool :=
  decide (tableSize ≤ l.length) && decide (fsec.toNat ≤ tabWord l 0x004 4) && tableFields l
    && tableSigned tableKey l
/-- The slot that is taken: the one marked active, or else the other. -/
def chooseSlot (ok : List Byte → Bool) (active : Bool) (slot0 slot1 : List Byte) : Option (Bool × List Byte) :=
  let at_ (b : Bool) : List Byte := if b then slot1 else slot0
  if ok (at_ active) then some (active, at_ active)
  else if ok (at_ !active) then some (!active, at_ !active)
  else none

/-! ## The steps of bring-up (R380) -/

/-- Step 3: the router of every core locked, and those of the nut column marked (R290). -/
def firewalls (w : Nat) : Tab (BitVec 32) :=
  (List.range 8192).map fun c => (c, BitVec.ofNat 32 (2 ^ 31 + (if 32 - w ≤ c % 32 then 2 ^ 30 else 0)))
/-- Step 4: the logical-to-physical table, which skips the nut column; a core that failed its test is absent (R47, R355). -/
def coreTable (w : Nat) (bad : List Nat) : Tab (BitVec 32) :=
  ((List.range 8192).filter fun n => decide (n % 32 < 32 - w)).map fun n => (n, l2pEntry (!bad.contains n) n)
/-- Step 4: the harps with the rows that failed their tests disabled. -/
def testedHarps (rows : List (Nat × Nat)) : Tab Cluster :=
  (List.range 128).filterMap fun k =>
    let bad := ((rows.filter fun r => r.1 == k && decide (r.2 < 264)).map fun r => r.2).eraseDups
    if bad.isEmpty then none else some (k, { Cluster.reset with harp := { Harp.reset with disabled := bad } })
/-- MONSEL from a table word: reserved bits read 0, and an EPOCH of 0 reads 1. -/
def monselOf (v : Nat) : Word :=
  w64 (bitsOf v 0 4 + bitsOf v 8 5 * 2 ^ 8 + bitsOf v 16 13 * 2 ^ 16 + max 1 (bitsOf v 32 32) * 2 ^ 32)
/-- Step 5: a die's pool and monitors. -/
def bootDie (l : List Byte) (pool d : Nat) : Die :=
  { Die.reset with
    pool := BitVec.ofNat 16 pool
    monitors := (List.range 32).map fun u =>
      (u, ⟨monselOf (tabWord l (0x434 + 8 * (32 * d + u)) 8), 0, 0, Figures.empty, Figures.empty⟩) }
/-- The reasons for REPLACE_ME that the tests of step 4 find (R315). -/
def State.testHealth (s : State) : State :=
  let s := if (List.range 4).any fun d =>
      decide (s.thCore < (s.fw.l2p.filter fun e => !e.2.getLsbD 31 && e.1 / 2048 == d).length) then s.health 3 else s
  let s := if s.clusters.any fun e => decide (8 ≤ e.2.harp.disabled.length) then s.health 2 else s
  if s.clusters.any fun e => !e.2.harp.inService then s.health 1 else s
/-- The machine after a reset: the store and the fused counter stay, with what has left the chip and the model's own counters. -/
def State.afterReset (s : State) : State :=
  { State.reset with
    fw := { Firmware.reset with
      fsec := s.fw.fsec, fwSlot0 := s.fw.fwSlot0, fwSlot1 := s.fw.fwSlot1, fwActive := s.fw.fwActive, fwRun := s.fw.fwRun
      tabSlot0 := s.fw.tabSlot0, tabSlot1 := s.fw.tabSlot1, tabActive := s.fw.tabActive, tabRun := s.fw.tabRun }
    replies := s.replies, sent := s.sent, tick := s.tick, agenda := s.agenda, nextTask := s.nextTask, nextFt := s.nextFt }
/-- Bring-up stopped at a step. -/
def State.stopBoot (s : State) (code : BitVec 6) : State := { s with fw := { s.fw with boot := .stopped code } }
/-- Steps 3 to 5 with a verified image and table. -/
def State.bootWith (s : State) (table : List Byte) (bad : List Nat) (rows : List (Nat × Nat)) : State :=
  let w := nutWidth table
  let l2p := coreTable w bad
  let s : State := { s with fw := { s.fw with table := table, fwctl := firewalls w, l2p := l2p }, clusters := testedHarps rows }
  if (l2p.filter fun e => e.2.getLsbD 31).length < 1024 then s.stopBoot 3
  else
    let s : State := { s with
      dies := (List.range 4).map fun d => (d, bootDie table s.poolMax d)
      fw := { s.fw with boot := .timing } }
    s.testHealth
/-- `DEVICE_RESET` (R380): reset, then bring-up to its wait for precision time; `bad` and `rows` are what the tests find. -/
def execDeviceReset (bad : List Nat) (rows : List (Nat × Nat)) (s : State) : Step :=
  let s := s.afterReset
  match chooseSlot (imageOk s.fw.fsec) s.fw.fwActive s.fw.fwSlot0 s.fw.fwSlot1 with
  | none => .next (s.stopBoot 1)
  | some (b, _) =>
    let s : State := { s with fw := { s.fw with fwActive := b, fwRun := b } }
    match chooseSlot (tableOk s.fw.fsec) s.fw.tabActive s.fw.tabSlot0 s.fw.tabSlot1 with
    | none => .next (s.stopBoot 2)
    | some (a, table) => .next ({ s with fw := { s.fw with tabActive := a, tabRun := a } }.bootWith table bad rows)

/-! ## Slot writes and attestation (R380, R386) -/

/-- Bytes laid into a slot at an offset; bytes between are 0. -/
def slotPut (l : List Byte) (off : Nat) (bytes : List Byte) : List Byte :=
  let l' := l ++ List.replicate (off - l.length) 0
  l'.take off ++ bytes ++ l'.drop (off + bytes.length)
/-- `SLOT_WRITE`: the firmware or table slot that is not in use; it is the one marked active from then on, so that its image takes effect at the
next reset (log 99). -/
def execSlotWrite (table : Bool) (off : Nat) (bytes : List Byte) (s : State) : Step :=
  if slotSize table < off + bytes.length then .next (s.answer 8 [])
  else
    let f := s.fw
    let f' := if table then
        (if f.tabRun then { f with tabSlot0 := slotPut f.tabSlot0 off bytes, tabActive := false }
          else { f with tabSlot1 := slotPut f.tabSlot1 off bytes, tabActive := true })
      else
        (if f.fwRun then { f with fwSlot0 := slotPut f.fwSlot0 off bytes, fwActive := false }
          else { f with fwSlot1 := slotPut f.fwSlot1 off bytes, fwActive := true })
    .next ({ s with fw := f' }.answer 0 [])
/-- The 0x114 bytes of a quote that the device key signs: measurements are zero until READY. -/
def State.quoteBody (s : State) (nonce : BitVec 512) : List Byte :=
  let up := s.fw.boot == .ready
  leBytes 8 s.ident.toNat ++ leBytes 8 Config.serial.toNat ++ beBytes 64 (if up then s.fw.fwMeas.toNat else 0)
    ++ beBytes 64 (if up then (sha512 (s.fw.table.take tableSize)).toNat else 0)
    ++ leBytes 4 s.fw.fsec.toNat ++ leBytes 4 (tabWord s.fw.table 4 4) ++ leBytes 64 nonce.toNat ++ leBytes 8 s.instant.toNat
    ++ List.replicate 52 0
/-- `QUOTE`. -/
def execQuote (nonce : BitVec 512) (s : State) : Step :=
  let body := s.quoteBody nonce
  .next (s.answer 0 (body ++ beBytes 132 (Config.deviceSign (sha512 body)).toNat))
/-- `QCERT`. -/
def execQcert (s : State) : Step := .next (s.whenReady fun s => s.answer 0 Config.certificate)

end Sys2Proof.Machine
end

