-- ==== Sys2Proof/Machine/Debug.lean ====
section
/-! DEFINITION. The debugger (R317, R364 to R371): claims, halts, steps, and the debug windows. -/

namespace Sys2Proof.Machine

/-! ## Claims and commands (R364, R367, R368) -/

/-- The context debug page after DBGCLAIM (R365). -/
def DebugPage.clear : DebugPage := ⟨Vector.replicate 8 0, Vector.replicate 4 0, Vector.replicate 4 0x30⟩
/-- Whether a context is claimed. -/
def State.claimed (s : State) (k : Nat) : Bool := match s.ctx? k with | some x => Option.isSome x.debug | none => false
/-- `DBGCLAIM`. -/
def execDbgClaim (k : Nat) (s : State) : Step :=
  .next (s.whenReady fun s => match s.ctx? k with
    | some x => if Option.isSome x.debug then s.answer 9 [] else (s.setCtx k { x with debug := some DebugPage.clear }).answer 0 []
    | none => s.answer 3 [])
/-- A halted thread let go: it fetches again, and is not checked again against the point that halted it. A step in progress halts it no more. -/
def Slot.release (sl : Slot) : Slot :=
  match sl.halt with
  | some h => { sl with
      halt := none, stepping := false, dictLag := [], loopRaw := none, skip := if h.why = 2 || h.why = 3 then some h else none }
  | none => { sl with stepping := false }
/-- Every halted thread of a context let go, and what a step command has still to halt. -/
def releaseCtx (k : Nat) (sl : Slot) : Slot :=
  match sl.task with
  | some t => if t.ctx = k then { sl.release with fwd := sl.fwd.map fun f => { f with stepped := false } } else sl
  | none => sl
/-- A package of the context that left in a step command let go, in flight or at its target. -/
def Package.release (k : Nat) (pk : Package) : Package := if pk.task.ctx = k then { pk with halt := none } else pk
def InSlot.release (k : Nat) (e : InSlot) : InSlot :=
  match e.entry with
  | .package p i pk => { e with entry := .package p i (pk.map (Package.release k)) }
  | _ => e
def Core.release (k : Nat) (x : Core) : Core :=
  { x with slots := x.slots.map (releaseCtx k), inbox := x.inbox.map fun e => (e.1, e.2.release k) }
/-- `DBGREL`. -/
def execDbgRel (k : Nat) (s : State) : Step :=
  .next (s.whenReady fun s => match s.ctx? k with
    | some x =>
      if Option.isNone x.debug then s.answer 10 []
      else
        let s := s.setCtx k { x with debug := none }
        let cores : Tab Core := s.cores.map fun (e : Nat × Core) => (e.1, e.2.release k)
        { s with cores := cores, transit := s.transit.map (Package.release k) }.answer 0 []
    | none => s.answer 10 [])
/-- The physical core of a logical number whose resident context is claimed, with that context. -/
def State.debugCore (s : State) (n : Nat) : Option (Nat × Nat) :=
  if 8192 ≤ n then none
  else match s.physOf (BitVec.ofNat 13 n) with
    | some c => match (s.coreAt c).ctx with
      | some k => if s.claimed k then some (c, k) else none
      | none => none
    | none => none
/-- A command on one slot of a claimed context's core. -/
def State.debugSlot (s : State) (n : Nat) (go : Nat → State) : State := match s.debugCore n with | some (c, _) => go c | none => s.answer 10 []
/-- `DBGHALT`: the thread halts between units, or in its wait. -/
def execDbgHalt (n : Nat) (t : Fin 4) (s : State) : Step :=
  .next (s.whenReady fun s => s.debugSlot n fun c =>
    let sl := s.slotAt c t
    if sl.task.isNone then s.answer 11 []
    else (s.setSlot c t { sl with halt := some (sl.halt.getD ⟨1, 0⟩), dictLag := [] }).answer 0 [])
/-- `DBGRUN`. -/
def execDbgRun (n : Nat) (t : Fin 4) (s : State) : Step :=
  .next (s.whenReady fun s => s.debugSlot n fun c =>
    let sl := s.slotAt c t
    if sl.task.isNone || sl.halt.isNone then s.answer 11 [] else (s.setSlot c t sl.release).answer 0 [])
/-- `DBGSTEP`: the thread is let go for one unit, at whose end it halts again (`State.stepDone`). -/
def execDbgStep (n : Nat) (t : Fin 4) (s : State) : Step :=
  .next (s.whenReady fun s => s.debugSlot n fun c =>
    let sl := s.slotAt c t
    if sl.task.isNone || sl.halt.isNone then s.answer 11 []
    else match sl.group with
      | some (.follower _ _ _ true) => s.answer 12 []
      | _ => (s.setSlot c t { sl.release with stepping := true }).answer 0 [])

/-! ## The debug windows (R365, R369, R370) -/

/-- DSTAT. -/
def Slot.dstat (sl : Slot) : Word :=
  let state := if sl.task.isNone then 0 else if sl.halt.isSome then 2 else if sl.park.isSome then 3 else 1
  let h := sl.halt.getD ⟨0, 0⟩
  w64 (state * 2 ^ 62 + (if sl.wait.isSome then 2 ^ 61 else 0) + h.why.toNat * 2 ^ 56 + h.idx.toNat * 2 ^ 52 + sl.tseq.toNat * 2 ^ 16)
/-- The loop stack by entry number, the first pushed lowest. -/
def Slot.loopAt (sl : Slot) (j : Nat) : Option LoopEntry := sl.thread.loops.reverse[j]?
def loopWord (e : Option LoopEntry) : Word :=
  match e with
  | some e => w64 (e.rem.toNat + e.ri.val * 2 ^ 32 + 2 ^ 63)
  | none => 0
/-- The two words of every loop-stack entry: as a debugger has written them in this halt, or as the stack stands. -/
def Slot.loopWords (sl : Slot) : Vector (Word × Word) 4 :=
  sl.loopRaw.getD (Vector.ofFn fun j => (loopWord (sl.loopAt j.val), match sl.loopAt j.val with | some e => e.step | none => 0))
/-- What an A-slot result shows: the register's number and its value. -/
def AWrite.shown : AWrite → Option (Nat × Word)
  | .none => Option.none
  | .g d x => some (d.val, x)
  | .p d x => some (d.val, w64 x.toNat)
  | .v d x => some (d.val, x.setWidth 64)
  | .m d x => some (d.val, x)
/-- Eight bytes of a dictionary bank's window. The four ignored bytes of an entry (R69) are not held, and read as 0 here (log 117). -/
def Bank.window (b : Bank) (o : Nat) : Word :=
  match tget b.entries (o / 16) with
  | some e => if o % 16 = 0 then e.template else zext64 e.desc
  | none => 0
/-- Eight bytes of a thread window, by offset. -/
def State.threadRead (s : State) (c : Nat) (t : Fin 4) (k o : Nat) : Word :=
  let sl := s.slotAt c t
  let th := sl.thread
  if o = 0x0000 then sl.dstat
  else if o = 0x0008 then sl.newPc.getD sl.nextPc
  else if 0x0100 ≤ o && o < 0x0180 then th.g.get (Fin.ofNat 16 ((o - 0x0100) / 8))
  else if o = 0x0180 then w64 ((th.p.get 0).toNat + 2 * (th.p.get 1).toNat + 4 * (th.p.get 2).toNat + 8 * (th.p.get 3).toNat)
  else if o = 0x0188 then th.dla
  else if o = 0x0190 then th.dlb
  else if o = 0x0198 then th.ws
  else if o = 0x01A0 then w64 (th.rmode.toNat + th.fflags.toNat * 2 ^ 4 + th.priv.toNat * 2 ^ 12 + th.lid.toNat * 2 ^ 32)
  else if o = 0x01A8 then th.tstamp
  else if o = 0x01B0 then zext64 th.remain
  else if o = 0x01B8 then th.waitcap
  else if 0x0200 ≤ o && o < 0x0240 then
    let e := sl.loopWords.get (Fin.ofNat 4 ((o - 0x0200) / 16))
    if o % 16 = 0 then e.1 else e.2
  else if o = 0x0280 then (match (sl.pendA.bind fun r => r.write.shown) with | some (d, _) => w64 (2 ^ 63 + d) | none => 0)
  else if o = 0x0288 then (match (sl.pendA.bind fun r => r.write.shown) with | some (_, x) => x | none => 0)
  else if 0x0400 ≤ o && o < 0x0800 then
    w64 (bitsOf (sl.v.get (Fin.ofNat 16 ((o - 0x0400) / 64))).toNat (o % 64 * 8) 64)
  else if 0x0800 ≤ o && o < 0x0840 then sl.m.get (Fin.ofNat 8 ((o - 0x0800) / 8))
  else if o = 0x1000 then w64 (sl.dict.bank0.handle.toNat + sl.dict.bank1.handle.toNat * 2 ^ 32)
  else if o = 0x1008 then w64 sl.dict.active.toNat
  else if 0x2000 ≤ o && o < 0x3000 then sl.dict.bank0.window (o - 0x2000)
  else if 0x3000 ≤ o && o < 0x4000 then sl.dict.bank1.window (o - 0x3000)
  else if 0x4000 ≤ o && o < 0x5000 then
    let w := s.syncWords c ((o - 0x4000) / 16)
    if o % 16 = 0 then w.1 else w.2
  else if o = 0x5000 then (s.cfsum (clusterOf c) k).setWidth 64
  else 0
/-- The entry that a pair of loop-stack words holds; none where it is not valid. -/
def loopEntryOf (w : Word × Word) : Option LoopEntry :=
  if w.1.getLsbD 63 then some ⟨w.1.setWidth 32, w.2, Fin.ofNat 16 (bitsOf w.1.toNat 32 4)⟩ else none
/-- A word of a loop-stack entry written. Both words of an entry are stored whether it is valid or not; the valid ones, in the order of their
numbers, are the stack with which the thread goes on (log 103). -/
def Slot.setLoop (sl : Slot) (j : Fin 4) (high : Bool) (v : Word) : Slot :=
  let old := sl.loopWords
  let ws := old.set j (if high then ((old.get j).1, v) else (v &&& 0x8000000FFFFFFFFF#64, (old.get j).2))
  { sl with loopRaw := some ws, thread := { sl.thread with loops := (ws.toList.filterMap loopEntryOf).reverse } }
/-- A slot whose pc a debugger writes: at once, what its replayed unit had sent then standing by itself; or, while a wait that it has begun goes
on, at the wait's end. -/
def State.putPc (s : State) (c : Nat) (t : Fin 4) (v : Word) : State :=
  if (s.slotAt c t).wait.isSome then s.setSlot c t { s.slotAt c t with newPc := some v }
  else
    let s := s.giveUpRequest c t false true
    let sl := s.slotAt c t
    s.setSlot c t { sl with thread := { sl.thread with pc := v }, branchFrom := none, misTarget := none }
/-- A dictionary entry's half written. -/
def Bank.put (b : Bank) (o : Nat) (v : Word) : Bank :=
  let e := (tget b.entries (o / 16)).getD ⟨0, 0⟩
  { b with entries := tset b.entries (o / 16) (if o % 16 = 0 then { e with template := v } else { e with desc := v.setWidth 32 }) }
/-- A vector register with one of its words replaced. -/
def vput (x : VWord) (i : Nat) (v : Word) : VWord :=
  BitVec.ofNat 512 (x.toNat - bitsOf x.toNat (64 * i) 64 * 2 ^ (64 * i) + v.toNat * 2 ^ (64 * i))
/-- A halted slot with a word of its window written; what is ignored leaves it as it was. -/
def State.threadPut (s : State) (c : Nat) (t : Fin 4) (k o : Nat) (v : Word) : State :=
  let sl := s.slotAt c t
  let th := sl.thread
  let put (th : Thread) : State := s.setSlot c t { sl with thread := th }
  if o = 0x0008 then s.putPc c t (v &&& ~~~7#64)
  else if 0x0100 ≤ o && o < 0x0180 then put (th.setG (Fin.ofNat 16 ((o - 0x0100) / 8)) v)
  else if o = 0x0180 then put { th with p := #v[v.getLsbD 0, v.getLsbD 1, v.getLsbD 2, v.getLsbD 3] }
  else if o = 0x0188 then put { th with dla := v }
  else if o = 0x0190 then put { th with dlb := v }
  else if o = 0x0198 then put { th with ws := v &&& 0xFFFFFFFF000000FF#64 }
  else if o = 0x01A0 then put { th with rmode := v.setWidth 2, fflags := BitVec.ofNat 5 (bitsOf v.toNat 4 5) }
  else if o = 0x01B0 then put { th with remain := if v.setWidth 32 < th.remain then v.setWidth 32 else th.remain }
  else if o = 0x01B8 then put { th with waitcap := (s.asSlot c t fun s => s.setTh { s.th with waitcap := s.capLimit v }).slotAt c t |>.thread.waitcap }
  else if 0x0200 ≤ o && o < 0x0240 then
    s.setSlot c t (sl.setLoop (Fin.ofNat 4 ((o - 0x0200) / 16)) (o % 16 != 0) v)
  else if 0x0400 ≤ o && o < 0x0800 then
    let r : Fin 16 := Fin.ofNat 16 ((o - 0x0400) / 64)
    s.setSlot c t (sl.setV r (vput (sl.v.get r) (o % 64 / 8) v))
  else if 0x0800 ≤ o && o < 0x0840 then s.setSlot c t (sl.setM (Fin.ofNat 8 ((o - 0x0800) / 8)) v)
  else if 0x2000 ≤ o && o < 0x3000 then s.setSlot c t { sl with dict := { sl.dict with bank0 := sl.dict.bank0.put (o - 0x2000) v } }
  else if 0x3000 ≤ o && o < 0x4000 then s.setSlot c t { sl with dict := { sl.dict with bank1 := sl.dict.bank1.put (o - 0x3000) v } }
  else if o = 0x5000 then s.clearSum (clusterOf c) k v
  else s
/-- Eight bytes of a context debug page. -/
def DebugPage.read (p : DebugPage) (o : Nat) : Word :=
  if o < 0x40 then p.bp.get (Fin.ofNat 8 (o / 8))
  else if o < 0x60 then p.wpaddr.get (Fin.ofNat 4 ((o - 0x40) / 8))
  else if o < 0x80 then p.wpctl.get (Fin.ofNat 4 ((o - 0x60) / 8))
  else 0
/-- WPCTL as it is stored: SIZE from 3 to 12. -/
def wpctlOf (v : Word) : Word := w64 (bitsOf v.toNat 0 4 + min 12 (max 3 (bitsOf v.toNat 4 4)) * 16)
/-- A word of a context debug page written, its reserved bits left 0. -/
def DebugPage.put (p : DebugPage) (o : Nat) (v : Word) : DebugPage :=
  if o < 0x40 then { p with bp := p.bp.set (o / 8 % 8) (v &&& 0x00FFFFFFFFFFFFF9#64) (Nat.mod_lt _ (by decide)) }
  else if o < 0x60 then { p with wpaddr := p.wpaddr.set ((o - 0x40) / 8 % 4) (v &&& 0x00FFFFFFFFFFFFFF#64) (Nat.mod_lt _ (by decide)) }
  else if o < 0x80 then { p with wpctl := p.wpctl.set ((o - 0x60) / 8 % 4) (wpctlOf v) (Nat.mod_lt _ (by decide)) }
  else p
/-- What a debug address names: a context's page, a slot's window, or nothing. -/
inductive DebugAt where
  | page (k o : Nat)
  | window (n : Nat) (t : Fin 4) (o : Nat)
  deriving DecidableEq, Repr
def debugAt (pa : Nat) : Option DebugAt :=
  if pa % 8 != 0 then none
  else if 0xF800002000000 ≤ pa && pa < 0xF800002010000 then
    some (.page ((pa - 0xF800002000000) / 4096) (pa % 4096))
  else if 0xF800080000000 ≤ pa && pa < 0xF800100000000 then
    let i := (pa - 0xF800080000000) / 65536
    some (.window (i / 4) (Fin.ofNat 4 i) (pa % 65536))
  else none
/-- `DBGRD`. -/
def execDbgRd (pa : Nat) (s : State) : Step :=
  .next (s.whenReady fun s => match debugAt pa with
    | none => s.answer 8 []
    | some (.page k o) => match (s.ctx? k).bind fun x => x.debug with
      | some p => s.answer 0 (leBytes 8 (p.read o).toNat)
      | none => s.answer 10 []
    | some (.window n t o) => match s.debugCore n with
      | some (c, k) => s.answer 0 (leBytes 8 (s.threadRead c t k o).toNat)
      | none => s.answer 10 [])
/-- `DBGWR`: a window of a thread that is not halted is not written. -/
def execDbgWr (pa : Nat) (v : Word) (s : State) : Step :=
  .next (s.whenReady fun s => match debugAt pa with
    | none => s.answer 8 []
    | some (.page k o) => match s.ctx? k with
      | some x => (match x.debug with
        | some p => (s.setCtx k { x with debug := some (p.put o v) }).answer 0 []
        | none => s.answer 10 [])
      | none => s.answer 10 []
    | some (.window n t o) => match s.debugCore n with
      | some (c, k) =>
        if (s.slotAt c t).task.isNone || (s.slotAt c t).halt.isNone then s.answer 11 [] else (s.threadPut c t k o v).answer 0 []
      | none => s.answer 10 [])

end Sys2Proof.Machine
end

