-- ==== Sys2Proof/Machine/Issue.lean ====
section
/-! DEFINITION. One turn of the machine: which slot issues (R250), the fetch of its unit (R51, R57, R283, R307, R366), the forwarding of a leader's
units (R44, R265), the further attempts of waiting units, what is settled after every step, how time passes, and which turns may come next
(R191). -/

namespace Sys2Proof.Machine

/-! ## Which slots may issue (R44, R250, R265, R367) -/

/-- Whether a member of a group stops the rest of it: by a debug halt or step, or, where it is attached or leads, by a park. -/
def Slot.stops (sl : Slot) : Bool :=
  sl.halt.isSome || sl.stepping || (sl.park.isSome && match sl.group with | some (.follower _ _ _ at_) => at_ | _ => true)
/-- The group that a slot belongs to: its leader and its members. -/
def State.groupOf (s : State) (c : Nat) (t : Fin 4) : List (Nat × Fin 4) :=
  match (s.slotAt c t).group with
  | some (.leader ms _ _) => ms
  | some (.follower lc lt _ _) => match (s.slotAt lc lt).group with
    | some (.leader ms _ _) => ms
    | _ => []
  | none => []
/-- Whether a slot is held by a stopped member of its group; one that is stepped is not. -/
def State.held (s : State) (c : Nat) (t : Fin 4) : Bool :=
  !(s.slotAt c t).stepping && (s.groupOf c t).any fun m => m != (c, t) && (s.slotAt m.1 m.2).stops
/-- The attached followers of a leader. -/
def State.attachedOf (s : State) (c : Nat) (t : Fin 4) : List (Nat × Fin 4) :=
  match (s.slotAt c t).group with
  | some (.leader ms _ _) => ms.filter fun m => match (s.slotAt m.1 m.2).group with
    | some (.follower _ _ _ at_) => at_
    | _ => false
  | _ => []
/-- Whether a slot's group lets it issue: an attached follower runs what has been forwarded to it; a leader does not issue while a
follower's queue is full; what would fetch is held with its group. -/
def State.groupReady (s : State) (c : Nat) (t : Fin 4) : Bool :=
  match (s.slotAt c t).group with
  | none => true
  | some (.leader ..) => !s.held c t && (s.attachedOf c t).all fun m => decide ((s.slotAt m.1 m.2).fwd.length < 4)
  | some (.follower _ _ _ true) => match (s.slotAt c t).fwd with
    | f :: _ => !f.done
    | [] => false
  | some (.follower _ _ _ false) => !s.held c t
/-- A slot whose next unit may issue once it is fetched (R250); one asked to park does not until its matrix work is drained (R184, log 79). -/
def State.ready? (s : State) (c : Nat) (t : Fin 4) : Bool :=
  let sl := s.slotAt c t
  sl.task.isSome && sl.wait.isNone && sl.park.isNone && sl.halt.isNone && (!sl.parkAsked || s.drained c t)
    && s.groupReady c t
/-- PRIO of a slot: its task's; supervisor tasks have 3. -/
def Slot.prio (sl : Slot) : BitVec 2 :=
  match sl.task with
  | some k => (match k.kind with | .supervisor .. => 3 | _ => k.prio)
  | none => 0
/-- The first slot of a list that no other precedes. -/
def leastSlot (before : Fin 4 → Fin 4 → Bool) : List (Fin 4) → Option (Fin 4)
  | [] => none
  | a :: r => match leastSlot before r with
    | none => some a
    | some b => if before a b then some a else some b
/-- How far a slot comes after the one of its PRIO that issued last. -/
def turnsAfter (last t : Fin 4) : Nat := (t.val + 3 - last.val) % 4
/-- The slot that issues among ready ones (R250): one passed over four times, or the next of the highest PRIO. -/
def State.chooseSlot (s : State) (c : Nat) (ready : List (Fin 4)) : Option (Fin 4) :=
  let prio (t : Fin 4) : BitVec 2 := (s.slotAt c t).prio
  match ready.filter fun t => (s.slotAt c t).hp == 4 with
  | [] =>
    let last (t : Fin 4) : Fin 4 := (s.coreAt c).lastIssued.get (Fin.ofNat 4 (prio t).toNat)
    leastSlot (fun a b => decide (prio b < prio a) || (prio a == prio b && decide (turnsAfter (last a) a ≤ turnsAfter (last b) b))) ready
  | forced => leastSlot (fun a b => decide (prio a < prio b) || (prio a == prio b && decide (a ≤ b))) forced
/-- HP and the round-robin order after slot t of core c issues beside the other ready ones of `s₀`, whose step gives `s`. -/
def State.noteIssue (s₀ : State) (c : Nat) (t : Fin 4) (ready : List (Fin 4)) (s : State) : State :=
  let p := (s₀.slotAt c t).prio
  let s := ready.foldl (fun (s : State) u =>
    let sl := s.slotAt c u
    if u = t then s.setSlot c u { sl with hp := 0 }
    else if (s₀.slotAt c u).prio < p then s.setSlot c u { sl with hp := sl.hp + 1 }
    else s) s
  let x := s.coreAt c
  s.setCore c { x with lastIssued := x.lastIssued.set p.toNat t p.isLt }

/-! ## Fetch (R51, R57, R283, R307, R366) -/

/-- The enabled breakpoint that matches the current slot's next unit. -/
def State.breakHit (s : State) : Option (Fin 8) :=
  match (s.ctx? s.curCtx).bind fun x => x.debug with
  | none => none
  | some p => ([0, 1, 2, 3, 4, 5, 6, 7] : List (Fin 8)).find? fun i =>
      let b := p.bp.get i
      b.getLsbD 0 && bitsOf b.toNat 3 53 == bitsOf s.th.pc.toNat 3 53 && bitsOf s.th.pc.toNat 56 8 == 0
        && s.sl.skip != some ⟨2, BitVec.ofNat 4 i.val⟩
/-- The two words of the unit at a physical address. -/
def State.unitWords (s : State) (pa : Nat) : Nat × Nat := (leNat (mbytes s.mem pa 4), leNat (mbytes s.mem (pa + 4) 4))
/-- A leader's unit told to an attached follower, in a step command or not (R265, R368). One that holds the unit already, which the leader begins
again, is not told again; nor is one that a `rejoin` at this address has attached again, which stands at the next unit already (R266). -/
def Slot.toldUnit (sl : Slot) (w0 w1 : Nat) (pc : Word) (stepping : Bool) : Slot :=
  if sl.fwd.any fun f => f.next.isNone then
    { sl with fwd := sl.fwd.map fun f => if f.next.isNone then { f with stepped := f.stepped || stepping } else f }
  else if sl.fwd.isEmpty && sl.thread.pc != pc then sl
  else { sl with fwd := sl.fwd ++ [⟨BitVec.ofNat 32 w0, BitVec.ofNat 32 w1, pc, none, false, none, stepping⟩] }
/-- A leader's unit told to every attached follower. -/
def State.forward (s : State) (w0 w1 : Nat) : State :=
  (s.attachedOf s.curCore s.curSlot).foldl
    (fun (s : State) m => s.setSlot m.1 m.2 ((s.slotAt m.1 m.2).toldUnit w0 w1 s.th.pc s.sl.stepping)) s
/-- What a slot's turn comes to: something that stands before its unit, or the step of its unit. -/
inductive SlotTurn where
  | before (t : State)
  | unit (r : Step)
/-- The fault of a fetch that fails (R57, row 1; R307): at a taken branch's target it names the branch. -/
def State.fetchFault (s : State) (kind : Nat) : State :=
  let s := s.recall (s.walksFor s.curCtx s.th.pc)
  match s.sl.branchFrom with
  | some b => s.takeTrap 1 2 kind 0 b s.th.pc
  | none => s.takeTrap 1 2 kind 0 s.th.pc s.th.pc
/-- The unit of the current slot, fetched from its physical address, run under the meanings `run`. -/
def State.fetchRun (run : Instr → State → Step) (pa : Nat) (s : State) : Step :=
  let (w0, w1) := s.unitWords pa
  let s := (s.noteTlb s.curCtx s.th.pc).recall [pa / 64]
  let s := s.setSl { s.sl with branchFrom := none, pendA := none, stalled := false }
  (s.forward w0 w1).runUnit run w0 w1
/-- An attached follower's next forwarded unit. -/
def State.runForwarded (run : Instr → State → Step) (s : State) : Step :=
  match s.sl.fwd with
  | f :: _ => (s.setSl { s.sl with pendA := none, stalled := false }).runUnit run f.w0.toNat f.w1.toNat
  | [] => .next s
/-- The current slot's turn: what stands before its unit comes first. -/
def State.slotTurn (run : Instr → State → Step) (s : State) : SlotTurn :=
  let sl := s.sl
  if sl.parkAsked then .before (s.parkNow s.curCore s.curSlot)
  else if sl.overrun then .before (s.takeTrap 19 2 0 0 0 s.th.pc)
  else if sl.reload.isSome then .before s.reloadNow
  else match s.breakHit with
    | some i => .before (s.setSl { sl with halt := some ⟨2, BitVec.ofNat 4 i.val⟩, stepping := false, dictLag := [] })
    | none => match sl.misTarget with
      | some v => .before (s.takeTrap 2 2 0 0 (sl.branchFrom.getD 0) v)
      | none => match sl.group with
        | some (.follower _ _ _ true) => .unit (s.runForwarded run)
        | _ => match s.translate s.curCtx s.th.priv s.th.pc needX with
          | .error kind => .before (s.fetchFault kind)
          | .ok (_, pa) => .unit (s.fetchRun run pa)
/-- What stands before a unit, taken by itself; none for a unit. -/
def SlotTurn.early : SlotTurn → Option State
  | .before t => some t
  | .unit _ => none
/-- The step of a unit that slot t of core c may issue; none where the unit stalls, which then has no effect (R250, log 79). -/
def SlotTurn.step (c : Nat) (t : Fin 4) : SlotTurn → Option Step
  | .unit (.next u) => if (u.slotAt c t).stalled then none else some (.next u)
  | .unit r => some r
  | .before _ => none
/-- The machine with a slot as the one that issues. -/
def State.asCur (s : State) (c : Nat) (t : Fin 4) (late : Bool) : State := { s with curCore := c, curSlot := t, late := late }
/-- One issue cycle of a core, of whose slots those in `fetched` have their next units: what stands before a slot's unit is dealt with first, and is
no issue; else one of the ready slots issues its unit (R250). -/
def State.issue (run : Instr → State → Step) (c : Nat) (fetched : BitVec 4) (late : Bool) (s : State) : Step :=
  if 8192 ≤ c then .next s
  else
    let turns := (fourSlots.filter fun t => fetched.getLsbD t.val && s.ready? c t && !s.slotAnnulled c t).map fun t =>
      (t, (s.asCur c t late).slotTurn run)
    match turns.findSome? fun e => e.2.early with
    | some u => .next u
    | none =>
      let steps : List (Fin 4 × Step) := turns.filterMap fun e => (e.2.step c e.1).map fun r => (e.1, r)
      let ready := steps.map fun e => e.1
      match (s.chooseSlot c ready).bind fun t => steps.find? fun e => e.1 == t with
      | some (t, .next u) => .next (s.noteIssue c t ready u)
      | some (_, r) => r
      | none => .next s
/-- A further attempt of a slot's waiting unit. -/
def State.attempt (run : Instr → State → Step) (c : Nat) (t : Fin 4) (late : Bool) (s : State) : Step :=
  match (s.slotAt c t).wait with
  | some w => if s.slotAnnulled c t || (s.slotAt c t).overrun then .next s else run w.instr (s.asCur c t late)
  | none => .next s
/-- A turn of the agenda. -/
def State.turn (run : Instr → State → Step) (k : Turn) (s : State) : Step :=
  match k with
  | .hw i => run i s
  | .issue c fetched late => s.issue run c fetched late
  | .attempt c t late => s.attempt run c t late

/-! ## After every step -/

/-- Since when each message and completion of a core has been an eligible candidate (R248, R358): none while it is none. -/
def State.sinceOf (s : State) (x : Core) (e : Nat × InSlot) : Option Word :=
  match x.ctx, e.2.entry with
  | some ctx, .message .. => if (s.entryCand x ctx e).isSome then some (e.2.since.getD s.instant) else none
  | some ctx, .completion _ => if (s.entryCand x ctx e).isSome then some (e.2.since.getD s.instant) else none
  | _, _ => none
/-- Every core's candidates noted. -/
def State.noteSince (s : State) : State :=
  { s with cores := s.cores.map fun (c : Nat × Core) =>
      (c.1, { c.2 with inbox := c.2.inbox.map fun (e : Nat × InSlot) => (e.1, { e.2 with since := s.sinceOf c.2 e }) }) }
/-- What follows from a step at once: annulled tasks whose withdrawals are answered, cleared messages for which there is room, commit-ready marks, annul notices that nothing stands before, acknowledged resets, notices of absence tokens,
resets and residency changes that move on, commands whose lineage has gone, and new candidates. -/
def State.tidy (s : State) : State :=
  { s.settleSyncs.forwardCleared.noteReady.sendAnnuls.resetAcks.settleTokens.settleResets.settleSwitches.loseSubmits.noteSince with late := false }
/-- Whether a slot's watchdog runs (R44, R252, R264, R367). -/
def State.watchdog (s : State) (c : Nat) (t : Fin 4) : Bool :=
  let sl := s.slotAt c t
  sl.task.isSome && sl.park.isNone && sl.halt.isNone
    && match sl.group with
      | none => true
      | some (.leader ..) => !s.held c t
      | some (.follower ..) => false
/-- The die whose interval has ended and whose end step is to be taken, before anything else (R350). -/
def State.endDue (s : State) : Option Nat :=
  if s.fw.boot == .ready then ([0, 1, 2, 3] : List Nat).find? fun d => decide ((s.dieAt d).intervalEnd ≤ s.instant.toNat) else none
/-- INSTANT after the passing of time: it never runs backwards, and past the end of no die's interval before the end step (R241, R350). -/
def State.nextInstant (s : State) : Word :=
  let then_ := satAdd s.instant (w64 (Config.elapsed s.tick))
  if s.fw.boot == .ready then
    w64 (max s.instant.toNat (([0, 1, 2, 3] : List Nat).foldl (fun t d => min t (s.dieAt d).intervalEnd) then_.toNat))
  else then_
/-- The cycles of its holder's course clock that a lease counts, in thousandths: nanoseconds times MHz (R46). -/
def State.spendLeases (s : State) (ns : Nat) : State :=
  { s with clusters := s.clusters.map fun (e : Nat × Cluster) =>
      (e.1, { e.2 with harp := { e.2.harp with lease := e.2.harp.lease.map fun l => { l with spent := l.spent + ns * s.courseClock l.core } } }) }
/-- Time passes (R46, R241, R252): each running watchdog counts its core's cycles, and each lease its holder's. -/
def State.passTime (s : State) : State :=
  let now := s.nextInstant
  let s := s.spendLeases (now.toNat - s.instant.toNat)
  let slots := s.cores.flatMap fun e => if e.1 < 8192 then (fourSlots.filter fun t => s.watchdog e.1 t).map fun t => (e.1, t) else []
  let s := slots.foldl (fun (s : State) e => s.spend e.1 e.2 (Config.cycles s.tick e.1)) s
  { s with instant := now, tick := s.tick + 1 }

/-! ## The steps that may come next (R191) -/

/-- A step that may come next. -/
abbrev Choice := State → Step
/-- The steps of one core's slots and engines. -/
def State.coreChoices (run : Instr → State → Step) (s : State) (c : Nat) : List Choice :=
  let slots := fourSlots.flatMap fun t =>
    let sl := s.slotAt c t
    (if sl.task.isNone && c < 8192 then [execTaskStart c t, execSteal c t (nextVictim c sl.scan)] else [])
      ++ (if sl.park.isSome || (s.slotHarp c t).isSome then [execParkTimeExpiry (s.threadItem c t), execReplayTimer (s.threadItem c t)] else [])
      ++ (if sl.wait.isSome then [State.attempt run c t false, execDeadlineStep c t, execCommit c t, execStepReply c t] else [])
      ++ (if sl.remote.isSome || !sl.orphans.isEmpty then [execBarrierStep c t, execNodeStep c t] else [])
      ++ (if sl.overrun then [execBudgetOverrun c t] else [])
      ++ ((List.range (s.pathOf c t).length).flatMap fun i =>
        [execApply c t i, execShip c t i, execAtomic c t i, execDirectSend c t i])
      ++ (List.range (s.trackerOf c t).length).map fun i => execConfirm c t i
  let chans := ([0, 1, 2, 3, 4, 5, 6, 7] : List (Fin 8)).flatMap fun ch =>
    match s.headCopy c ch with
    | some x => [execCopyDeliver c ch 64, execCopyComplete c ch, execCopyFault c ch, execParkTimeExpiry (s.copyItem c ch x.cseq),
        execReplayTimer (s.copyItem c ch x.cseq)]
    | none => []
  [State.issue run c 15 false] ++ slots ++ chans
    ++ (if (s.coreAt c).cmu.isEmpty then [] else [execCmuComplete c false])
    ++ (if (s.coreAt c).pending.isEmpty then [] else [execEngineCompletion c])
    ++ [execStepdownExpiry c]
/-- The steps of a cluster, and of a die. -/
def clusterChoices (k : Nat) : List Choice :=
  [execHstreamRow k false, execHarpSwap k, execHarpComplete k, execHarpGrant k, execLeaseLimit k, execHarpStepdownExpiry k]
def dieChoices (d : Nat) (x : Die) : List Choice :=
  [execBoostGrant d, execNodePlace d] ++ (x.monitors.map fun u => execMonitorEpoch d u.1)
    ++ x.queues.flatMap fun q =>
      [execQueueScan d q.1, execNoOp d q.1, execSubmit d q.1, execSubmitRecord d q.1, execAnnul d q.1, execQueueReset d q.1,
       execEventWrite d q.1] ++ q.2.resetPeers.map fun p => execResetTimeout d q.1 p
/-- The steps among which an empty agenda leaves the choice to Config (log 4): the machine's own. Commands, packets, errors and other events
from outside come by the agenda alone. -/
def State.choices (run : Instr → State → Step) (s : State) : List Choice :=
  match s.fw.boot with
  | .booting => [execDeviceReset [] []]
  | .stopped _ => []
  | .timing => [execPtpFirstTimeout]
  | .ready =>
    (s.cores.flatMap fun e => s.coreChoices run e.1)
      ++ (s.clusters.flatMap fun e => clusterChoices e.1)
      ++ (s.dies.flatMap fun e => dieChoices e.1 e.2)
      ++ (s.courses.map fun e => execClockRise e.1)
      ++ (s.contexts.flatMap fun e => [execKernelDone e.1, execInvalidationDone e.1])
      ++ ((s.lineages.filter fun e => s.annulled (e.1 / 1048576) (BitVec.ofNat 20 (e.1 % 1048576))).map fun e =>
        execLineageExpiry (e.1 / 1048576) (BitVec.ofNat 20 (e.1 % 1048576)))
      ++ ((List.range s.heldMsgs.length).flatMap fun i => [execPortRelease i, execHeldExpiry i])
      ++ ((List.range s.transit.length).map fun i => execMigrationArrive i)
      ++ (List.range s.colls.length).map fun i => execCollectiveRun i
/-- The step to come, and the machine with the agenda that is left; none where nothing may come. An interval's end step comes before any other, at
the instant that ends the interval (R350). -/
def State.nextChoice (run : Instr → State → Step) (s : State) : Option (Choice × State) :=
  match s.endDue with
  | some d => some (execIntervalEnd d, s)
  | none => match s.agenda with
    | k :: r => some (State.turn run k, { s with agenda := r })
    | [] =>
      let all := s.choices run
      (all[Config.pick s.tick % all.length]?).map fun k => (k, s)
/-- One step under the meanings `run`: the next turn, what follows from it at once, and the passing of time. -/
def State.advance (run : Instr → State → Step) (s : State) : Step :=
  match s.nextChoice run with
  | none => .next s.passTime
  | some (k, s) => match k s with
    | .next t => .next t.tidy.passTime
    | o => o

/-! ## A unit placed for a thread of a fresh machine (log 50) -/

/-- Three translation entries and a unit: the tables at 0x1000, 0x2000 and 0x3000 map the first GiB onto itself. -/
def placedBytes (u : Nat × Nat) : List (Nat × List Byte) :=
  [(0x1000, leBytes 8 0x2001), (0x2000, leBytes 8 0x3001), (0x3000, leBytes 8 0x1F), (0x8000, leBytes 4 u.1 ++ leBytes 4 u.2)]
/-- A descriptor with PTROOT 0x1000, and WAITDEF and WAITMAX of 1 ms. -/
def placedDesc : Vector Word 14 := #v[0x1000, 0, 0, 0, 0, 0, 0, 0, 1000000, 1000000, 0, 0, 0, 0]
/-- The task of the placed thread: irrevocable, at supervisor level, under LID 0 of context 0. -/
def placedTask : Task :=
  { id := 0, ctx := 0, record := mkRec 0 0 0 0 0 0 0xD 0 0 0 0, kind := .supervisor false none, khandle := 0, base := 0x8000
    prio := 3, retries := 0, spec := false, firstDone := false, started := 0, ran := 0, image := none }
def placedThread : Thread :=
  { Thread.reset with pc := 0x8000, dla := BitVec.allOnes 64, dlb := BitVec.allOnes 64, waitcap := 1000000, priv := 1 }
/-- The machine READY, with context 0 resident on core 0, whose slot 0 is about to issue the unit. -/
def State.placeUnit (s : State) (u : Nat × Nat) : State :=
  let x := s.coreAt 0
  let core := { x.setSlot 0 { Slot.reset with thread := placedThread, task := some placedTask, dictCtx := some 0 } with ctx := some 0 }
  { s with
    fw := { s.fw with boot := .ready, l2p := tset s.fw.l2p 0 (l2pEntry true 0) }
    mem := (placedBytes u).foldl (fun m e => mputs m e.1 e.2) s.mem
    frames := tset s.frames 0 0x1000000, contexts := tset s.contexts 0 (Context.fresh placedDesc)
    lineages := tset s.lineages (linKey 0 0) { Lineage.root with live := 1 }, cores := tset s.cores 0 core
    agenda := [.issue 0 1 false] }

end Sys2Proof.Machine
end

