-- ==== Sys2Proof/Machine/Dispatch.lean ====
section
/-! DEFINITION. The one dispatch from instructions, steps and commands to their meanings. -/

namespace Sys2Proof.Machine

def exec (i : Instr) (s : State) : Host.Outcome State Fault Refusal :=
  match i with
  -- C-slot instructions
  | .nopC => Sys2Proof.Machine.execNopC s
  | .b d => Sys2Proof.Machine.execB d s
  | .bc p d => Sys2Proof.Machine.execBc p d s
  | .bnc p d => Sys2Proof.Machine.execBnc p d s
  | .bok d => Sys2Proof.Machine.execBok d s
  | .bfail d => Sys2Proof.Machine.execBfail d s
  | .call d => Sys2Proof.Machine.execCall d s
  | .callReg a => Sys2Proof.Machine.execCallReg a s
  | .j a => Sys2Proof.Machine.execJ a s
  | .ret => Sys2Proof.Machine.execRet s
  | .loop ri rb nb disp dist => Sys2Proof.Machine.execLoop ri rb nb disp dist s
  | .lend d => Sys2Proof.Machine.execLend d s
  | .lendPop => Sys2Proof.Machine.execLendPop s
  | .cmp d a b cc ty => Sys2Proof.Machine.execCmp d a b cc ty s
  | .sel d a b q => Sys2Proof.Machine.execSel d a b q s
  | .pset d a => Sys2Proof.Machine.execPset d a s
  | .psetAnd d a b => Sys2Proof.Machine.execPsetAnd d a b s
  | .psetOr d a b => Sys2Proof.Machine.execPsetOr d a b s
  | .psetXor d a b => Sys2Proof.Machine.execPsetXor d a b s
  | .psetNot d a => Sys2Proof.Machine.execPsetNot d a s
  | .ldi d lit => Sys2Proof.Machine.execLdi d lit s
  | .ldiHi d lit => Sys2Proof.Machine.execLdiHi d lit s
  | .addiC d a imm => Sys2Proof.Machine.execAddiC d a imm s
  | .moviC d imm => Sys2Proof.Machine.execMoviC d imm s
  | .getc d n => Sys2Proof.Machine.execGetc d n s
  | .setc a n => Sys2Proof.Machine.execSetc a n s
  | .trap a n => Sys2Proof.Machine.execTrap a n s
  | .brk imm => Sys2Proof.Machine.execBrk imm s
  | .udf => Sys2Proof.Machine.execUdf s
  | .ldB t m => Sys2Proof.Machine.execLdB t m s
  | .ldH t m => Sys2Proof.Machine.execLdH t m s
  | .ldW t m => Sys2Proof.Machine.execLdW t m s
  | .ldD t m => Sys2Proof.Machine.execLdD t m s
  | .ldZb t m => Sys2Proof.Machine.execLdZb t m s
  | .ldZh t m => Sys2Proof.Machine.execLdZh t m s
  | .ldZw t m => Sys2Proof.Machine.execLdZw t m s
  | .stB t m => Sys2Proof.Machine.execStB t m s
  | .stH t m => Sys2Proof.Machine.execStH t m s
  | .stW t m => Sys2Proof.Machine.execStW t m s
  | .stD t m => Sys2Proof.Machine.execStD t m s
  | .vld t m => Sys2Proof.Machine.execVld t m s
  | .vst t m => Sys2Proof.Machine.execVst t m s
  | .vldx d a b bu ty q => Sys2Proof.Machine.execVldx d a b bu ty q s
  | .vstx d a b bu ty q => Sys2Proof.Machine.execVstx d a b bu ty q s
  | .ldgB t m => Sys2Proof.Machine.execLdgB t m s
  | .ldgH t m => Sys2Proof.Machine.execLdgH t m s
  | .ldgW t m => Sys2Proof.Machine.execLdgW t m s
  | .ldgD t m => Sys2Proof.Machine.execLdgD t m s
  | .ldgZb t m => Sys2Proof.Machine.execLdgZb t m s
  | .ldgZh t m => Sys2Proof.Machine.execLdgZh t m s
  | .ldgZw t m => Sys2Proof.Machine.execLdgZw t m s
  | .stgB t m => Sys2Proof.Machine.execStgB t m s
  | .stgH t m => Sys2Proof.Machine.execStgH t m s
  | .stgW t m => Sys2Proof.Machine.execStgW t m s
  | .stgD t m => Sys2Proof.Machine.execStgD t m s
  | .amoAdd d a b ty sc ds => Sys2Proof.Machine.execAmoAdd d a b ty sc ds s
  | .amoMin d a b ty sc ds => Sys2Proof.Machine.execAmoMin d a b ty sc ds s
  | .amoMax d a b ty sc ds => Sys2Proof.Machine.execAmoMax d a b ty sc ds s
  | .amoAnd d a b ty sc ds => Sys2Proof.Machine.execAmoAnd d a b ty sc ds s
  | .amoOr d a b ty sc ds => Sys2Proof.Machine.execAmoOr d a b ty sc ds s
  | .amoXor d a b ty sc ds => Sys2Proof.Machine.execAmoXor d a b ty sc ds s
  | .amoSwap d a b ty sc ds => Sys2Proof.Machine.execAmoSwap d a b ty sc ds s
  | .amoCas d a b ty sc ds => Sys2Proof.Machine.execAmoCas d a b ty sc ds s
  | .fence d sc ds => Sys2Proof.Machine.execFence d sc ds s
  | .cp f => Sys2Proof.Machine.execCp f s
  | .cpDeal f => Sys2Proof.Machine.execCpDeal f s
  | .cpGath f => Sys2Proof.Machine.execCpGath f s
  | .cpRot f => Sys2Proof.Machine.execCpRot f s
  | .collRed f op ty => Sys2Proof.Machine.execCollRed f op ty s
  | .collGath f => Sys2Proof.Machine.execCollGath f s
  | .barInit t o count attach => Sys2Proof.Machine.execBarInit t o count attach s
  | .barExpect t o bytes => Sys2Proof.Machine.execBarExpect t o bytes s
  | .barArrive t o => Sys2Proof.Machine.execBarArrive t o s
  | .barWait t o => Sys2Proof.Machine.execBarWait t o s
  | .barSync t o => Sys2Proof.Machine.execBarSync t o s
  | .barAbort o => Sys2Proof.Machine.execBarAbort o s
  | .send rc rs ds len tag => Sys2Proof.Machine.execSend rc rs ds len tag s
  | .recv d a b ds => Sys2Proof.Machine.execRecv d a b ds s
  | .poll d b => Sys2Proof.Machine.execPoll d b s
  | .deleg rc ra rr ds nte ctag => Sys2Proof.Machine.execDeleg rc ra rr ds nte ctag s
  | .delegOn ds => Sys2Proof.Machine.execDelegOn ds s
  | .delegOff => Sys2Proof.Machine.execDelegOff s
  | .home d a b ds => Sys2Proof.Machine.execHome d a b ds s
  | .fork d => Sys2Proof.Machine.execFork d s
  | .join ds => Sys2Proof.Machine.execJoin ds s
  | .done => Sys2Proof.Machine.execDone s
  | .yield ds => Sys2Proof.Machine.execYield ds s
  | .irrev ds => Sys2Proof.Machine.execIrrev ds s
  | .migrate a ds => Sys2Proof.Machine.execMigrate a ds s
  | .gang d a ds => Sys2Proof.Machine.execGang d a ds s
  | .rejoin d ds => Sys2Proof.Machine.execRejoin d ds s
  | .nodeNew d a t ds count => Sys2Proof.Machine.execNodeNew d a t ds count s
  | .nodeDec a ds => Sys2Proof.Machine.execNodeDec a ds s
  | .tagEn a => Sys2Proof.Machine.execTagEn a s
  | .tagDis a => Sys2Proof.Machine.execTagDis a s
  | .tagPend d a => Sys2Proof.Machine.execTagPend d a s
  | .tagClr d a => Sys2Proof.Machine.execTagClr d a s
  | .lnew d e rp pm cl em adopt => Sys2Proof.Machine.execLnew d e rp pm cl em adopt s
  | .lext d a b => Sys2Proof.Machine.execLext d a b s
  | .lannul a => Sys2Proof.Machine.execLannul a s
  | .mma f kt => Sys2Proof.Machine.execMma f kt s
  | .mzero a ds => Sys2Proof.Machine.execMzero a ds s
  | .mdrain f dty sat => Sys2Proof.Machine.execMdrain f dty sat s
  | .hlease ds => Sys2Proof.Machine.execHlease ds s
  | .hrelease => Sys2Proof.Machine.execHrelease s
  | .hldw f org stg => Sys2Proof.Machine.execHldw f org stg s
  | .hswap ds => Sys2Proof.Machine.execHswap ds s
  | .hstream f org m1 acc0 za => Sys2Proof.Machine.execHstream f org m1 acc0 za s
  | .hdrain f dest n1 acc0 z => Sys2Proof.Machine.execHdrain f dest n1 acc0 z s
  | .hsave f loc n1 acc0 => Sys2Proof.Machine.execHsave f loc n1 acc0 s
  | .hrestore f loc n1 acc0 => Sys2Proof.Machine.execHrestore f loc n1 acc0 s
  | .boost875 d ds => Sys2Proof.Machine.execBoost875 d ds s
  | .boost1050 d ds => Sys2Proof.Machine.execBoost1050 d ds s
  | .boostOff d => Sys2Proof.Machine.execBoostOff d s
  | .dload t m => Sys2Proof.Machine.execDload t m s
  | .dset a => Sys2Proof.Machine.execDset a s
  | .dfence => Sys2Proof.Machine.execDfence s
  | .dx idx h0 h1 h2 => Sys2Proof.Machine.execDx idx h0 h1 h2 s
  -- A-slot instructions
  | .nopA => Sys2Proof.Machine.execNopA s
  | .add d a b ty => Sys2Proof.Machine.execAdd d a b ty s
  | .sub d a b ty => Sys2Proof.Machine.execSub d a b ty s
  | .mul d a b ty => Sys2Proof.Machine.execMul d a b ty s
  | .mulh d a b ty => Sys2Proof.Machine.execMulh d a b ty s
  | .mulhz d a b ty => Sys2Proof.Machine.execMulhz d a b ty s
  | .div d a b ty => Sys2Proof.Machine.execDiv d a b ty s
  | .divz d a b ty => Sys2Proof.Machine.execDivz d a b ty s
  | .rem d a b ty => Sys2Proof.Machine.execRem d a b ty s
  | .remz d a b ty => Sys2Proof.Machine.execRemz d a b ty s
  | .and d a b ty => Sys2Proof.Machine.execAnd d a b ty s
  | .or d a b ty => Sys2Proof.Machine.execOr d a b ty s
  | .xor d a b ty => Sys2Proof.Machine.execXor d a b ty s
  | .andn d a b ty => Sys2Proof.Machine.execAndn d a b ty s
  | .shl d a b ty => Sys2Proof.Machine.execShl d a b ty s
  | .shr d a b ty => Sys2Proof.Machine.execShr d a b ty s
  | .sra d a b ty => Sys2Proof.Machine.execSra d a b ty s
  | .rotl d a b ty => Sys2Proof.Machine.execRotl d a b ty s
  | .clz d a ty => Sys2Proof.Machine.execClz d a ty s
  | .ctz d a ty => Sys2Proof.Machine.execCtz d a ty s
  | .popc d a ty => Sys2Proof.Machine.execPopc d a ty s
  | .min d a b ty => Sys2Proof.Machine.execMin d a b ty s
  | .max d a b ty => Sys2Proof.Machine.execMax d a b ty s
  | .minz d a b ty => Sys2Proof.Machine.execMinz d a b ty s
  | .maxz d a b ty => Sys2Proof.Machine.execMaxz d a b ty s
  | .bfx d a b => Sys2Proof.Machine.execBfx d a b s
  | .bfi d a b => Sys2Proof.Machine.execBfi d a b s
  | .lea d a b k => Sys2Proof.Machine.execLea d a b k s
  | .addiA d a imm => Sys2Proof.Machine.execAddiA d a imm s
  | .moviA d imm => Sys2Proof.Machine.execMoviA d imm s
  | .mulImm d a imm => Sys2Proof.Machine.execMulImm d a imm s
  | .andImm d a imm => Sys2Proof.Machine.execAndImm d a imm s
  | .orImm d a imm => Sys2Proof.Machine.execOrImm d a imm s
  | .xorImm d a imm => Sys2Proof.Machine.execXorImm d a imm s
  | .shlImm d a k => Sys2Proof.Machine.execShlImm d a k s
  | .shrImm d a k => Sys2Proof.Machine.execShrImm d a k s
  | .sraImm d a k => Sys2Proof.Machine.execSraImm d a k s
  | .rotlImm d a k => Sys2Proof.Machine.execRotlImm d a k s
  | .minImm d a imm => Sys2Proof.Machine.execMinImm d a imm s
  | .maxImm d a imm => Sys2Proof.Machine.execMaxImm d a imm s
  | .minzImm d a imm => Sys2Proof.Machine.execMinzImm d a imm s
  | .maxzImm d a imm => Sys2Proof.Machine.execMaxzImm d a imm s
  | .bfxImm d a desc => Sys2Proof.Machine.execBfxImm d a desc s
  | .bfiImm d a desc => Sys2Proof.Machine.execBfiImm d a desc s
  | .fadd d a b ty => Sys2Proof.Machine.execFadd d a b ty s
  | .fsub d a b ty => Sys2Proof.Machine.execFsub d a b ty s
  | .fmul d a b ty => Sys2Proof.Machine.execFmul d a b ty s
  | .ffma d a b c ty => Sys2Proof.Machine.execFfma d a b c ty s
  | .fmin d a b ty => Sys2Proof.Machine.execFmin d a b ty s
  | .fmax d a b ty => Sys2Proof.Machine.execFmax d a b ty s
  | .fsgn d a b ty => Sys2Proof.Machine.execFsgn d a b ty s
  | .fsgnN d a b ty => Sys2Proof.Machine.execFsgnN d a b ty s
  | .fsgnX d a b ty => Sys2Proof.Machine.execFsgnX d a b ty s
  | .fcmp d a b ty cc => Sys2Proof.Machine.execFcmp d a b ty cc s
  | .fcvt d a ty sat src => Sys2Proof.Machine.execFcvt d a ty sat src s
  | .frint d a ty md => Sys2Proof.Machine.execFrint d a ty md s
  | .fexp2f d a => Sys2Proof.Machine.execFexp2f d a s
  | .fscaleb d a b ty => Sys2Proof.Machine.execFscaleb d a b ty s
  | .fclass d a ty => Sys2Proof.Machine.execFclass d a ty s
  | .frcp d a ty => Sys2Proof.Machine.execFrcp d a ty s
  | .frsq d a ty => Sys2Proof.Machine.execFrsq d a ty s
  | .fsqrt d a ty => Sys2Proof.Machine.execFsqrt d a ty s
  | .vadd d a b k ty fn => Sys2Proof.Machine.execVadd d a b k ty fn s
  | .vsub d a b k ty fn => Sys2Proof.Machine.execVsub d a b k ty fn s
  | .vmul d a b k ty => Sys2Proof.Machine.execVmul d a b k ty s
  | .vfma d a b c k ty => Sys2Proof.Machine.execVfma d a b c k ty s
  | .vmin d a b k ty fn => Sys2Proof.Machine.execVmin d a b k ty fn s
  | .vmax d a b k ty fn => Sys2Proof.Machine.execVmax d a b k ty fn s
  | .vand d a b k ty => Sys2Proof.Machine.execVand d a b k ty s
  | .vor d a b k ty => Sys2Proof.Machine.execVor d a b k ty s
  | .vxor d a b k ty => Sys2Proof.Machine.execVxor d a b k ty s
  | .vshl d a b k ty => Sys2Proof.Machine.execVshl d a b k ty s
  | .vshr d a b k ty => Sys2Proof.Machine.execVshr d a b k ty s
  | .vsra d a b k ty => Sys2Proof.Machine.execVsra d a b k ty s
  | .vcmp d a b cc k ty => Sys2Proof.Machine.execVcmp d a b cc k ty s
  | .vsel d a b c k ty => Sys2Proof.Machine.execVsel d a b c k ty s
  | .vcvt d a src k ty fn => Sys2Proof.Machine.execVcvt d a src k ty fn s
  | .vrint d a md k ty => Sys2Proof.Machine.execVrint d a md k ty s
  | .vexp2f d a k => Sys2Proof.Machine.execVexp2f d a k s
  | .vscaleb d a b k ty => Sys2Proof.Machine.execVscaleb d a b k ty s
  | .vperm d a b c k ty fn => Sys2Proof.Machine.execVperm d a b c k ty fn s
  | .vpermi d a b pat k ty => Sys2Proof.Machine.execVpermi d a b pat k ty s
  | .vbcast d b k ty => Sys2Proof.Machine.execVbcast d b k ty s
  | .vred d a op k ty => Sys2Proof.Machine.execVred d a op k ty s
  | .vscan d a op k ty fn => Sys2Proof.Machine.execVscan d a op k ty fn s
  | .vpopc d a k ty => Sys2Proof.Machine.execVpopc d a k ty s
  | .vbin d a b k ty => Sys2Proof.Machine.execVbin d a b k ty s
  | .vext d a b ty => Sys2Proof.Machine.execVext d a b ty s
  | .vins d a b ty => Sys2Proof.Machine.execVins d a b ty s
  | .vnarrow d a b src k ty fn => Sys2Proof.Machine.execVnarrow d a b src k ty fn s
  | .vwiden d a h src k ty => Sys2Proof.Machine.execVwiden d a h src k ty s
  | .vdot4 d a b k ty => Sys2Proof.Machine.execVdot4 d a b k ty s
  | .vaddS d a b k ty fn => Sys2Proof.Machine.execVaddS d a b k ty fn s
  | .vsubS d a b k ty fn => Sys2Proof.Machine.execVsubS d a b k ty fn s
  | .vmulS d a b k ty => Sys2Proof.Machine.execVmulS d a b k ty s
  | .vfmaS d a b c k ty => Sys2Proof.Machine.execVfmaS d a b c k ty s
  | .vminS d a b k ty fn => Sys2Proof.Machine.execVminS d a b k ty fn s
  | .vmaxS d a b k ty fn => Sys2Proof.Machine.execVmaxS d a b k ty fn s
  | .vshlS d a b k ty => Sys2Proof.Machine.execVshlS d a b k ty s
  | .vshrS d a b k ty => Sys2Proof.Machine.execVshrS d a b k ty s
  | .vsraS d a b k ty => Sys2Proof.Machine.execVsraS d a b k ty s
  | .udfa => Sys2Proof.Machine.execUdfa s
  | .dxa idx h0 h1 h2 => Sys2Proof.Machine.execDxa idx h0 h1 h2 s
  -- steps, commands and events
  | .apply c t n => Sys2Proof.Machine.execApply c t n s
  | .ship c t n => Sys2Proof.Machine.execShip c t n s
  | .arrive a => Sys2Proof.Machine.execArrive a s
  | .confirm c t n => Sys2Proof.Machine.execConfirm c t n s
  | .linkLoss chip => Sys2Proof.Machine.execLinkLoss chip s
  | .atomic c t n => Sys2Proof.Machine.execAtomic c t n s
  | .directSend c t n => Sys2Proof.Machine.execDirectSend c t n s
  | .commit c t => Sys2Proof.Machine.execCommit c t s
  | .lineageExpiry k l => Sys2Proof.Machine.execLineageExpiry k l s
  | .taskStart c t => Sys2Proof.Machine.execTaskStart c t s
  | .steal c t victim => Sys2Proof.Machine.execSteal c t victim s
  | .deadlineStep c t => Sys2Proof.Machine.execDeadlineStep c t s
  | .budgetOverrun c t => Sys2Proof.Machine.execBudgetOverrun c t s
  | .parkTimeExpiry item => Sys2Proof.Machine.execParkTimeExpiry item s
  | .replayTimer item => Sys2Proof.Machine.execReplayTimer item s
  | .timingError p => Sys2Proof.Machine.execTimingError p s
  | .stepdownExpiry c => Sys2Proof.Machine.execStepdownExpiry c s
  | .harpStepdownExpiry k => Sys2Proof.Machine.execHarpStepdownExpiry k s
  | .uncorrectableData p => Sys2Proof.Machine.execUncorrectableData p s
  | .copyDeliver c ch n => Sys2Proof.Machine.execCopyDeliver c ch n s
  | .copyComplete c ch => Sys2Proof.Machine.execCopyComplete c ch s
  | .copyFault c ch => Sys2Proof.Machine.execCopyFault c ch s
  | .engineCompletion c => Sys2Proof.Machine.execEngineCompletion c s
  | .cmuComplete c droop => Sys2Proof.Machine.execCmuComplete c droop s
  | .hstreamRow k droop => Sys2Proof.Machine.execHstreamRow k droop s
  | .harpSwap k => Sys2Proof.Machine.execHarpSwap k s
  | .harpComplete k => Sys2Proof.Machine.execHarpComplete k s
  | .harpGrant k => Sys2Proof.Machine.execHarpGrant k s
  | .leaseLimit k => Sys2Proof.Machine.execLeaseLimit k s
  | .collectiveRun n => Sys2Proof.Machine.execCollectiveRun n s
  | .barrierStep c t => Sys2Proof.Machine.execBarrierStep c t s
  | .nodeStep c t => Sys2Proof.Machine.execNodeStep c t s
  | .nodePlace die => Sys2Proof.Machine.execNodePlace die s
  | .migrationArrive n => Sys2Proof.Machine.execMigrationArrive n s
  | .portRelease n => Sys2Proof.Machine.execPortRelease n s
  | .annulNotice chip ctx l => Sys2Proof.Machine.execAnnulNotice chip ctx l s
  | .resetNotice chip ctx ls => Sys2Proof.Machine.execResetNotice chip ctx ls s
  | .resetAck die q peer => Sys2Proof.Machine.execResetAck die q peer s
  | .resetTimeout die q peer => Sys2Proof.Machine.execResetTimeout die q peer s
  | .absenceToken tk => Sys2Proof.Machine.execAbsenceToken tk s
  | .tokenRemoval tk => Sys2Proof.Machine.execTokenRemoval tk s
  | .suspendNotice obj => Sys2Proof.Machine.execSuspendNotice obj s
  | .resumeNotice obj => Sys2Proof.Machine.execResumeNotice obj s
  | .peerDead chip => Sys2Proof.Machine.execPeerDead chip s
  | .intervalEnd die => Sys2Proof.Machine.execIntervalEnd die s
  | .boostGrant die => Sys2Proof.Machine.execBoostGrant die s
  | .clockRise course => Sys2Proof.Machine.execClockRise course s
  | .droop course => Sys2Proof.Machine.execDroop course s
  | .thermalMigration hot temps => Sys2Proof.Machine.execThermalMigration hot temps s
  | .coreMapOut c temps => Sys2Proof.Machine.execCoreMapOut c temps s
  | .harpRowRemap k row => Sys2Proof.Machine.execHarpRowRemap k row s
  | .laneRetire port => Sys2Proof.Machine.execLaneRetire port s
  | .firewallDrop phys => Sys2Proof.Machine.execFirewallDrop phys s
  | .monitorSample die u v => Sys2Proof.Machine.execMonitorSample die u v s
  | .monitorEpoch die u => Sys2Proof.Machine.execMonitorEpoch die u s
  | .ptpMeasurement offs port => Sys2Proof.Machine.execPtpMeasurement offs port s
  | .ptpHold => Sys2Proof.Machine.execPtpHold s
  | .ptpFirstTimeout => Sys2Proof.Machine.execPtpFirstTimeout s
  | .deviceReset bad rows => Sys2Proof.Machine.execDeviceReset bad rows s
  | .ctxNew k pa => Sys2Proof.Machine.execCtxNew k pa s
  | .ctxDel k => Sys2Proof.Machine.execCtxDel k s
  | .peers k => Sys2Proof.Machine.execPeers k s
  | .switch n k => Sys2Proof.Machine.execSwitch n k s
  | .mapq die q pa => Sys2Proof.Machine.execMapq die q pa s
  | .unmapq die q => Sys2Proof.Machine.execUnmapq die q s
  | .kick die q => Sys2Proof.Machine.execKick die q s
  | .reload k => Sys2Proof.Machine.execReload k s
  | .hread pa => Sys2Proof.Machine.execHread pa s
  | .quote nonce => Sys2Proof.Machine.execQuote nonce s
  | .qcert => Sys2Proof.Machine.execQcert s
  | .slotWrite table off bytes => Sys2Proof.Machine.execSlotWrite table off bytes s
  | .queueScan die q => Sys2Proof.Machine.execQueueScan die q s
  | .noOp die q => Sys2Proof.Machine.execNoOp die q s
  | .submit die q => Sys2Proof.Machine.execSubmit die q s
  | .submitRecord die q => Sys2Proof.Machine.execSubmitRecord die q s
  | .annul die q => Sys2Proof.Machine.execAnnul die q s
  | .queueReset die q => Sys2Proof.Machine.execQueueReset die q s
  | .eventWrite die q => Sys2Proof.Machine.execEventWrite die q s
  | .kload k v => Sys2Proof.Machine.execKload k v s
  | .kernelDone k => Sys2Proof.Machine.execKernelDone k s
  | .invalidate k v => Sys2Proof.Machine.execInvalidate k v s
  | .shareWrite k v => Sys2Proof.Machine.execShareWrite k v s
  | .invalidationDone k => Sys2Proof.Machine.execInvalidationDone k s
  | .energyLoRead core acc => Sys2Proof.Machine.execEnergyLoRead core acc s
  | .registerWrite pa v k level => Sys2Proof.Machine.execRegisterWrite pa v k level s
  | .dispNone k => Sys2Proof.Machine.execDispNone k s
  | .dispResume k item => Sys2Proof.Machine.execDispResume k item s
  | .dispContinue k item => Sys2Proof.Machine.execDispContinue k item s
  | .dispKill k item => Sys2Proof.Machine.execDispKill k item s
  | .dispMapped k page size => Sys2Proof.Machine.execDispMapped k page size s
  | .dispPark k item => Sys2Proof.Machine.execDispPark k item s
  | .dispReload k => Sys2Proof.Machine.execDispReload k s
  | .dbgClaim k => Sys2Proof.Machine.execDbgClaim k s
  | .dbgRel k => Sys2Proof.Machine.execDbgRel k s
  | .dbgHalt n t => Sys2Proof.Machine.execDbgHalt n t s
  | .dbgRun n t => Sys2Proof.Machine.execDbgRun n t s
  | .dbgStep n t => Sys2Proof.Machine.execDbgStep n t s
  | .dbgRd pa => Sys2Proof.Machine.execDbgRd pa s
  | .dbgWr pa v => Sys2Proof.Machine.execDbgWr pa v s
  | .stepReply c t => Sys2Proof.Machine.execStepReply c t s
  | .memoryRemap frames => Sys2Proof.Machine.execMemoryRemap frames s
  | .droopEnd course => Sys2Proof.Machine.execDroopEnd course s
  | .energyCount acc n => Sys2Proof.Machine.execEnergyCount acc n s
  | .hostWrite pa bytes => Sys2Proof.Machine.execHostWrite pa bytes s
  | .frameOwner f owner => Sys2Proof.Machine.execFrameOwner f owner s
  | .rangeRead p => Sys2Proof.Machine.execRangeRead p s
  | .heldExpiry n => Sys2Proof.Machine.execHeldExpiry n s
  | .correctedError => Sys2Proof.Machine.execCorrectedError s

end Sys2Proof.Machine
end

