-- ==== Sys2Proof/Machine/Step.lean ====
section
/-! DEFINITION. The machine's one step, and an instruction placed where the next step fetches. -/

namespace Sys2Proof.Machine

/-- One step (R191): the turn that comes next, what follows from it at once, and the passing of time. -/
def step (s : State) : Host.Outcome State Fault Refusal := s.advance exec

/-- The machine with an opcode-table word placed as the unit that the next step fetches (log 50). -/
def State.withFetchWord (s : State) (nbits w : Nat) : State := s.placeUnit (tableUnit nbits w)

end Sys2Proof.Machine
end

