-- ==== Sys2Proof/Safety.lean ====
section
/-! DEFINITION. The terms claims are made in: memories in their one form, when a unit runs by itself, how its end changes its slot, and what
two states have in common. -/

namespace Sys2Proof.Machine

/-! ## Memories in their one form -/

/-- Every typed buffer of a core is in canonical form. -/
def Core.memWf (x : Core) : Bool := x.bufW.wf && x.bufA.wf && x.bufC.wf && x.frames.wf
/-- Device memory is in canonical form. -/
def State.memWf (s : State) : Bool := s.mem.wf
/-- A program counter names a unit (R51). -/
def Thread.pcOk (t : Thread) : Bool := bitsOf t.pc.toNat 0 3 == 0
/-- A privilege level that is held: 3 never is (R280). -/
def Thread.levelOk (t : Thread) : Bool := t.priv != 3

/-! ## A unit by itself -/

/-- The unit that issues runs by itself: its slot is in no vector group and under no DBGSTEP, no wait is in progress in it, no A-slot
result is held, and no debugger has set its next pc. -/
def State.Plain (s : State) : Prop :=
  s.sl.group = none ∧ s.sl.stepping = false ∧ s.sl.wait = none ∧ s.sl.pendA = none ∧ s.sl.newPc = none

/-- What the end of a unit forgets in its slot, whatever the unit did, where the next unit follows it (R55, R77, R306, R366). -/
def Slot.ended (sl : Slot) : Slot :=
  { sl with wait := none, pendA := none, remote := none, skip := none, branchFrom := none, dictLag := lagTick sl.dictLag
            task := sl.task.map fun k => { k with firstDone := true } }
/-- The same for a taken branch: its address is kept for a fault at its target (R307), and the next unit is fetched anew (R77). -/
def Slot.jumped (sl : Slot) : Slot :=
  { sl with wait := none, pendA := none, remote := none, skip := none, branchFrom := some sl.thread.pc, dictLag := []
            task := sl.task.map fun k => { k with firstDone := true } }

/-- An instruction completes in a state, and what holds after it. -/
def Completes (i : Instr) (s : State) (holds : State → Prop) : Prop := ∃ t, exec i s = .next t ∧ holds t
/-- An instruction completes, its issuing slot ends as given, and nothing else in the machine changes. -/
def EndsIn (i : Instr) (s : State) (sl : Slot) : Prop := exec i s = .next (s.setSl sl)
/-- An instruction completes with the thread's registers as given, and the next unit follows. -/
def GivesThread (i : Instr) (s : State) (th : Thread) : Prop :=
  EndsIn i s { s.sl.ended with thread := { th with pc := s.th.pc + 8 } }
/-- An instruction's one effect is a value in a general register. -/
def GivesG (i : Instr) (s : State) (d : Fin 16) (x : Word) : Prop := GivesThread i s { s.th with g := s.th.g.set d.val x d.isLt }
/-- An instruction's one effect is a predicate. -/
def GivesP (i : Instr) (s : State) (d : Fin 4) (x : Bool) : Prop := GivesThread i s { s.th with p := s.th.p.set d.val x d.isLt }

/-! ## What two states have in common -/

/-- Every byte of device memory reads the same. -/
def SameMem (s t : State) : Prop := ∀ a, mget t.mem a = mget s.mem a
/-- Every byte of every typed buffer of every core reads the same. -/
def SameBufs (s t : State) : Prop := ∀ c b a, mget ((t.coreAt c).bufMem b) a = mget ((s.coreAt c).bufMem b) a
/-- Every hardware thread slot but one is the same. -/
def SameSlotsBut (s t : State) (c : Nat) (u : Fin 4) : Prop := ∀ d v, (d, v) ≠ (c, u) → t.slotAt d v = s.slotAt d v

/-- An instruction completes by a taken branch: its issuing slot goes on at `n` with the thread's registers as given, and nothing else in
the machine changes. -/
def Jumps (i : Instr) (s : State) (th : Thread) (n : Word) : Prop := EndsIn i s { s.sl.jumped with thread := { th with pc := n } }
/-- An instruction selects the dictionary bank of a handle (R70, R76): it makes that bank active, which the three units already fetched do not see
(R77); a handle of 0 or that neither bank holds is refused, with the handle in DETAIL. -/
def SelectsBank (i : Instr) (s : State) (h : BitVec 32) : Prop :=
  let d := s.sl.dict
  let act := if d.active then d.bank1 else d.bank0
  let other := if d.active then d.bank0 else d.bank1
  (h ≠ 0 → act.handle = h → GivesThread i s { s.th with ws := 0 })
  ∧ (h ≠ 0 → act.handle ≠ h → other.handle = h →
      let sl : Slot := { s.sl with dict := { d with active := !d.active }, dictLag := s.sl.dictLag ++ [(d, 4)] }
      EndsIn i s { sl.ended with thread := { s.th with ws := 0, pc := s.th.pc + 8 } })
  ∧ (h = 0 ∨ (act.handle ≠ h ∧ other.handle ≠ h) → GivesThread i s { s.th with ws := 6 + h.setWidth 64 * 2 ^ 32 })
/-- An instruction's effect is a value in a general register with IEEE flags, which FFLAGS and the summary word of the context gather
(R121, R123). -/
def GivesFp (i : Instr) (s : State) (d : Fin 16) (r : FRes) : Prop :=
  exec i s = .next ((s.setSl { s.sl.ended with
    thread := { s.th with g := s.th.g.set d.val (w64 r.1) d.isLt, pc := s.th.pc + 8, fflags := s.th.fflags ||| r.2 } }).raise
      (clusterOf s.curCore) s.curCtx r.2)
/-- An instruction's effect is a vector register with IEEE flags. -/
def GivesV (i : Instr) (s : State) (d : Fin 16) (v : VWord) (flags : BitVec 5) : Prop :=
  exec i s = .next ((s.setSl { s.sl.ended with
    v := s.sl.v.set d.val v d.isLt, thread := { s.th with pc := s.th.pc + 8, fflags := s.th.fflags ||| flags } }).raise
      (clusterOf s.curCore) s.curCtx flags)
/-- An elementwise instruction (R64, R144): each active lane of `lanes` lanes of `n` bits takes the value of `f`, each other lane of the
register keeps its bits, and the flags of the active lanes are gathered. -/
def GivesLanes (i : Instr) (s : State) (d : Fin 16) (k : VMask) (n lanes : Nat) (f : Nat → FRes) : Prop :=
  ∃ v fl, GivesV i s d v fl
    ∧ (∀ j < lanes, laneOf n v j = if s.active k j then (f j).1 % 2 ^ n else laneOf n (s.sl.v.get d) j)
    ∧ (∀ b < 5, fl.getLsbD b = true ↔ ∃ j < lanes, s.active k j = true ∧ (f j).2.getLsbD b = true)

/-! ## Traps -/

/-- A task whose traps are taken by its context's action table: none that runs a fault record whose first unit has not completed (R306). -/
def Task.ordinary (k : Task) : Bool :=
  k.firstDone || (match k.kind with | .supervisor isFault _ => !isFault | _ => true)
/-- The slot of a thread whose unit has been given up (R57). -/
def Slot.dropped (sl : Slot) : Slot := { sl with wait := none, pendA := none, dictLag := [], skip := none, newPc := none, lastLoad := none }
/-- The slot of a thread that a trap has parked (R300). -/
def Slot.parkedOn (sl : Slot) (p : Park) : Slot := { sl.dropped with park := some p, stepping := false }
/-- A fault record of R296 at a core, for the core that the action entry names (R298). -/
def State.faultRecord (s : State) (ctx cause c : Nat) (word pc addr item : Word) (src : PrivSrc) : PrivRec :=
  let e := (s.actEntry ctx cause).getD []
  let khandle := BitVec.ofNat 32 (leNat ((e.drop 8).take 4))
  let dict := match s.ctx? ctx with
    | some x => match tget x.kernels khandle.toNat with | some k => k.dict | none => 0
    | none => 0
  ⟨0, s.recordCore ctx cause c, ctx,
    mkRec khandle (BitVec.ofNat 32 (leNat ((e.drop 12).take 4))) dict 0 0 0 0xD word pc addr item, none, src, s.instant, false⟩
/-- The fault record that the forward action queues for the current thread, whose handle it names. -/
def State.faultEntry (s : State) (ctx cause slotF kind info : Nat) (addr pc : Word) : PrivRec :=
  s.faultRecord ctx cause s.curCore (w64 (cause * 2 ^ 58 + slotF * 2 ^ 56 + kind * 2 ^ 54 + s.th.lid.toNat * 2 ^ 32 + info % 2 ^ 32)) pc addr
    (s.threadItem s.curCore s.curSlot) (.thread s.curCore s.curSlot)
/-- A state after a trap (R295 to R300): neither slot of the unit has taken effect, and the thread goes by its context's action: killed
(`.. 0`), re-executed at once or parked for the resolving event (1), parked (2), or parked with its fault record queued and counted
under LID 0 (3). -/
def Trapped (s : State) (cause slotF kind info : Nat) (addr pc : Word) (t : State) : Prop :=
  ∀ k, s.sl.task = some k → k.ordinary →
    let park (action : Fin 5) : Slot := s.sl.parkedOn ⟨BitVec.ofNat 6 cause, BitVec.ofNat 2 slotF, BitVec.ofNat 2 kind, BitVec.ofNat 32 info, addr, pc,
      action, s.evtOf k.ctx cause, s.instant, s.ptimeOf k.ctx cause⟩
    (s.actionOf k.ctx cause = 1 → s.evtOf k.ctx cause = 0 → t = s.setSl s.sl.dropped)
    ∧ (s.actionOf k.ctx cause = 1 → s.evtOf k.ctx cause ≠ 0 → t = s.setSl (park 1))
    ∧ (s.actionOf k.ctx cause = 2 → t = s.setSl (park 2))
    ∧ (s.actionOf k.ctx cause = 3 →
        t = (s.setSl (park 3)).pushPriv (s.faultEntry k.ctx cause slotF kind info addr pc))
    ∧ (s.actionOf k.ctx cause = 0 →
        t = (s.setSl s.sl.dropped).killThread s.curCore s.curSlot
          (cause * 2 ^ 58 + slotF * 2 ^ 56 + kind * 2 ^ 54 + s.th.lid.toNat * 2 ^ 32 + info % 2 ^ 32 + pc.toNat * 2 ^ 64
            + addr.toNat * 2 ^ 128 + (s.threadItem s.curCore s.curSlot).toNat * 2 ^ 192))
/-- An instruction raises a trap. -/
def RaisesTrap (i : Instr) (s : State) (cause slotF kind info : Nat) (addr pc : Word) : Prop :=
  Completes i s (Trapped s cause slotF kind info addr pc)
/-- The one mapped queue of a context. -/
def State.soleQueue (s : State) (k die q : Nat) (h : HostQueue) : Prop :=
  s.queueAt die q = some h ∧ h.qctx = k ∧ ∀ d ∈ s.dies, ∀ p ∈ d.2.queues, p.2.qctx = k → d.1 = die ∧ p.1 = q
/-- A notice has been put for the host (R339): held for a context none of whose queues has NOTIFY, or an event of the context's one queue. -/
def Noticed (s t : State) (k : Nat) (ev : BitVec 512) : Prop :=
  (∀ x, s.ctx? k = some x → (∀ d ∈ s.dies, ∀ q ∈ d.2.queues, q.2.qctx = k → q.2.notify = false) → x.notices.length < 16 →
    t.ctx? k = some { x with notices := x.notices ++ [ev], noticeCount := x.noticeCount + 1 })
  ∧ (∀ die q h, s.soleQueue k die q h → h.notify = true → h.closing = false → t.queueAt die q = some { h with events := h.events ++ [ev] })
/-- An instruction raises a trap in a fault-record task before its first unit has completed (R306): it is parked, and a double-fault record queued,
whose ADDR is the item of the first fault; in a double-fault handler no record is queued, and the host is noticed. -/
def RaisesNested (i : Instr) (s : State) (cause slotF : Nat) : Prop :=
  Completes i s fun t => ∀ k e, s.sl.task = some k → k.kind = .supervisor true e → k.firstDone = false →
    let first := (recArg k.record 0).toNat / 2 ^ 58
    let info := first * 256 + cause
    let addr := recArg k.record 3
    let word := w64 (20 * 2 ^ 58 + slotF * 2 ^ 56 + 2 ^ 53 + s.th.lid.toNat * 2 ^ 32 + info)
    let item := s.threadItem s.curCore s.curSlot
    let parked (action : Fin 5) (ptime : BitVec 16) : State :=
      s.setSl (s.sl.parkedOn ⟨BitVec.ofNat 6 cause, BitVec.ofNat 2 slotF, 0, BitVec.ofNat 32 info, addr, s.th.pc, action, 0, s.instant, ptime⟩)
    (first ≠ 20 → t = (parked 3 (s.ptimeOf k.ctx 20)).pushPriv
        (s.faultRecord k.ctx 20 s.curCore word s.th.pc addr item (.thread s.curCore s.curSlot)))
    ∧ (first = 20 → t = { parked 2 0 with contexts := t.contexts, dies := t.dies } ∧ Noticed s t k.ctx
        (eventWord 6 0 0 0 s.instant 0 (word.toNat + s.th.pc.toNat * 2 ^ 64 + addr.toNat * 2 ^ 128 + item.toNat * 2 ^ 192)))
/-- An instruction raises a fault of translation (R179, R204): its cause, KIND and the failing address, whose walk has recalled the entries it
read (R192). -/
def WalkFault (i : Instr) (s : State) (cause kind : Nat) (addr : Word) : Prop :=
  Completes i s (Trapped (s.recall (s.walksFor s.curCtx addr)) cause 0 kind 0 addr s.th.pc)

/-- The control-register numbers that R67's table does not assign. -/
def CrUnassigned (n : BitVec 12) : Prop :=
  n = 0x007 ∨ n = 0x00F ∨ (0x014 ≤ n ∧ n ≤ 0x017) ∨ n = 0x01E ∨ n = 0x01F ∨ (0x028 ≤ n ∧ n ≤ 0x02F) ∨ (0x038 ≤ n ∧ n ≤ 0x03F)
    ∨ 0x042 ≤ n


/-! ## Rounding (R113, R118 to R120) -/

/-- The number z × 2^e is at most z' × 2^e'. -/
def atMost (z : Nat) (e : Int) (z' : Nat) (e' : Int) : Bool := decide (z * 2 ^ (e - min e e').toNat ≤ z' * 2 ^ (e' - min e e').toNat)
/-- RoundTo (R118, R119) of a positive real number under a sign: `lo z e` says that z × 2^e is at most the number, `hi z e` that it is at least it.
A number beyond what the mode rounds to the largest finite value gives an infinity, which the canonical NaN stands for in E4M3, or that value,
with OF and NX. Every other gives the nearest of the format's values, of two equally near the one whose last bit is 0; or the nearest not
nearer to zero or not farther from it; with NX where it is not the number itself, and UF where the number is besides below every normal one. -/
def RoundsTo (f : FFmt) (mode : BitVec 2) (sat sg : Bool) (lo hi : Nat → Int → Prop) (r : FRes) : Prop :=
  let away : Prop := (mode = 2 ∧ sg = false) ∨ (mode = 3 ∧ sg = true)
  let top : Int := f.emax - (f.p - 1 : Nat)
  let beyond : Prop :=
    (mode = 0 → if f.noInf then ¬hi (2 * f.maxSig + 1) (top - 1) else lo (2 * f.maxSig + 1) (top - 1))
    ∧ (mode ≠ 0 → away → ¬hi f.maxSig top) ∧ (mode ≠ 0 → ¬away → lo (f.maxSig + 1) top)
  (beyond → ((mode = 0 ∨ away) → sat = false → r = (f.inf sg, 5)) ∧ (¬(mode = 0 ∨ away) ∨ sat = true → r = (f.maxF sg, 5)))
  ∧ (¬beyond → ∃ (y : Nat) (g : Int), r.1 < 2 ^ f.n ∧ f.val r.1 = .fin sg y g
      ∧ (mode = 0 → ∀ w v c, f.val w = .fin sg v c →
          let k := min g c
          let mid := y * 2 ^ (g - k).toNat + v * 2 ^ (c - k).toNat
          (¬atMost v c y g → hi mid (k - 1) ∧ (lo mid (k - 1) → r.1 % 2 = 0))
            ∧ (¬atMost y g v c → lo mid (k - 1) ∧ (hi mid (k - 1) → r.1 % 2 = 0)))
      ∧ (mode ≠ 0 → away → hi y g ∧ ∀ w v c, f.val w = .fin sg v c → hi v c → atMost y g v c)
      ∧ (mode ≠ 0 → ¬away → lo y g ∧ ∀ w v c, f.val w = .fin sg v c → lo v c → atMost v c y g)
      ∧ (lo y g ∧ hi y g → r.2 = 0)
      ∧ (¬(lo y g ∧ hi y g) → (lo 1 f.emin → r.2 = 1) ∧ (¬lo 1 f.emin → r.2 = 3)))
/-- RoundTo of the number m × 2^e. -/
def Rounds (f : FFmt) (mode : BitVec 2) (sat sg : Bool) (m : Nat) (e : Int) (r : FRes) : Prop :=
  RoundsTo f mode sat sg (fun z g => atMost z g m e) (fun z g => atMost m e z g) r
/-- The integer to which a mode rounds the number m × 2^e under a sign (R118, R120, R140). -/
def RoundsInt (mode : BitVec 2) (sg : Bool) (m : Nat) (e : Int) (v : Nat) : Prop :=
  let away : Prop := (mode = 2 ∧ sg = false) ∨ (mode = 3 ∧ sg = true)
  (mode = 0 → (v ≠ 0 → atMost (2 * v - 1) (-1) m e) ∧ atMost m e (2 * v + 1) (-1)
      ∧ (v ≠ 0 → atMost m e (2 * v - 1) (-1) → v % 2 = 0) ∧ (atMost (2 * v + 1) (-1) m e → v % 2 = 0))
  ∧ (mode ≠ 0 → away → atMost m e v 0 ∧ (v ≠ 0 → ¬atMost m e (v - 1) 0))
  ∧ (mode ≠ 0 → ¬away → atMost v 0 m e ∧ ¬atMost (v + 1) 0 m e)
/-! ## Lanes and reductions -/

/-- An unbounded integer as the n-bit pattern of a lane; it raises no flag (R126, R144). -/
def intLane (ty : Ty) (z : Int) : FRes := ((z % 2 ^ ty.bits).toNat, 0)
/-- The number that a lane's pattern holds, signed or unsigned by its type. -/
def numOf (ty : Ty) (x : Nat) : Int := if ty.isZ then (x % 2 ^ ty.bits : Nat) else (BitVec.ofNat ty.bits x).toInt
/-- The least and the greatest number of a lane's type. -/
def leastOf (ty : Ty) : Int := if ty.isZ then 0 else -(2 ^ (ty.bits - 1))
def greatestOf (ty : Ty) : Int := if ty.isZ then 2 ^ ty.bits - 1 else 2 ^ (ty.bits - 1) - 1
/-- `Sat` to a lane's range (R7, R145). -/
def satLane (ty : Ty) (z : Int) : FRes := intLane ty (max (leastOf ty) (min z (greatestOf ty)))
/-- The combination of R151 in lane order: the first value enters unrounded, and the flags of every step are gathered. -/
def redOf (op : RedOp) (ty : Ty) (mode : BitVec 2) : List Nat → FRes
  | [] => (redIdentity op ty, 0)
  | x :: r => r.foldl (fun (acc : FRes) y => ((combine op ty mode acc.1 y).1, acc.2 ||| (combine op ty mode acc.1 y).2)) (x, 0)
/-- The active lanes of a vector register below lane `n`, lane 0 first. -/
def State.activeLanes (s : State) (a : Fin 16) (k : VMask) (ty : Ty) (n : Nat) : List Nat :=
  ((List.range n).filter (s.active k)).map (s.vl ty a)

/-- The comparison that a code names, of two numbers (R84, R146). -/
def compares (cc : FCc) (u v : Int) : Bool :=
  match cc with
  | .eq => decide (u = v)
  | .ne => decide (u ≠ v)
  | .lt => decide (u < v)
  | .le => decide (u ≤ v)
  | .gt => decide (u > v)
  | .ge => decide (u ≥ v)
  | .uo => false
  | .ord => true


/-! ## Completions with other effects, and waits -/

/-- An instruction completes in its thread, and the rest of the machine is as `s'` gives it. -/
def GivesIn (i : Instr) (s s' : State) (th : Thread) : Prop :=
  exec i s = .next (s'.setSl { s.sl.ended with thread := { th with pc := s.th.pc + 8 } })
/-- The wait that an instruction begins now (R243): its bounds are formed at its first attempt. -/
def State.newWait (s : State) (i : Instr) (ds : Sel) (stage : Nat) : Wait :=
  ⟨i, s.instant, s.selAt ds, satAdd s.instant s.th.waitcap, s.th.waitcap, stage, 0, none, none, 0, none, none⟩
/-- A wait under a selector has not ended at its first attempt: its deadline step is not yet due (R243). -/
def State.mayWait (s : State) (ds : Sel) : Prop := s.instant < s.selAt ds ∧ s.instant < satAdd s.instant s.th.waitcap
/-- An instruction begins to wait, and the rest of the machine is as `s'` gives it. -/
def BeginsWait (i : Instr) (s s' : State) (ds : Sel) (stage : Nat) : Prop :=
  exec i s = .next (s'.setSl { s'.sl with wait := some (s.newWait i ds stage) })
/-- The machine with the sample of a wait whose condition held at its first check (R243, R358). -/
def State.waited (s : State) : State := s.sample (dieOf s.curCore) 2 0
/-- A further attempt of a unit that runs by itself. -/
def State.Retries (s : State) (w : Wait) : Prop :=
  s.sl.group = none ∧ s.sl.stepping = false ∧ s.sl.wait = some w ∧ s.sl.pendA = none ∧ s.sl.newPc = none
/-- A further attempt completes in its thread; the duration of its wait is a sample of monitor source 2 (R358). -/
def GivesAfter (i : Instr) (s : State) (w : Wait) (s' : State) (th : Thread) : Prop :=
  exec i s = .next ((s'.sample (dieOf s.curCore) 2 (s.instant - w.t0)).setSl
    { s.sl.ended with thread := { th with pc := s.th.pc + 8 } })

/-! ## Stores -/

/-- What a memory holds after bytes are written to the places that a map gives them: each byte that has a place, the last of several at one
place, and every other byte as before. -/
def Lands (m m' : Memory) (place : Nat → Option Nat) (bytes : List Byte) : Prop :=
  (∀ p, (∀ j < bytes.length, place j ≠ some p) → mget m' p = mget m p)
    ∧ ∀ j < bytes.length, ∀ p, place j = some p → (∀ k, j < k → k < bytes.length → place k ≠ some p) → mget m' p = bytes.getD j 0
/-- Where byte j of a thread's store lands (R100 to R102). -/
def State.placeOf (s : State) (k : AccKind) (b : Buf) (off j : Nat) : Option Nat :=
  if b = .m then (if s.mOpen ((off + j) % 0x8000) then some ((off + j) % 0x8000) else none)
  else if reaches k b then physByte (s.th.alloc b) off j else none
/-- An instruction stores bytes in a buffer of its core, and the thread goes on as given. -/
def StoresIn (i : Instr) (s : State) (k : AccKind) (b : Buf) (off : Nat) (bytes : List Byte) (th : Thread) : Prop :=
  ∃ m', GivesIn i s (s.setCo (s.co.setBufMem b m')) th ∧ Lands (s.co.bufMem b) m' (s.placeOf k b off) bytes
/-- An access stalls on a locked range of a buffer that it reaches (R101, R169). -/
def State.blocked (s : State) (k : AccKind) (b : Buf) (off n : Nat) (isStore : Bool) : Prop :=
  reaches k b = true ∧ s.lockStall b off n isStore = true
/-- A store is held back by no lock (R169) and by no resident block (R107): none is hit, or the task is irrevocable. -/
def State.storeFree (s : State) (k : AccKind) (b : Buf) (off n : Nat) : Prop :=
  ¬s.blocked k b off n true ∧ (s.hitsResident k b off n = true → s.spec = false)

/-- The new value of each atomic from the old value, the operand and, for `cas`, the compare value (R208). -/
def newOf (ty : Ty) : Fin 8 → Nat → Nat → Nat → Nat
  | 0, m, b, _ => (m + b) % 2 ^ ty.bits
  | 1, m, b, _ => if numOf ty m ≤ numOf ty b then m else b
  | 2, m, b, _ => if numOf ty m ≤ numOf ty b then b else m
  | 3, m, b, _ => m &&& b
  | 4, m, b, _ => m ||| b
  | 5, m, b, _ => m ^^^ b
  | 6, _, b, _ => b
  | 7, m, b, c => if m = c then b else m

/-! ## Granules and reads -/

/-- No speculative task and no thread package but one slot's has read a granule (R194). -/
def State.unread (s : State) (g : Gran) (but : Option (Nat × Fin 4)) : Prop :=
  (∀ e ∈ s.cores, (∀ t : Fin 4, some (e.1, t) ≠ but → g ∉ (e.2.slots.get t).rs)
    ∧ ∀ q ∈ e.2.inbox, ∀ pl id pk, q.2.entry = .package pl id (some pk) → g ∉ pk.rs)
    ∧ ∀ pk ∈ s.transit, g ∉ pk.rs
/-- No read signature, of a slot or of a thread package, holds a granule that fits (R194). -/
def State.noneRead (s : State) (fits : Gran → Prop) : Prop :=
  (∀ e ∈ s.cores, (∀ t : Fin 4, ∀ g ∈ (e.2.slots.get t).rs, ¬fits g)
    ∧ ∀ q ∈ e.2.inbox, ∀ pl id pk, q.2.entry = .package pl id (some pk) → ∀ g ∈ pk.rs, ¬fits g)
    ∧ ∀ pk ∈ s.transit, ∀ g ∈ pk.rs, ¬fits g
/-- The places of cells after those of some granules of this chip have been recalled to their home slices (R192). -/
def State.recalled (s : State) (grans : Nat → Bool) : List (Nat × Place) := s.places.filter fun x => !grans x.1
/-- The places of cells after a step has recalled a granule to where it is taken (R192): its home slice, or a hot-word cache. -/
def State.Placed (s : State) (g : Nat) (hot : Bool) (pl : List (Nat × Place)) : Prop :=
  (hot = false → pl = s.recalled (· == g)) ∧ (hot = true → (g, Place.hot) ∈ pl ∧ ∀ e ∈ pl, e ∈ s.places ∨ e = (g, .hot))
/-- Memory after the masked bytes of a granule are written. -/
def GranWritten (m m' : Memory) (num : Nat) (bytes : BitVec 512) (mask : BitVec 64) : Prop :=
  ∀ a, mget m' a = if a / 64 = num ∧ mask.getLsbD (a % 64) = true then BitVec.ofNat 8 (bytes.toNat / 2 ^ (8 * (a % 64))) else mget m a
/-- Memory after bytes are written from an address up. -/
def BytesWritten (m m' : Memory) (pa : Nat) (bytes : List Byte) : Prop :=
  ∀ a, mget m' a = if pa ≤ a ∧ a < pa + bytes.length then bytes.getD (a - pa) 0 else mget m a
/-- The fence tracker after a part of an entry is confirmed: the entry goes with its last part (R193). -/
def PartGone (ft ft' : List FtEntry) (id : Nat) : Prop :=
  ∀ f, f ∈ ft' ↔ (f ∈ ft ∧ f.id ≠ id) ∨ ∃ e ∈ ft, e.id = id ∧ 1 < e.parts ∧ f = { e with parts := e.parts - 1 }
/-- An older entry of the same task on the store path. -/
def State.olderOn (s : State) (e x : OpEntry) : Prop := ∃ p q, s.op = p ++ e :: q ∧ e ∉ p ∧ x ∈ p ∧ x.owner = e.owner

/-! ## Barriers (R220, R221) -/

/-- A barrier after the check that every count makes: with EXPECTED arrivals and EXPB bytes reached, and one of them above 0, the phase flips. -/
def turned (b : BarV) : BarV :=
  if b.expected.toNat ≤ b.arrived.toNat ∧ b.expb.toNat ≤ b.gotb.toNat ∧ (0 < b.expected.toNat ∨ 0 < b.expb.toNat) then
    ⟨false, b.phase + 1, 0, b.expected, 0, 0⟩ else b
/-- One arrival, saturating. -/
def arrivedAt (b : BarV) : BarV := turned { b with arrived := if b.arrived = 0xFFFF then 0xFFFF else b.arrived + 1 }
/-- Bytes expected, saturating. -/
def expecting (b : BarV) (n : BitVec 32) : BarV := turned { b with expb := if b.expb.toNat + n.toNat < 2 ^ 32 then b.expb + n else 0xFFFFFFFF }
/-- Bytes counted, saturating. -/
def gained (b : BarV) (n : Nat) : BarV :=
  turned { b with gotb := if b.gotb.toNat + n < 2 ^ 32 then b.gotb + BitVec.ofNat 32 n else 0xFFFFFFFF }
/-- A barrier ended for all who wait there. -/
def broken (b : BarV) : BarV := ⟨true, b.phase + 1, 0, b.expected, 0, 0⟩
/-- ws with a code and a PHASE in DETAIL. -/
def phaseWs (code : Nat) (p : BitVec 16) : Word := w64 (code + p.toNat * 2 ^ 32)
/-- The slot of a thread that waits at an object. -/
def State.atObject (s : State) (i : Instr) (ds : Sel) (stage : Nat) (data : Word) (r : BarRef) : Wait :=
  { s.newWait i ds stage with data := data, obj := some r }

/-! ## Engine operations -/

/-- A plain copy source (R212), a buffer as it stands now (R169). -/
def State.srcOf (s : State) : EndKind → Word → CopySrc
  | .dev, v => .dev v
  | .w, v => .buf s.co.bufW s.th.bufW 0xC000 v.toNat
  | .a, v => .buf s.co.bufA s.th.bufA 0x8000 v.toNat
  | .arr, v => .arr (s.clusterAt (clusterOf s.curCore)).array v.toNat
/-- A plain copy destination (R212). -/
def State.dstOf (s : State) : EndKind → Word → CopyDst
  | .dev, v => .dev v
  | .w, v => .buf .w s.th.bufW v.toNat
  | .a, v => .buf .a s.th.bufA v.toNat
  | .arr, v => .arr v.toNat
/-- No walk's answer is awaited for an address: a cached translation serves it, or answers are not late (R286). -/
def State.quick (s : State) (va : Word) : Prop := s.late = false ∨ s.cachedFor s.curCtx va ≠ []
/-- The first page of an endpoint of n bytes translates at once, where it is in device memory and not empty (R214, log 112). -/
def State.opens (s : State) (k : EndKind) (v : Word) (n : Nat) (need : Need) : Prop :=
  k = .dev → n ≠ 0 → s.quick v ∧ ∃ x, s.translate s.curCtx s.th.priv v need = .ok x
/-- A channel with a place, behind a head that delivers (R211). -/
def State.chanFree (s : State) (ch : Fin 8) : Prop :=
  (s.co.chans.get ch).queue.length < 4 ∧ ∀ x r, (s.co.chans.get ch).queue = x :: r → x.started = true
/-- The lineage of the current thread counts one operation more (R23). -/
def LiveUp (s t : State) : Prop :=
  ∀ x, s.lineage? s.curCtx s.th.lid = some x → t.lineage? s.curCtx s.th.lid = some { x with live := x.live + 1 }
/-- The lineage of an operation's issuer counts one less; stated where others remain (R23). -/
def LiveDown (s t : State) (w : Issuer) : Prop :=
  ∀ x, s.lineage? w.ctx w.lid = some x → 1 < x.live → t.lineage? w.ctx w.lid = some { x with live := x.live - 1 }
/-- An instruction's copy is accepted (R211, R213): it stands last on its channel, with the next number there, which is DETAIL, and its
lineage counts it; no byte has moved. `s'` is the machine at its acceptance. -/
def TakesCopy (i : Instr) (s s' : State) (f : CopyFields) (src : CopySrc) (dst : CopyDst) (len : Nat) : Prop :=
  let ch := s'.co.chans.get f.ch
  let n := ch.accepted + 1
  Completes i s fun t =>
    t.th = { s'.th with ws := w64 (n.toNat * 2 ^ 32), pc := s'.th.pc + 8 }
    ∧ (∃ op, t.co.chans.get f.ch = ⟨n, if ch.queue = [] then n else ch.cseq, if ch.queue = [] then 0 else ch.doneb, ch.queue ++
        [{ cseq := n, src := src, dst := dst, len := len, done := 0, who := s'.issuer, bound := if f.bnd then some f.boff else none
           nte := f.nte, ctag := f.ctag, after := (s'.op.filter fun e => e.owner == s'.curTask).map (·.ft), park := none
           failed := false, lost := false, started := decide (ch.queue = []), lock := op }]⟩)
    ∧ (∀ c, c ≠ f.ch → t.co.chans.get c = s'.co.chans.get c)
    ∧ LiveUp s' t ∧ SameMem s' t ∧ SameBufs s' t

/-- The channel after its head copy is over: the next copy begins (R211). -/
def nextCopy (k : Channel) : List Copy → Channel
  | [] => { k with queue := [] }
  | y :: r => { k with cseq := y.cseq, doneb := 0, queue := { y with started := true } :: r }
/-- A completion entry's header (R39, R170, R213). -/
def Reports (s : State) (m : Msg) (tag : BitVec 8) (len c : Nat) (w : Issuer) (cstat : BitVec 8) : Prop :=
  msgTag m = tag ∧ recBits m 8 8 = len ∧ msgScore m = s.logOf c ∧ msgSchip m = s.chip ∧ msgLid m = w.lid ∧ msgSkind m = 1
    ∧ recBits m 72 8 = cstat.toNat
/-- The lowest free place of an inbox (R39). -/
def LowestFree (x : Core) (n : Nat) : Prop := n < 128 ∧ tget x.inbox n = none ∧ ∀ j < n, tget x.inbox j ≠ none

/-- An operation enters the core matrix unit (R164, R172): everything is sampled now, ws is DONE, and its tile of C is locked against loads and
stores; no byte has changed. -/
def TakesCmu (i : Instr) (s : State) (kind : CmuKind) (cycles cOff : Nat) (ntf : BitVec 2) (ctag : BitVec 8) (boff : BitVec 9) : Prop :=
  let x := s.co
  Completes i s fun t =>
    t.th = { s.th with ws := 0, pc := s.th.pc + 8 }
    ∧ (∃ id, t.co.cmu = x.cmu ++ [⟨id, kind, s.issuer, x.fmta, x.fmtb, x.fmtc, x.scla, x.sclb, x.qknob, x.bufA, x.bufW, s.th.bufW, s.th.bufA,
        s.th.bufC, cycles, ntf, ctag, boff, false⟩]
      ∧ (physSegs s.th.bufC cOff 1024 ≠ [] → ∃ l ∈ t.co.locks, l.op = id ∧ l.isC = true ∧ l.loads = true ∧ l.segs = physSegs s.th.bufC cOff 1024))
    ∧ LiveUp s t ∧ SameMem s t ∧ SameBufs s t
/-- A command enters the harp's queue (R46, R171, R172): everything is sampled now, ws is DONE with the commands left under the lease, which ends
with its 32nd. -/
def TakesHarp (i : Instr) (s : State) (l : Lease) (kind : HarpKind) (cycles scaleOff : Nat) (ntf : BitVec 2) (ctag : BitVec 8) (boff : BitVec 9) : Prop :=
  let k := clusterOf s.curCore
  let x := s.clusterAt k
  Completes i s fun t =>
    t.th = { s.th with ws := w64 ((32 - (l.count + 1)) * 2 ^ 32), pc := s.th.pc + 8 }
    ∧ (∃ id, (t.clusterAt k).harp = { x.harp with
        queue := x.harp.queue ++ [⟨id, kind, s.issuer, s.co.fmta, s.co.fmtb, s.co.fmtc, scaleOff, x.array, s.co.qknob, cycles, ntf, ctag, boff,
          s.th.bufC, 0, 0, 0, 0, false, (s.op.filter fun e => e.owner == s.curTask).map fun e => e.ft, none⟩]
        lease := if 32 ≤ l.count + 1 then none else some { l with count := l.count + 1, users := l.users ++ [s.curTask] } })
    ∧ (t.clusterAt k).array = x.array ∧ LiveUp s t ∧ SameMem s t ∧ SameBufs s t

/-! ## Work that starts and ends -/

/-- The entries of a table stand in rising order. -/
def Rising {α : Type} (t : Tab α) : Prop := (t.map (·.1)).Pairwise (· < ·)
/-- No work queued at a core belongs to an annulled lineage (R33). -/
def State.unannulled (s : State) (c : Nat) : Prop :=
  (∀ e ∈ (s.coreAt c).inbox, ∀ l, e.2.entry.lidOf = some l → s.annulled e.2.ctx l = false)
    ∧ (∀ d ∈ (s.coreAt c).deque, ∀ q, d.rec? = some q → s.annulled q.ctx (recLid q.record) = false)
    ∧ (∀ r ∈ (s.coreAt c).rerun, s.annulled r.q.ctx (recLid r.q.record) = false)
    ∧ ∀ q ∈ (s.coreAt c).delegQ, s.annulled q.ctx q.lid = false
/-- A slot that may take new work (R34): of a core with a resident context, without a task, reserved for no group,
and with no SWITCH waiting for its slots. -/
def State.openFor (s : State) (c : Nat) (u : Fin 4) (ctx : Nat) : Prop :=
  c < 8192 ∧ (s.coreAt c).ctx = some ctx ∧ (s.slotAt c u).task = none ∧ (s.slotAt c u).reserved = none ∧ (u = 3 → (s.coreAt c).server = false)
    ∧ (s.coreAt c).switches = []
/-- One for which no record waits on the privileged queue. -/
def State.freeFor (s : State) (c : Nat) (u : Fin 4) (ctx : Nat) : Prop := s.openFor c u ctx ∧ s.privFor c = none
/-- A candidate comes before another (R248, keys 1, 3 and 4). -/
def Cand.precedes (x y : Cand) : Prop :=
  y.prio < x.prio ∨ (x.prio = y.prio ∧ (x.ready < y.ready ∨ (x.ready = y.ready ∧ x.index < y.index)))
/-- A record starts in a slot (R33, R35): the slot holds its task and nothing of the one before, the thread has the record's arguments in g0 to g3
and every other general register 0, both deadlines at the lineage's effective expiry, WAITCAP at WAITDEF, user level and the record's
budget, at its entry in the kernel. -/
def Starts (s t : State) (c : Nat) (u : Fin 4) (q : Queued) (k : Kernel) : Prop :=
  let r := q.record
  let sl := t.slotAt c u
  let th := sl.thread
  sl.task = some ⟨q.id, q.ctx, r, .plain, recKHandle r, k.base, recPrio r, q.retries, !recIrr r, false, s.instant, 0, none⟩
    ∧ sl.v = Vector.replicate 16 0 ∧ sl.m = Vector.replicate 8 0 ∧ sl.cb = [] ∧ sl.rs = [] ∧ sl.wait = none ∧ sl.park = none ∧ sl.group = none
    ∧ sl.inline = [] ∧ sl.divider = q.divider ∧ sl.claim = 0
    ∧ th.g = #v[recArg r 0, recArg r 1, recArg r 2, recArg r 3, 0, 0, 0, 0, 0, 0, 0, 0, 0, 0, 0, 0] ∧ th.p = Vector.replicate 4 false
    ∧ th.pc = k.base + 8 * (recEntry r).setWidth 64 ∧ th.dla = s.effExpiry q.ctx (recLid r) ∧ th.dlb = s.effExpiry q.ctx (recLid r)
    ∧ th.waitcap = s.descWord q.ctx 8 ∧ th.ws = 0 ∧ th.rmode = 0 ∧ th.fflags = 0 ∧ th.lid = recLid r ∧ th.tstamp = recTstamp r ∧ th.priv = 0
    ∧ th.remain = (if recBudget r = 0 then 0xFFFFFFFF else recBudget r) ∧ th.loops = [] ∧ th.children = 0 ∧ th.parent = q.parent
/-- A wait on an object that suspensions reach (R253). -/
def State.waitsOn (s : State) (sl : Slot) (w : Wait) (obj : Nat) : Prop :=
  sl.wait = some w ∧ ∃ k r, sl.task = some k ∧ w.onObject = some r ∧ s.objKey k.ctx r = some obj
/-- A handle names a parked thread, in one context (R304). -/
def State.namesParked (s : State) (ctx : Nat) (item : Word) (c : Nat) (u : Fin 4) (p : Park) : Prop :=
  (∃ y, (ctx, y) ∈ s.contexts) ∧ s.item? ctx item = some (.thread c u) ∧ (s.slotAt c u).park = some p
    ∧ ∀ e ∈ s.contexts, e.1 ≠ ctx → s.item? e.1 item = none
/-- A command is answered (R333): its status and data leave for the host. -/
def State.told (s : State) (status : Word) (data : List Byte) : State := { s with replies := s.replies ++ [⟨status, data⟩] }
/-- The number in `n` bytes of memory from an address up. -/
def State.field (s : State) (pa n : Nat) : Nat := leNat (mbytes s.mem pa n)
/-- PRIO of a slot (R250): its task's, and 3 for a supervisor task. -/
def State.prioOf (s : State) (c : Nat) (t : Fin 4) : BitVec 2 :=
  match (s.slotAt c t).task with
  | some k => (match k.kind with | .supervisor .. => 3 | _ => k.prio)
  | none => 0
/-- The slot that R250 chooses among ready ones: one whose HP is 4, of those the lowest PRIO and the lowest number; with none, one of the highest
PRIO, the next in turn after the one of that PRIO that issued last. -/
def State.Chooses (s : State) (c : Nat) (ready : List (Fin 4)) (u : Fin 4) : Prop :=
  let hp (t : Fin 4) := (s.slotAt c t).hp
  let prio (t : Fin 4) := s.prioOf c t
  let turns (t : Fin 4) : Nat := (t.val + 3 - ((s.coreAt c).lastIssued.get (prio t).toFin).val) % 4
  u ∈ ready ∧ ((hp u = 4 ∧ ∀ t ∈ ready, hp t = 4 → prio u < prio t ∨ (prio u = prio t ∧ u ≤ t))
    ∨ ((∀ t ∈ ready, hp t ≠ 4) ∧ ∀ t ∈ ready, prio t < prio u ∨ (prio t = prio u ∧ turns u ≤ turns t)))
/-- The machine after slot u has issued among the ready ones of `s` (R250): its HP is 0, that of a ready slot of lower PRIO is one more, and every
other's is unchanged. -/
def State.issuedIn (s : State) (c : Nat) (ready : List (Fin 4)) (u : Fin 4) (t : State) : State :=
  let hp (v : Nat) (old : BitVec 3) : BitVec 3 := if v = u.val then 0 else if ∃ w ∈ ready, w.val = v ∧ s.prioOf c w < s.prioOf c u then old + 1 else old
  t.setCore c { t.coreAt c with
    slots := (t.coreAt c).slots.mapIdx fun v sl => { sl with hp := hp v sl.hp }
    lastIssued := (t.coreAt c).lastIssued.set (s.prioOf c u).toNat u (s.prioOf c u).isLt }
/-- A queue's event ring is full (R339). -/
def State.ringFull (s : State) (h : HostQueue) : Prop :=
  BitVec.ofNat 32 (s.field (h.pa + 0x38) 4) - BitVec.ofNat 32 (s.field (h.pa + 0x34) 4) = BitVec.ofNat 32 h.evsize
/-- A command that a queue may begin now (R335, R336): it runs, no command of it is in progress, its last visit saw one, its event ring has room, and the
slot's 128 bytes are as given. -/
def State.atCommand (s : State) (die q : Nat) (h : HostQueue) (l : List Byte) : Prop :=
  let prog := s.field (h.pa + 0x18) 4
  s.queueAt die q = some h ∧ h.parked = false ∧ h.stopped = false ∧ h.closing = false ∧ h.cur = none ∧ h.lastTail ≠ BitVec.ofNat 32 prog
    ∧ BitVec.ofNat 32 (s.field (h.pa + 0x38) 4) - BitVec.ofNat 32 (s.field (h.pa + 0x34) 4) ≠ BitVec.ofNat 32 h.evsize
    ∧ l = mbytes s.mem (h.ring + 128 * (prog % h.size)) 128
/-- PROG after a command (R336): its index goes up by 1, modulo 2^32. -/
def State.progNext (s : State) (h : HostQueue) : Nat :=
  let w := s.field (h.pa + 0x18) 8
  w - w % 2 ^ 32 + (w + 1) % 2 ^ 32
/-- A command is over (R336, R337, R339): PROG has gone up, and the queue, with nothing in progress, has the given events more. -/
def CommandOver (s t : State) (die q : Nat) (h : HostQueue) (evs : List (BitVec 512)) : Prop :=
  BytesWritten s.mem t.mem (h.pa + 0x18) (leBytes 8 (s.progNext h)) ∧ t.queueAt die q = some { h with cur := none, events := h.events ++ evs }
end Sys2Proof.Machine

namespace Sys2Proof

/-! ## Integers of a type (R111, R126) -/

/-- `sa` of R126: the low n bits of a register read as two's complement. -/
def Ty.sOf (ty : Ty) (x : Word) : Int := (x.setWidth ty.bits).toInt
/-- `ua` of R126: the low n bits of a register read unsigned. -/
def Ty.uOf (ty : Ty) (x : Word) : Int := (x.setWidth ty.bits).toNat
/-- The register that holds an unbounded integer as a result of a type (R126): reduced modulo 2^n, zero-extended for a type with a `z` and
sign-extended otherwise. -/
def Ty.regOf (ty : Ty) (z : Int) : Word :=
  if ty.isZ then (BitVec.ofInt ty.bits z).setWidth 64 else (BitVec.ofInt ty.bits z).signExtend 64

end Sys2Proof
end

