-- ==== Sys2Proof/Certificates/Slice0/Obligations.lean ====
section
/-! DEFINITION. The statements about this model that the provers are asked to prove: what each instruction, step and command does, what it
leaves alone, and what the machine keeps. -/

section
open Sys2Proof Sys2Proof.Machine

/-! ## Scalar integer arithmetic (R126 to R132) -/

/-- R126, R127: `add`, `sub` and the products write the exact result of their operation on the operands' n-bit patterns, reduced modulo 2^n and
extended by the type; nothing else changes. -/
def Piece.ScalarSumsAndProducts : Prop :=
  ∀ (s : State) (d a b : Fin 16) (ty : Ty), s.Plain →
    (ty.isInt → GivesG (.add d a b ty) s d (ty.regOf (ty.uOf (s.g a) + ty.uOf (s.g b)))
      ∧ GivesG (.sub d a b ty) s d (ty.regOf (ty.uOf (s.g a) - ty.uOf (s.g b)))
      ∧ GivesG (.mul d a b ty) s d (ty.regOf (ty.uOf (s.g a) * ty.uOf (s.g b))))
    ∧ (ty.isSigned → GivesG (.mulh d a b ty) s d (ty.regOf (ty.sOf (s.g a) * ty.sOf (s.g b) / 2 ^ ty.bits)))
    ∧ (ty.isUnsignedClass → GivesG (.mulhz d a b ty) s d (ty.regOf (ty.uOf (s.g a) * ty.uOf (s.g b) / 2 ^ ty.bits)))

/-- R127, R128: truncated division and its remainder, with the results of a zero divisor and of the most negative dividend over −1. -/
def Piece.ScalarDivision : Prop :=
  ∀ (s : State) (d a b : Fin 16) (ty : Ty), s.Plain →
    (ty.isSigned →
      (ty.sOf (s.g b) = 0 → GivesG (.div d a b ty) s d (ty.regOf (-1)) ∧ GivesG (.rem d a b ty) s d (ty.regOf (ty.sOf (s.g a))))
      ∧ (ty.sOf (s.g a) = -(2 ^ (ty.bits - 1)) → ty.sOf (s.g b) = -1 →
          GivesG (.div d a b ty) s d (ty.regOf (-(2 ^ (ty.bits - 1)))) ∧ GivesG (.rem d a b ty) s d 0)
      ∧ (ty.sOf (s.g b) ≠ 0 → GivesG (.div d a b ty) s d (ty.regOf (Int.tdiv (ty.sOf (s.g a)) (ty.sOf (s.g b))))
          ∧ GivesG (.rem d a b ty) s d
              (ty.regOf (ty.sOf (s.g a) - ty.sOf (s.g b) * Int.tdiv (ty.sOf (s.g a)) (ty.sOf (s.g b))))))
    ∧ (ty.isUnsignedClass →
      (ty.uOf (s.g b) = 0 → GivesG (.divz d a b ty) s d (ty.regOf (2 ^ ty.bits - 1))
          ∧ GivesG (.remz d a b ty) s d (ty.regOf (ty.uOf (s.g a))))
      ∧ (ty.uOf (s.g b) ≠ 0 → GivesG (.divz d a b ty) s d (ty.regOf (ty.uOf (s.g a) / ty.uOf (s.g b)))
          ∧ GivesG (.remz d a b ty) s d (ty.regOf (ty.uOf (s.g a) % ty.uOf (s.g b)))))

/-- R127: the bitwise operations on n-bit patterns, and the shifts and the rotation by the whole of g[RB] as an unsigned count, extended by the
type. -/
def Piece.ScalarBitsAndShifts : Prop :=
  ∀ (s : State) (d a b : Fin 16) (ty : Ty), s.Plain → ty.isInt →
    let x := (s.g a).setWidth ty.bits
    let y := (s.g b).setWidth ty.bits
    let k := (s.g b).toNat
    GivesG (.and d a b ty) s d (ty.regOf (x &&& y).toInt)
    ∧ GivesG (.or d a b ty) s d (ty.regOf (x ||| y).toInt)
    ∧ GivesG (.xor d a b ty) s d (ty.regOf (x ^^^ y).toInt)
    ∧ GivesG (.andn d a b ty) s d (ty.regOf (x &&& ~~~y).toInt)
    ∧ GivesG (.shl d a b ty) s d (ty.regOf (if ty.bits ≤ k then 0 else ty.uOf (s.g a) * 2 ^ k))
    ∧ GivesG (.shr d a b ty) s d (ty.regOf (if ty.bits ≤ k then 0 else ty.uOf (s.g a) / 2 ^ k))
    ∧ GivesG (.sra d a b ty) s d (ty.regOf (ty.sOf (s.g a) / 2 ^ min k (ty.bits - 1)))
    ∧ GivesG (.rotl d a b ty) s d (ty.regOf (x.rotateLeft (k % ty.bits)).toInt)

/-- R127: the counts of `clz`, `ctz` and `popc`, each by what it counts, and the lesser and the greater of two operands read signed or unsigned. -/
def Piece.ScalarCountsAndExtremes : Prop :=
  ∀ (s : State) (d a b : Fin 16) (ty : Ty), s.Plain →
    (ty.isInt →
      (∃ c, GivesG (.clz d a ty) s d (w64 c) ∧ c ≤ ty.bits ∧ (∀ j, ty.bits - c ≤ j → j < ty.bits → (s.g a).getLsbD j = false)
          ∧ (c < ty.bits → (s.g a).getLsbD (ty.bits - 1 - c) = true))
      ∧ (∃ c, GivesG (.ctz d a ty) s d (w64 c) ∧ c ≤ ty.bits ∧ (∀ j, j < c → (s.g a).getLsbD j = false)
          ∧ (c < ty.bits → (s.g a).getLsbD c = true))
      ∧ GivesG (.popc d a ty) s d (w64 ((List.range ty.bits).countP fun j => (s.g a).getLsbD j)))
    ∧ (ty.isSigned → GivesG (.min d a b ty) s d (ty.regOf (min (ty.sOf (s.g a)) (ty.sOf (s.g b))))
        ∧ GivesG (.max d a b ty) s d (ty.regOf (max (ty.sOf (s.g a)) (ty.sOf (s.g b)))))
    ∧ (ty.isUnsignedClass → GivesG (.minz d a b ty) s d (ty.regOf (min (ty.uOf (s.g a)) (ty.uOf (s.g b))))
        ∧ GivesG (.maxz d a b ty) s d (ty.regOf (max (ty.uOf (s.g a)) (ty.uOf (s.g b)))))

/-- The scalar integer instructions: `Piece.ScalarSumsAndProducts`, `Piece.ScalarDivision`, `Piece.ScalarBitsAndShifts`,
`Piece.ScalarCountsAndExtremes`. -/
def Obligations.ScalarArithmetic : Prop :=
  Piece.ScalarSumsAndProducts ∧ Piece.ScalarDivision ∧ Piece.ScalarBitsAndShifts ∧ Piece.ScalarCountsAndExtremes

/-- R130: the field of a descriptor, from pos to the least of pos + w and 64, taken out by `bfx` and put in by `bfi`, in the register and the
immediate forms, bit by bit. -/
def Piece.BitFields : Prop :=
  ∀ (s : State) (d a b : Fin 16) (imm : BitVec 13), s.Plain →
    let out (i : Instr) (desc : Nat) : Prop :=
      let pos := desc % 64
      let w := min (desc / 64 % 128) 64
      ∃ x : Word, GivesG i s d x ∧ ∀ j < 64, x.getLsbD j = (decide (j < w) && decide (pos + j < 64) && (s.g a).getLsbD (pos + j))
    let into (i : Instr) (desc : Nat) : Prop :=
      let pos := desc % 64
      let w := min (desc / 64 % 128) 64
      ∃ x : Word, GivesG i s d x ∧ ∀ j < 64, x.getLsbD j =
        if pos ≤ j ∧ j < pos + w then (s.g a).getLsbD (j - pos) else (s.g d).getLsbD j
    out (.bfx d a b) (s.g b).toNat ∧ out (.bfxImm d a imm) imm.toNat
    ∧ into (.bfi d a b) (s.g b).toNat ∧ into (.bfiImm d a imm) imm.toNat

/-- R131, R132, R82: `lea`, and the immediate forms at 64 bits, with those that the C slot has too. -/
def Piece.ImmediateForms : Prop :=
  ∀ (s : State) (d a b : Fin 16) (q : Fin 4) (imm : BitVec 17) (im : BitVec 16) (k : BitVec 6), s.Plain →
    let x := s.g a
    let v : Word := imm.signExtend 64
    let u : Word := imm.setWidth 64
    GivesG (.lea d a b q) s d (x + s.g b * BitVec.ofNat 64 (2 ^ q.val))
    ∧ GivesG (.addiA d a imm) s d (x + v)
    ∧ GivesG (.addiC d a im) s d (x + im.signExtend 64)
    ∧ GivesG (.moviA d imm) s d v
    ∧ GivesG (.moviC d im) s d (im.signExtend 64)
    ∧ GivesG (.mulImm d a imm) s d (x * v)
    ∧ GivesG (.andImm d a imm) s d (x &&& v)
    ∧ GivesG (.orImm d a imm) s d (x ||| v)
    ∧ GivesG (.xorImm d a imm) s d (x ^^^ v)
    ∧ GivesG (.shlImm d a k) s d (x <<< k.toNat)
    ∧ GivesG (.shrImm d a k) s d (x >>> k.toNat)
    ∧ GivesG (.sraImm d a k) s d (x.sshiftRight k.toNat)
    ∧ GivesG (.rotlImm d a k) s d (x.rotateLeft k.toNat)
    ∧ GivesG (.minImm d a imm) s d (if x.sle v then x else v)
    ∧ GivesG (.maxImm d a imm) s d (if x.sle v then v else x)
    ∧ GivesG (.minzImm d a imm) s d (if x ≤ u then x else u)
    ∧ GivesG (.maxzImm d a imm) s d (if x ≤ u then u else x)

/-- The bit-field instructions and the immediate forms: `Piece.BitFields`, `Piece.ImmediateForms`. -/
def Obligations.FieldsAndImmediates : Prop :=
  Piece.BitFields ∧ Piece.ImmediateForms

/-! ## The thread's own sequence (R88 to R98) -/

/-- R88, R89, R51: `nop` in either slot does nothing but go on, and the displaced branches go to the branch's address + 8 × DISP where they are taken,
on the predicate and the ws of before the unit; `call` links in g15. -/
def Piece.DisplacedBranches : Prop :=
  ∀ (s : State) (d : BitVec 24) (e : BitVec 22) (p : Fin 4), s.Plain →
    let far := s.th.pc + 8 * d.signExtend 64
    let near := s.th.pc + 8 * e.signExtend 64
    GivesThread .nopC s s.th ∧ GivesThread .nopA s s.th
    ∧ Jumps (.b d) s s.th far
    ∧ (s.th.p.get p = true → Jumps (.bc p e) s s.th near) ∧ (s.th.p.get p = false → GivesThread (.bc p e) s s.th)
    ∧ (s.th.p.get p = false → Jumps (.bnc p e) s s.th near) ∧ (s.th.p.get p = true → GivesThread (.bnc p e) s s.th)
    ∧ (s.th.ws.setWidth 8 = 0#8 → Jumps (.bok d) s s.th far) ∧ (s.th.ws.setWidth 8 ≠ 0#8 → GivesThread (.bok d) s s.th)
    ∧ (s.th.ws.setWidth 8 ≠ 0#8 → Jumps (.bfail d) s s.th far) ∧ (s.th.ws.setWidth 8 = 0#8 → GivesThread (.bfail d) s s.th)
    ∧ Jumps (.call d) s { s.th with g := s.th.g.set 15 (s.th.pc + 8) } far

/-- R90: the branches through a register go to the value it held before the unit, so that `call g15` jumps to the old g15 and then links; the target's
low three bits must be zero. -/
def Piece.RegisterBranches : Prop :=
  ∀ (s : State) (a : Fin 16), s.Plain →
    ((s.g a).toNat % 8 = 0 → Jumps (.j a) s s.th (s.g a)
      ∧ Jumps (.callReg a) s { s.th with g := s.th.g.set 15 (s.th.pc + 8) } (s.g a))
    ∧ ((s.g 15).toNat % 8 = 0 → Jumps .ret s s.th (s.g 15))

/-- R57, R90, R307: a register target whose low bits are not zero completes the branch unit with its link write kept, and the fetch there, which comes
after the breakpoints (R366), raises the fetch-alignment fault, cause 2 and SLOT 2, at the target as given, with the branch unit's address in ADDR. -/
def Piece.MisalignedTarget : Prop :=
  ∀ (s : State) (a : Fin 16) (v : Word) (run : Instr → State → Step), s.Plain →
    let goes (i : Instr) (th : Thread) (n : Word) : Prop :=
      n.toNat % 8 ≠ 0 → EndsIn i s { s.sl.jumped with misTarget := some n, thread := { th with pc := n - BitVec.ofNat 64 (n.toNat % 8) } }
    goes (.j a) s.th (s.g a) ∧ goes .ret s.th (s.g 15)
    ∧ goes (.callReg a) { s.th with g := s.th.g.set 15 (s.th.pc + 8) } (s.g a)
    ∧ (s.sl.misTarget = some v → s.sl.parkAsked = false → s.sl.overrun = false → s.sl.reload = none → s.breakHit = none →
        ∃ t, s.slotTurn run = .before t ∧ Trapped s 2 2 0 0 (s.sl.branchFrom.getD 0) v t)

/-- `nop` and the branches: `Piece.DisplacedBranches`, `Piece.RegisterBranches`, `Piece.MisalignedTarget`. -/
def Obligations.Branches : Prop :=
  Piece.DisplacedBranches ∧ Piece.RegisterBranches ∧ Piece.MisalignedTarget

/-- R91 to R93: `cmp` compares the operands' n-bit patterns as unbounded integers, `sel` picks by a predicate, and the five forms of `pset`; all
sources are read before the unit. -/
def Obligations.PredicatesAndSelection : Prop :=
  ∀ (s : State) (d x y q : Fin 4) (r a b : Fin 16) (ty : Ty), s.Plain →
    let u := if ty.isZ then ty.uOf (s.g a) else ty.sOf (s.g a)
    let v := if ty.isZ then ty.uOf (s.g b) else ty.sOf (s.g b)
    let p := fun i => s.th.p.get i
    (ty.isInt → GivesP (.cmp d a b .eq ty) s d (decide (u = v)) ∧ GivesP (.cmp d a b .ne ty) s d (decide (u ≠ v))
      ∧ GivesP (.cmp d a b .lt ty) s d (decide (u < v)) ∧ GivesP (.cmp d a b .le ty) s d (decide (u ≤ v))
      ∧ GivesP (.cmp d a b .gt ty) s d (decide (u > v)) ∧ GivesP (.cmp d a b .ge ty) s d (decide (u ≥ v)))
    ∧ (p q = true → GivesG (.sel r a b q) s r (s.g a)) ∧ (p q = false → GivesG (.sel r a b q) s r (s.g b))
    ∧ GivesP (.pset d a) s d (decide (s.g a ≠ 0)) ∧ GivesP (.psetAnd d x y) s d (p x && p y)
    ∧ GivesP (.psetOr d x y) s d (p x || p y) ∧ GivesP (.psetXor d x y) s d (p x ^^ p y) ∧ GivesP (.psetNot d x) s d (!p x)

/-- R94: `ldi` and `ldi.hi` are lone instructions of opcodes 0x0F and 0x10 in the CL layout, whose X is ignored and whose word 1 is LIT32; `ldi`
writes its sign-extended literal, `ldi.hi` writes the high half and leaves the low half; with L = 0 either opcode is a class fault. -/
def Obligations.Literals : Prop :=
  ∀ (s : State) (d : Fin 16) (x w1 : Nat) (lit : BitVec 32), s.Plain → x < 2 ^ 20 →
    readUnit (2 ^ 31 + 0x0F * 2 ^ 24 + d.val * 2 ^ 20 + x) lit.toNat = .lone (some (.ldi d lit))
    ∧ readUnit (2 ^ 31 + 0x10 * 2 ^ 24 + d.val * 2 ^ 20 + x) lit.toNat = .lone (some (.ldiHi d lit))
    ∧ readUnit (0x0F * 2 ^ 24 + d.val * 2 ^ 20 + x) w1 = .classFault ∧ readUnit (0x10 * 2 ^ 24 + d.val * 2 ^ 20 + x) w1 = .classFault
    ∧ GivesG (.ldi d lit) s d (lit.signExtend 64) ∧ GivesG (.ldiHi d lit) s d (lit ++ (s.g d).setWidth 32)

/-- R95 to R98: `loop` reads START, COUNT and STEP from the shape record of 16 bytes, skips the body on COUNT 0 and otherwise pushes an entry on a
stack of at most four; `lend` counts the top entry down with its step added to its register, or pops it, and `lend.pop` pops it. -/
def Piece.Loops : Prop :=
  ∀ (s : State) (ri rb : Fin 16) (nb : Bool) (disp : BitVec 13) (dist d : BitVec 24) (e : LoopEntry) (r : List LoopEntry), s.Plain →
    let rec16 := s.bufLoad .load .a (s.cmOff ⟨rb, .a, nb, disp⟩ 16) 16
    let start : Word := w64 (leNat (rec16.take 8))
    let count : BitVec 32 := BitVec.ofNat 32 (leNat ((rec16.drop 8).take 4))
    let step : BitVec 32 := BitVec.ofNat 32 (leNat ((rec16.drop 12).take 4))
    let g := s.th.g.set ri.val start ri.isLt
    (count = 0 → Jumps (.loop ri rb nb disp dist) s { s.th with g := g } (s.th.pc + 8 * (dist.setWidth 64 + 1)))
    ∧ (count ≠ 0 → s.th.loops.length < 4 →
        GivesThread (.loop ri rb nb disp dist) s { s.th with g := g, loops := ⟨count, step.signExtend 64, ri⟩ :: s.th.loops })
    ∧ (s.th.loops = e :: r →
        (1 < e.rem.toNat → Jumps (.lend d) s { s.th with
            g := s.th.g.set e.ri.val (s.g e.ri + e.step) e.ri.isLt, loops := { e with rem := e.rem - 1 } :: r }
            (s.th.pc + 8 * d.signExtend 64))
        ∧ (e.rem.toNat ≤ 1 → GivesThread (.lend d) s { s.th with loops := r })
        ∧ GivesThread .lendPop s { s.th with loops := r })

/-- R97, R98: a `loop` on a full stack and a `lend` or `lend.pop` on an empty one raise the loop-stack fault, cause 8, at the unit. -/
def Piece.LoopStackFault : Prop :=
  ∀ (s : State) (ri rb : Fin 16) (nb : Bool) (disp : BitVec 13) (dist d : BitVec 24), s.Plain →
    (4 ≤ s.th.loops.length → leNat (((s.bufLoad .load .a (s.cmOff ⟨rb, .a, nb, disp⟩ 16) 16).drop 8).take 4) ≠ 0 →
      RaisesTrap (.loop ri rb nb disp dist) s 8 0 0 0 0 s.th.pc)
    ∧ (s.th.loops = [] → RaisesTrap (.lend d) s 8 0 0 0 0 s.th.pc ∧ RaisesTrap .lendPop s 8 0 0 0 0 s.th.pc)

/-- The loop instructions: `Piece.Loops`, `Piece.LoopStackFault`. -/
def Obligations.LoopInstructions : Prop :=
  Piece.Loops ∧ Piece.LoopStackFault

/-! ## Traps by instruction (R83, R281, R316, R317) -/

/-- R316, R317, R83: `trap` raises software trap n with the low half of g[RA] as INFO; `brk` raises the breakpoint trap with its immediate, in a
context that no debugger has claimed; the fault opcodes of both slots raise the illegal-instruction fault of their slot. -/
def Piece.TrapInstructions : Prop :=
  ∀ (s : State) (a : Fin 16) (n : BitVec 5) (imm : BitVec 16), s.Plain →
    RaisesTrap (.trap a n) s (32 + n.toNat) 0 0 ((s.g a).toNat % 2 ^ 32) 0 s.th.pc
    ∧ ((∀ x, s.ctx? s.curCtx = some x → x.debug = none) → RaisesTrap (.brk imm) s 21 0 0 imm.toNat 0 s.th.pc)
    ∧ RaisesTrap .udf s 4 0 0 0 0 s.th.pc ∧ RaisesTrap .udfa s 4 1 0 0 0 s.th.pc

/-- R317, R366: in a context that a debugger has claimed, `brk` halts the thread at its unit with WHY 4 and IDX 0, and no trap is raised. -/
def Piece.BreakpointHalts : Prop :=
  ∀ (s : State) (imm : BitVec 16) (x : Context), s.Plain → s.ctx? s.curCtx = some x → x.debug ≠ none →
    EndsIn (.brk imm) s { s.sl.dropped with halt := some ⟨4, 0⟩ }

/-- `trap`, `brk` and the fault opcodes: `Piece.TrapInstructions`, `Piece.BreakpointHalts`. -/
def Obligations.TrapsAndBreakpoints : Prop :=
  Piece.TrapInstructions ∧ Piece.BreakpointHalts

/-! ## Control registers (R67, R281) -/

/-- R39, R40, R67, R70, R281, R349: `getc` gives each assigned register as it stands before the unit, TAGPEND with a bit for each tag that an entry
of the resident context waits under, not yet started nor cleared (one forwarded four times counts as none, log 90); an unassigned number is an illegal instruction of the C slot, and
ACTBASE below supervisor level a privilege fault. -/
def Piece.ReadControlRegister : Prop :=
  ∀ (s : State) (d : Fin 16) (n : BitVec 12), s.Plain →
    GivesG (.getc d 0x000) s d s.instant ∧ GivesG (.getc d 0x001) s d s.th.waitcap
    ∧ GivesG (.getc d 0x002) s d (s.th.lid.setWidth 64) ∧ GivesG (.getc d 0x003) s d s.th.tstamp
    ∧ GivesG (.getc d 0x004) s d (s.th.rmode.setWidth 64) ∧ GivesG (.getc d 0x005) s d (s.th.fflags.setWidth 64)
    ∧ GivesG (.getc d 0x006) s d (s.th.priv.setWidth 64) ∧ GivesG (.getc d 0x008) s d s.th.dla
    ∧ GivesG (.getc d 0x009) s d s.th.dlb ∧ GivesG (.getc d 0x00A) s d s.th.ws
    ∧ GivesG (.getc d 0x00B) s d (s.th.remain.setWidth 64) ∧ GivesG (.getc d 0x00C) s d (s.th.stealdom.setWidth 64)
    ∧ GivesG (.getc d 0x00D) s d (s.th.inldepth.setWidth 64)
    ∧ GivesG (.getc d 0x00E) s d ((if s.sl.dict.active then s.sl.dict.bank1 else s.sl.dict.bank0).handle.setWidth 64)
    ∧ GivesG (.getc d 0x010) s d (w64 (s.th.bufW.base.toNat * 65536 + s.th.bufW.size.toNat))
    ∧ GivesG (.getc d 0x011) s d (w64 (s.th.bufA.base.toNat * 65536 + s.th.bufA.size.toNat))
    ∧ GivesG (.getc d 0x012) s d (w64 (s.th.bufC.base.toNat * 65536 + s.th.bufC.size.toNat))
    ∧ GivesG (.getc d 0x013) s d 0x8000
    ∧ GivesG (.getc d 0x018) s d (s.co.fmta.setWidth 64) ∧ GivesG (.getc d 0x019) s d (s.co.fmtb.setWidth 64)
    ∧ GivesG (.getc d 0x01A) s d (s.co.fmtc.setWidth 64) ∧ GivesG (.getc d 0x01B) s d (s.co.scla.setWidth 64)
    ∧ GivesG (.getc d 0x01C) s d (s.co.sclb.setWidth 64) ∧ GivesG (.getc d 0x01D) s d (s.co.qknob.setWidth 64)
    ∧ (∀ c : Fin 8, GivesG (.getc d (0x020 + BitVec.ofNat 12 c.val)) s d
        (w64 ((s.co.chans.get c).cseq.toNat * 2 ^ 32 + (s.co.chans.get c).doneb.toNat)))
    ∧ (∀ w : Fin 4, GivesG (.getc d (0x030 + BitVec.ofNat 12 w.val)) s d (w64 (s.co.tagen.toNat / 2 ^ (64 * w.val) % 2 ^ 64)))
    ∧ (∀ w : Fin 4, ∃ x : Word, GivesG (.getc d (0x034 + BitVec.ofNat 12 w.val)) s d x ∧ ∀ j < 64, x.getLsbD j = true ↔
        ∃ e ∈ s.co.inbox, e.2.started = false ∧ e.2.cleared = false ∧ s.co.ctx = some e.2.ctx ∧ ((∃ m hops, e.2.entry = .message m hops ∧ hops < 4 ∧ (msgTag m).toNat = 64 * w.val + j)
          ∨ ∃ m, e.2.entry = .completion m ∧ (msgTag m).toNat = 64 * w.val + j))
    ∧ GivesG (.getc d 0x041) s d ((s.dieAt (dieOf s.curCore)).pool.setWidth 64)
    ∧ (s.th.priv ≠ 0 → GivesG (.getc d 0x040) s d (s.descWord s.curCtx 5))
    ∧ (s.th.priv = 0 → RaisesTrap (.getc d 0x040) s 5 0 0 0 0 s.th.pc)
    ∧ (CrUnassigned n → RaisesTrap (.getc d n) s 4 0 0 0 0 s.th.pc)

/-- R66, R67, R70, R99, R117, R121, R155 to R158, R242, R252: `setc` writes each register under its own limits: WAITCAP between 1,000 and the
context's ceiling, REMAIN never upwards, INLDEPTH at most 8, the allocation sizes in multiples of 64 up to the descriptor's, DICTH as `dset` does, and
the core's format registers; a read-only register keeps its value. -/
def Piece.WriteControlRegister : Prop :=
  ∀ (s : State) (a : Fin 16) (n : BitVec 12), s.Plain →
    let v := s.g a
    let size (al : Alloc) : Alloc := { al with size := BitVec.ofNat 16 (max 64 (min (v.toNat % 65536 / 64 * 64) al.max.toNat)) }
    let core (n : BitVec 12) (x : Core) : Prop :=
      exec (.setc a n) s = .next ((s.setCo x).setSl { s.sl.ended with thread := { s.th with pc := s.th.pc + 8 } })
    (s.descWord s.curCtx 9 ≥ 1000 → GivesThread (.setc a 0x001) s { s.th with
        waitcap := if v < 1000 then 1000 else if s.descWord s.curCtx 9 < v then s.descWord s.curCtx 9 else v })
    ∧ GivesThread (.setc a 0x004) s { s.th with rmode := v.setWidth 2 }
    ∧ GivesThread (.setc a 0x005) s { s.th with fflags := v.setWidth 5 }
    ∧ GivesThread (.setc a 0x008) s { s.th with dla := v } ∧ GivesThread (.setc a 0x009) s { s.th with dlb := v }
    ∧ GivesThread (.setc a 0x00A) s { s.th with ws := v &&& 0xFFFFFFFF000000FF }
    ∧ GivesThread (.setc a 0x00B) s { s.th with remain := if v.setWidth 32 < s.th.remain then v.setWidth 32 else s.th.remain }
    ∧ GivesThread (.setc a 0x00C) s { s.th with stealdom := v.setWidth 2 }
    ∧ GivesThread (.setc a 0x00D) s { s.th with inldepth := if 8 < v.toNat % 16 then 8 else v.setWidth 4 }
    ∧ (64 ≤ s.th.bufW.max → GivesThread (.setc a 0x010) s { s.th with bufW := size s.th.bufW })
    ∧ (64 ≤ s.th.bufA.max → GivesThread (.setc a 0x011) s { s.th with bufA := size s.th.bufA })
    ∧ (64 ≤ s.th.bufC.max → GivesThread (.setc a 0x012) s { s.th with bufC := size s.th.bufC })
    ∧ core 0x018 { s.co with fmta := v.setWidth 4 } ∧ core 0x019 { s.co with fmtb := v.setWidth 4 }
    ∧ core 0x01B { s.co with scla := v.setWidth 32 &&& 0xC00FFFFF } ∧ core 0x01C { s.co with sclb := v.setWidth 32 &&& 0xC00FFFFF }
    ∧ (∀ w : Fin 4, ∃ tag : BitVec 256, core (0x030 + BitVec.ofNat 12 w.val) { s.co with tagen := tag }
        ∧ ∀ j < 256, tag.getLsbD j = if j / 64 = w.val then v.getLsbD (j % 64) else s.co.tagen.getLsbD j)
    ∧ core 0x01A { s.co with fmtc := v.setWidth 4 } ∧ core 0x01D { s.co with qknob := v.setWidth 4 }
    ∧ SelectsBank (.setc a 0x00E) s (v.setWidth 32)
    ∧ (∀ n ∈ [0x000, 0x002, 0x003, 0x006, 0x013, 0x020, 0x021, 0x022, 0x023, 0x024, 0x025, 0x026, 0x027, 0x034, 0x035, 0x036, 0x037, 0x041],
        GivesThread (.setc a n) s s.th)
    ∧ (s.th.priv ≠ 0 → GivesThread (.setc a 0x040) s s.th)
    ∧ (s.th.priv = 0 → RaisesTrap (.setc a 0x040) s 5 0 0 0 0 s.th.pc)
    ∧ (CrUnassigned n → RaisesTrap (.setc a n) s 4 0 0 0 0 s.th.pc)

/-- `getc` and `setc`: `Piece.ReadControlRegister`, `Piece.WriteControlRegister`. -/
def Obligations.ControlRegisters : Prop :=
  Piece.ReadControlRegister ∧ Piece.WriteControlRegister

/-! ## Floating point (R133 to R143) -/

/-- R133 to R143, R121: each scalar floating-point instruction writes the zero-extended pattern of its operation on the operands' patterns under
RMODE, and its flags are gathered in FFLAGS and in the context's summary word; `fcmp` writes a predicate and no general register. -/
def Piece.ScalarFloat : Prop :=
  ∀ (s : State) (d a b c : Fin 16) (p : Fin 4) (ty src : Ty) (sat : Bool) (md : RMode) (cc : FCc), s.Plain →
    let f := ffmtOf ty
    let m := s.th.rmode
    let x := (s.g a).toNat
    let y := (s.g b).toNat
    (ty.isFs →
      GivesFp (.fadd d a b ty) s d (f.fadd m x y) ∧ GivesFp (.fsub d a b ty) s d (f.fsub m x y)
      ∧ GivesFp (.fmul d a b ty) s d (f.fmul m x y) ∧ GivesFp (.ffma d a b c ty) s d (f.ffma m x y (s.g c).toNat)
      ∧ GivesFp (.fmin d a b ty) s d (f.minmax false false x y) ∧ GivesFp (.fmax d a b ty) s d (f.minmax true false x y)
      ∧ GivesFp (.fscaleb d a b ty) s d (f.fscaleb m x (s.g b).toInt)
      ∧ GivesFp (.frint d a ty md) s d (f.frint (match md with | .dyn => m | .rne => 0 | .rtz => 1 | .rup => 2 | .rdn => 3) x)
      ∧ GivesFp (.frcp d a ty) s d (f.frcp m x) ∧ GivesFp (.frsq d a ty) s d (f.frsq x) ∧ GivesFp (.fsqrt d a ty) s d (f.fsqrt m x)
      ∧ exec (.fcmp p a b ty cc) s = .next ((s.setSl { s.sl.ended with thread := { s.th with
          p := s.th.p.set p.val (f.fcmp cc x y).1 p.isLt, pc := s.th.pc + 8, fflags := s.th.fflags ||| (f.fcmp cc x y).2 } }).raise
            (clusterOf s.curCore) s.curCtx (f.fcmp cc x y).2))
    ∧ (ty.isFloat → GivesFp (.fclass d a ty) s d (f.fclass x, 0))
    ∧ GivesFp (.fexp2f d a) s d (fexp2f x)
    ∧ (ty.isFloat → src.isFloat → GivesFp (.fcvt d a ty sat src) s d (cvtFF f (ffmtOf src) m sat x))
    ∧ (ty.isFloat → src.isInt → GivesFp (.fcvt d a ty sat src) s d
        (cvtIF f m sat (if src.isZ then src.uOf (s.g a) else src.sOf (s.g a))))
    ∧ (ty.isInt → src.isFloat → GivesFp (.fcvt d a ty sat src) s d
        ((ty.regOf (cvtFI ty (ffmtOf src) m sat x).1).toNat, (cvtFI ty (ffmtOf src) m sat x).2))

/-- R136: the sign forms keep every magnitude bit of a, set the sign bit from b, its inverse or the exclusive-or of both signs, clear the register
above the pattern, and raise no flag. -/
def Piece.SignForms : Prop :=
  ∀ (s : State) (d a b : Fin 16) (ty : Ty), s.Plain → ty.isFloat →
    let n := ty.bits
    let form (i : Instr) (sign : Bool) : Prop := ∃ x : Word, GivesG i s d x
      ∧ (∀ j < n - 1, x.getLsbD j = (s.g a).getLsbD j) ∧ x.getLsbD (n - 1) = sign ∧ (∀ j, n ≤ j → x.getLsbD j = false)
    form (.fsgn d a b ty) ((s.g b).getLsbD (n - 1))
    ∧ form (.fsgnN d a b ty) (!(s.g b).getLsbD (n - 1))
    ∧ form (.fsgnX d a b ty) ((s.g a).getLsbD (n - 1) ^^ (s.g b).getLsbD (n - 1))

/-- R134, R135, R137, R139, R140, R142: NaN operands and invalid operations give the canonical NaN, with NV where an operand is signalling or the
operation is invalid; a zero times an infinity is invalid in `ffma` whatever the addend holds. -/
def Piece.FloatSpecialCases : Prop :=
  ∀ (f : FFmt) (m : BitVec 2) (x y z : Nat),
    let nan (v : Nat) : Bool := match f.val v with | .nan _ => true | _ => false
    let sig (v : Nat) : Bool := match f.val v with | .nan g => g | _ => false
    let zero (v : Nat) : Bool := match f.val v with | .fin _ 0 _ => true | _ => false
    let inf (v : Nat) : Bool := match f.val v with | .inf _ => true | _ => false
    let sign (v : Nat) : Bool := match f.val v with | .inf g => g | .fin g _ _ => g | .nan _ => false
    let nv (c : Bool) : BitVec 5 := if c then 16 else 0
    (nan x || nan y → f.fadd m x y = (f.nan, nv (sig x || sig y)) ∧ f.fsub m x y = (f.nan, nv (sig x || sig y))
        ∧ f.fmul m x y = (f.nan, nv (sig x || sig y)) ∧ f.minmax false false x y = (f.nan, nv (sig x || sig y)))
    ∧ (inf x → inf y → sign x ≠ sign y → f.fadd m x y = (f.nan, 16))
    ∧ (inf x → inf y → sign x = sign y → f.fsub m x y = (f.nan, 16) ∧ f.fadd m x y = (f.inf (sign x), 0))
    ∧ ((zero x && inf y) || (inf x && zero y) → f.fmul m x y = (f.nan, 16) ∧ f.ffma m x y z = (f.nan, 16))
    ∧ (¬((zero x && inf y) || (inf x && zero y)) → nan x || nan y || nan z →
        f.ffma m x y z = (f.nan, nv (sig x || sig y || sig z)))
    ∧ (nan x → f.fsqrt m x = (f.nan, nv (sig x)) ∧ f.frcp m x = (f.nan, nv (sig x)) ∧ f.frsq x = (f.nan, nv (sig x))
        ∧ f.frint m x = (f.nan, nv (sig x)) ∧ (∀ k, f.fscaleb m x k = (f.nan, nv (sig x))))
    ∧ (zero x → f.frcp m x = (f.inf (sign x), 8) ∧ f.frsq x = (f.inf (sign x), 8) ∧ f.fsqrt m x = (f.signBit (sign x), 0))
    ∧ (inf x → sign x → f.fsqrt m x = (f.nan, 16) ∧ f.frsq x = (f.nan, 16) ∧ f.frcp m x = (f.signBit true, 0))
    ∧ (nan x || nan y → (f.fcmp .lt x y).1 = false ∧ (f.fcmp .lt x y).2 = 16 ∧ (f.fcmp .eq x y).1 = false
        ∧ (f.fcmp .ne x y).1 = true ∧ (f.fcmp .uo x y).1 = true ∧ (f.fcmp .eq x y).2 = nv (sig x || sig y))

/-- R118, R119: `RoundTo` toward zero of an exact value m × 2^e with m not 0 that is not above the largest finite value gives a value not above it
whose next larger significand on the same grid is above it, and NX exactly where the value was not exact. -/
def Piece.RoundTowardZero : Prop :=
  ∀ (ty : Ty) (sg : Bool) (m : Nat) (e : Int), ty.isFs → m ≠ 0 →
    let f := ffmtOf ty
    (Nat.log2 m : Int) + e ≤ f.emax →
    ∃ (sig : Nat) (g : Int), f.val (f.round 1 false sg m e).1 = .fin sg sig g
      ∧ sig * 2 ^ (g - min g e).toNat ≤ m * 2 ^ (e - min g e).toNat
      ∧ m * 2 ^ (e - min g e).toNat < (sig + 1) * 2 ^ (g - min g e).toNat
      ∧ ((f.round 1 false sg m e).2.getLsbD 0 = true ↔ sig * 2 ^ (g - min g e).toNat ≠ m * 2 ^ (e - min g e).toNat)

/-- R118, R119: `RoundTo` of every nonzero number m × 2^e, under each of the four modes, in each format. -/
def Piece.RoundingModes : Prop :=
  ∀ (ty : Ty) (mode : BitVec 2) (sat sg : Bool) (m : Nat) (e : Int), ty.isFloat → m ≠ 0 →
    Rounds (ffmtOf ty) mode sat sg m e ((ffmtOf ty).round mode sat sg m e)

/-- R134, R139, R140, R143: on operands that are numbers, the sum, the difference, the product, the fused product and sum, the roots and the
reciprocal, and the scaled value are each RoundTo of the exact result, `frsq` toward zero in every mode; an exact sum of 0 takes the operands' sign,
or + but − toward −∞; `frint` gives the integer under the mode, with no flag. -/
def Piece.ArithmeticValues : Prop :=
  ∀ (ty : Ty) (mode : BitVec 2) (x y z : Nat) (sx sy sz : Bool) (a b c : Nat) (p q r k : Int), ty.isFs →
    let f := ffmtOf ty
    f.val x = .fin sx a p → f.val y = .fin sy b q → f.val z = .fin sz c r →
    let at_ (g : Bool) (m : Nat) (e lo : Int) : Int := (if g then -1 else 1) * (m * 2 ^ (e - lo).toNat : Nat)
    let sums (g h : Bool) (m n : Nat) (e d : Int) (res : FRes) : Prop :=
      let lo := min e d
      let v := at_ g m e lo + at_ h n d lo
      (v ≠ 0 → Rounds f mode false (decide (v < 0)) v.natAbs lo res)
        ∧ (v = 0 → res = (f.signBit (if m = 0 ∧ n = 0 ∧ g = h then g else mode == 3), 0))
    sums sx sy a b p q (f.fadd mode x y) ∧ sums sx (!sy) a b p q (f.fsub mode x y)
    ∧ sums (sx ^^ sy) sz (a * b) c (p + q) r (f.ffma mode x y z)
    ∧ (a * b ≠ 0 → Rounds f mode false (sx ^^ sy) (a * b) (p + q) (f.fmul mode x y)) ∧ (a * b = 0 → f.fmul mode x y = (f.signBit (sx ^^ sy), 0))
    ∧ (a ≠ 0 → RoundsTo f mode false sx (fun v g => atMost (v * a) (g + p) 1 0) (fun v g => atMost 1 0 (v * a) (g + p)) (f.frcp mode x))
    ∧ (a ≠ 0 → sx = false →
        RoundsTo f mode false false (fun v g => atMost (v * v) (2 * g) a p) (fun v g => atMost a p (v * v) (2 * g)) (f.fsqrt mode x)
        ∧ RoundsTo f 1 false false (fun v g => atMost (v * v * a) (2 * g + p) 1 0) (fun v g => atMost 1 0 (v * v * a) (2 * g + p)) (f.frsq x))
    ∧ (a ≠ 0 → sx = true → f.fsqrt mode x = (f.nan, 16) ∧ f.frsq x = (f.nan, 16))
    ∧ (a ≠ 0 → Rounds f mode false sx a (p + k) (f.fscaleb mode x k)) ∧ (a = 0 → f.fscaleb mode x k = (f.signBit sx, 0))
    ∧ (∃ v w g, RoundsInt mode sx a p v ∧ f.val (f.frint mode x).1 = .fin sx w g ∧ atMost w g v 0 ∧ atMost v 0 w g ∧ (f.frint mode x).2 = 0)

/-- R120, R141: a conversion forms its source's exact value and rounds it once: to a float by RoundTo, an infinity and a NaN by the table; to an
integer under the mode, with NX where that changed it, and NV with the top bit alone, or the saturated value, where it is out of range. -/
def Piece.ConversionValues : Prop :=
  ∀ (ty src : Ty) (mode : BitVec 2) (sat sg : Bool) (x m : Nat) (e v : Int), src.isFloat →
    let f := ffmtOf src
    let d := ffmtOf ty
    let least : Int := leastOf ty
    let most : Int := greatestOf ty
    let pat (z : Int) : Nat := (z % 2 ^ ty.bits).toNat
    (ty.isFloat →
      (f.val x = .fin sg m e → m ≠ 0 → Rounds d mode sat sg m e (cvtFF d f mode sat x))
      ∧ (f.val x = .fin sg 0 e → cvtFF d f mode sat x = (d.signBit sg, 0))
      ∧ (f.val x = .inf sg → d.noInf = false → cvtFF d f mode sat x = (d.inf sg, 0))
      ∧ (f.val x = .inf sg → d.noInf = true → cvtFF d f mode sat x = (if sat then d.maxF sg else d.nan, 16))
      ∧ (f.val x = .nan sg → cvtFF d f mode sat x = (d.nan, if sg then 16 else 0))
      ∧ (v ≠ 0 → Rounds d mode sat (decide (v < 0)) v.natAbs 0 (cvtIF d mode sat v)) ∧ (v = 0 → cvtIF d mode sat v = (0, 0)))
    ∧ (ty.isInt →
      (f.val x = .fin sg m e → ∃ w : Nat, RoundsInt mode sg m e w ∧
        let z : Int := if sg then -(w : Int) else w
        let nx : BitVec 5 := if atMost w 0 m e ∧ atMost m e w 0 then 0 else 1
        (least ≤ z ∧ z ≤ most → cvtFI ty f mode sat x = (pat z, nx))
          ∧ (z < least → cvtFI ty f mode sat x = (if sat then pat least else 2 ^ (ty.bits - 1), nx ||| 16))
          ∧ (most < z → cvtFI ty f mode sat x = (if sat then pat most else 2 ^ (ty.bits - 1), nx ||| 16)))
      ∧ (f.val x = .inf sg → cvtFI ty f mode sat x = (if sat then pat (if sg then least else most) else 2 ^ (ty.bits - 1), 16))
      ∧ (f.val x = .nan sg → cvtFI ty f mode sat x = (if sat then 0 else 2 ^ (ty.bits - 1), 16)))

/-- R114, R138, R142: `fclass` sets the one bit of its operand's class; `fexp2f` gives 1 for a zero, and the canonical NaN, with NV, for what lies
outside −0.5 to 0.5; and the worked values of both ends and of the least operands. -/
def Piece.ClassAndExponentialValues : Prop :=
  ∀ (ty : Ty) (x : Nat) (sg : Bool) (m : Nat) (e : Int),
    let f := ffmtOf ty
    let g := ffmtOf .f32
    (ty.isFloat →
      (f.val x = .inf sg → f.fclass x = if sg then 0x001 else 0x080)
      ∧ (f.val x = .fin sg m e → 2 ^ (f.p - 1) ≤ m → f.fclass x = if sg then 0x002 else 0x040)
      ∧ (f.val x = .fin sg m e → m ≠ 0 → m < 2 ^ (f.p - 1) → f.fclass x = if sg then 0x004 else 0x020)
      ∧ (f.val x = .fin sg 0 e → f.fclass x = if sg then 0x008 else 0x010)
      ∧ (f.val x = .nan sg → f.fclass x = if sg then 0x100 else 0x200))
    ∧ (g.val x = .nan sg → fexp2f x = (0x7FC00000, if sg then 16 else 0)) ∧ (g.val x = .inf sg → fexp2f x = (0x7FC00000, 16))
    ∧ (g.val x = .fin sg 0 e → fexp2f x = (0x3F800000, 0)) ∧ (g.val x = .fin sg m e → ¬atMost m e 1 (-1) → fexp2f x = (0x7FC00000, 16))
    ∧ fexp2f 0x3F000000 = (0x3FB504F3, 1) ∧ fexp2f 0xBF000000 = (0x3F3504F3, 1) ∧ fexp2f 0x80000001 = (0x3F7FFFFF, 1)
    ∧ fexp2f 0x00000001 = (0x3F800000, 1) ∧ fexp2f 0x3F000001 = (0x7FC00000, 16)

/-- The scalar floating-point instructions: `Piece.ScalarFloat`, `Piece.SignForms`, `Piece.FloatSpecialCases`, `Piece.RoundTowardZero`,
`Piece.RoundingModes`, `Piece.ArithmeticValues`, `Piece.ConversionValues`, `Piece.ClassAndExponentialValues`. -/
def Obligations.ScalarFloatingPoint : Prop :=
  Piece.ScalarFloat ∧ Piece.SignForms ∧ Piece.FloatSpecialCases ∧ Piece.RoundTowardZero ∧ Piece.RoundingModes ∧ Piece.ArithmeticValues ∧ Piece.ConversionValues ∧ Piece.ClassAndExponentialValues

/-! ## Vectors (R144 to R153) -/

/-- R144, R145: the elementwise arithmetic of two vectors, and of a vector and a general register in every lane: sums, differences and products by the
scalar rule of the lane's type, saturating sums of integers, extremes, bitwise operations and shifts; an inactive lane keeps its bits. -/
def Obligations.VectorArithmetic : Prop :=
  ∀ (s : State) (d a b c : Fin 16) (k : VMask) (ty : Ty) (fn : Bool), s.Plain →
    let f := ffmtOf ty
    let m := s.th.rmode
    let n := ty.bits
    let x := s.vl ty a
    let z := s.vl ty c
    let lanes (i : Instr) (g : Nat → FRes) : Prop := GivesLanes i s d k n ty.lanes g
    let sum (u v : Nat) : FRes := if ty.isFs then f.fadd m u v else if fn then satLane ty (numOf ty u + numOf ty v) else intLane ty (u + v)
    let dif (u v : Nat) : FRes := if ty.isFs then f.fsub m u v else if fn then satLane ty (numOf ty u - numOf ty v) else intLane ty (u - v)
    let mul (u v : Nat) : FRes := if ty.isFs then f.fmul m u v else intLane ty (u * v)
    let fma (u v w : Nat) : FRes := if ty.isFs then f.ffma m u v w else intLane ty (u * v + w)
    let lo (u v : Nat) : FRes := if ty.isFs then f.minmax false fn u v else intLane ty (min (numOf ty u) (numOf ty v))
    let hi (u v : Nat) : FRes := if ty.isFs then f.minmax true fn u v else intLane ty (max (numOf ty u) (numOf ty v))
    let shl (u v : Nat) : FRes := intLane ty (if n ≤ v then 0 else u * 2 ^ v)
    let shr (u v : Nat) : FRes := intLane ty (if n ≤ v then 0 else u / 2 ^ v)
    let sra (u v : Nat) : FRes := intLane ty ((BitVec.ofNat n u).toInt / 2 ^ min v (n - 1))
    let y := s.vl ty b
    let w : Nat := (s.g b).toNat % 2 ^ n
    (ty.isVi || ty.isFs →
      lanes (.vadd d a b k ty fn) (fun i => sum (x i) (y i)) ∧ lanes (.vaddS d a b k ty fn) (fun i => sum (x i) w)
      ∧ lanes (.vsub d a b k ty fn) (fun i => dif (x i) (y i)) ∧ lanes (.vsubS d a b k ty fn) (fun i => dif (x i) w)
      ∧ lanes (.vmul d a b k ty) (fun i => mul (x i) (y i)) ∧ lanes (.vmulS d a b k ty) (fun i => mul (x i) w)
      ∧ lanes (.vfma d a b c k ty) (fun i => fma (x i) (y i) (z i)) ∧ lanes (.vfmaS d a b c k ty) (fun i => fma (x i) w (z i))
      ∧ lanes (.vmin d a b k ty fn) (fun i => lo (x i) (y i)) ∧ lanes (.vminS d a b k ty fn) (fun i => lo (x i) w)
      ∧ lanes (.vmax d a b k ty fn) (fun i => hi (x i) (y i)) ∧ lanes (.vmaxS d a b k ty fn) (fun i => hi (x i) w))
    ∧ (ty.isVi →
      lanes (.vshl d a b k ty) (fun i => shl (x i) (y i)) ∧ lanes (.vshlS d a b k ty) (fun i => shl (x i) w)
      ∧ lanes (.vshr d a b k ty) (fun i => shr (x i) (y i)) ∧ lanes (.vshrS d a b k ty) (fun i => shr (x i) w)
      ∧ lanes (.vsra d a b k ty) (fun i => sra (x i) (y i)) ∧ lanes (.vsraS d a b k ty) (fun i => sra (x i) w)
      ∧ lanes (.vpopc d a k ty) (fun i => (((List.range n).countP fun j => (x i).testBit j), 0)))
    ∧ lanes (.vand d a b k ty) (fun i => (x i &&& y i, 0)) ∧ lanes (.vor d a b k ty) (fun i => (x i ||| y i, 0))
    ∧ lanes (.vxor d a b k ty) (fun i => (x i ^^^ y i, 0))

/-- R146, R149, R150: lane comparisons write a mask whose bits of inactive lanes stay and whose bits from the lane count on are 0; selection, the byte
permute, the eight patterns, the broadcast, and the single lanes move bits and raise no flag. -/
def Piece.VectorMoves : Prop :=
  ∀ (s : State) (d a b c : Fin 16) (mk q : Fin 8) (k : VMask) (ty : Ty) (cc : FCc) (fn : Bool), s.Plain →
    let n := ty.bits
    let l := ty.lanes
    let x := s.vl ty a
    let y := s.vl ty b
    let both (j : Nat) : Nat := if j < l then x j else y (j - l)
    let lanes (i : Instr) (g : Nat → Nat) : Prop := GivesLanes i s d k n l (fun j => (g j, 0))
    let cmp (j : Nat) : Bool × BitVec 5 := if ty.isFs then (ffmtOf ty).fcmp cc (x j) (y j) else
      let u := numOf ty (x j)
      let v := numOf ty (y j)
      (compares cc u v, 0)
    ((ty.isVi || ty.isFs) → ∃ (w : Word) (fl : BitVec 5),
      exec (.vcmp mk a b cc k ty) s = .next ((s.setSl { s.sl.ended with
        m := s.sl.m.set mk.val w mk.isLt, thread := { s.th with pc := s.th.pc + 8, fflags := s.th.fflags ||| fl } }).raise
          (clusterOf s.curCore) s.curCtx fl)
      ∧ (∀ j < l, w.getLsbD j = if s.active k j then (cmp j).1 else (s.sl.m.get mk).getLsbD j)
      ∧ (∀ j, l ≤ j → w.getLsbD j = false)
      ∧ (∀ e < 5, fl.getLsbD e = true ↔ ∃ j < l, s.active k j = true ∧ (cmp j).2.getLsbD e = true))
    ∧ lanes (.vsel d a b q k ty) (fun j => if (s.sl.m.get q).getLsbD j then x j else y j)
    ∧ lanes (.vbcast d b k ty) (fun _ => (s.g b).toNat % 2 ^ n)
    ∧ (ty.isPerm → lanes (.vperm d a b c k ty fn) (fun j =>
        if fn ∧ 128 ≤ s.vl ty c j then 0 else both (s.vl ty c j % 128)))
    ∧ lanes (.vpermi d a b .ilo k ty) (fun j => both (if j % 2 = 0 then j / 2 else l + j / 2))
    ∧ lanes (.vpermi d a b .ihi k ty) (fun j => both (if j % 2 = 0 then l / 2 + j / 2 else l + l / 2 + j / 2))
    ∧ lanes (.vpermi d a b .even k ty) (fun j => both (2 * j)) ∧ lanes (.vpermi d a b .odd k ty) (fun j => both (2 * j + 1))
    ∧ lanes (.vpermi d a b .rev k ty) (fun j => both (l - 1 - j))
    ∧ lanes (.vpermi d a b .swap k ty) (fun j => both (if j % 2 = 0 then j + 1 else j - 1))
    ∧ lanes (.vpermi d a b .rot k ty) (fun j => both (j + 1))
    ∧ lanes (.vpermi d a b .cat k ty) (fun j => both (if j < l / 2 then j else l + j - l / 2))
    ∧ GivesG (.vext d a b ty) s d (if ty = .b ∨ ty = .h ∨ ty = .w then (BitVec.ofNat n (x ((s.g b).toNat % l))).signExtend 64
        else w64 (x ((s.g b).toNat % l)))
    ∧ ∃ v, GivesV (.vins d a b ty) s d v 0 ∧ ∀ j < l, laneOf n v j =
        if j = (s.g b).toNat % l then (s.g a).toNat % 2 ^ n else laneOf n (s.sl.v.get d) j

/-- R147, R148: the lane conversions between types at one width, to half and to twice the width, and the rounding and exponent instructions by their
scalar rules; integers narrow to their low bits or, saturating, to the range of the destination, and widen exactly. -/
def Piece.VectorConversions : Prop :=
  ∀ (s : State) (d a b : Fin 16) (k : VMask) (ty src : Ty) (md : RMode) (fn h : Bool), s.Plain →
    let m := s.th.rmode
    let l := ty.lanes
    let x := s.vl src a
    let lanes (i : Instr) (g : Nat → FRes) : Prop := GivesLanes i s d k ty.bits l g
    let from2 (j : Nat) : Nat := if j < l / 2 then s.vl src a j else s.vl src b (j - l / 2)
    let up (j : Nat) : Nat := s.vl src a ((if h then l else 0) + j)
    (vcvtPair ty src → lanes (.vcvt d a src k ty fn) (fun j => convert ty src m fn (x j)))
    ∧ (vnarrowPair ty src → lanes (.vnarrow d a b src k ty fn) (fun j =>
        if ty.isInt && src.isInt then (if fn then satLane ty (numOf src (from2 j)) else intLane ty (numOf src (from2 j)))
        else convert ty src m fn (from2 j)))
    ∧ (vwidenPair ty src → lanes (.vwiden d a h src k ty) (fun j =>
        if ty.isInt && src.isInt then intLane ty (numOf src (up j)) else convert ty src m false (up j)))
    ∧ (ty.isFs → lanes (.vrint d a md k ty) (fun j =>
          (ffmtOf ty).frint (match md with | .dyn => m | .rne => 0 | .rtz => 1 | .rup => 2 | .rdn => 3) (s.vl ty a j))
        ∧ lanes (.vscaleb d a b k ty) (fun j => (ffmtOf ty).fscaleb m (s.vl ty a j) (BitVec.ofNat ty.bits (s.vl ty b j)).toInt))
    ∧ GivesLanes (.vexp2f d a k) s d k 32 16 (fun j => fexp2f (s.vl .f32 a j))

/-- The vector comparisons, moves and conversions: `Piece.VectorMoves`, `Piece.VectorConversions`. -/
def Obligations.VectorMovesAndConversions : Prop :=
  Piece.VectorMoves ∧ Piece.VectorConversions

/-- R151 to R153: reductions and scans combine the active lanes in ascending order with one rounding or wrap a step, the first of them as it stands and
without a flag (the model's reading of a lone NaN, log 104); digit counts add to sixteen 32-bit counters; dot products add four signed or unsigned
byte products to each active 32-bit lane. -/
def Obligations.VectorReductions : Prop :=
  ∀ (s : State) (d a b : Fin 16) (op : RedOp) (k : VMask) (ty : Ty) (fn : Bool), s.Plain →
    let m := s.th.rmode
    let all := redOf op ty m (s.activeLanes a k ty ty.lanes)
    (redOk op ty →
      GivesV (.vred d a op k ty) s d (BitVec.ofNat 512 all.1) all.2
      ∧ ∃ v, GivesV (.vscan d a op k ty fn) s d v all.2 ∧ ∀ j < ty.lanes, laneOf ty.bits v j =
          if s.active k j then (redOf op ty m (s.activeLanes a k ty (if fn then j else j + 1))).1 % 2 ^ ty.bits
          else laneOf ty.bits (s.sl.v.get d) j)
    ∧ (ty.isVi → ∃ v, GivesV (.vbin d a b k ty) s d v 0 ∧ ∀ j < 16, laneOf 32 v j =
        (laneOf 32 (s.sl.v.get d) j
          + (s.activeLanes a k ty ty.lanes).countP fun x => x / 2 ^ ((s.g b).toNat % 64) % 16 = j) % 2 ^ 32)
    ∧ (ty = .b ∨ ty = .zb → ∃ v, GivesV (.vdot4 d a b k ty) s d v 0 ∧ ∀ j < 16, laneOf 32 v j =
        if s.active k j then
          ((laneOf 32 (s.sl.v.get d) j + numOf ty (s.vl ty a (4 * j)) * numOf ty (s.vl ty b (4 * j))
            + numOf ty (s.vl ty a (4 * j + 1)) * numOf ty (s.vl ty b (4 * j + 1))
            + numOf ty (s.vl ty a (4 * j + 2)) * numOf ty (s.vl ty b (4 * j + 2))
            + numOf ty (s.vl ty a (4 * j + 3)) * numOf ty (s.vl ty b (4 * j + 3))) % 2 ^ 32).toNat
        else laneOf 32 (s.sl.v.get d) j)


/-! ## Typed buffers (R99 to R108) -/

/-- R61, R100 to R102: an offset is formed from the base register and the scaled displacement; each byte of a load wraps at the least power of two
that is not below SIZE, and delivers the byte of the allocation, or 0 at or above SIZE and where its form does not reach the buffer; the M buffer is
read by region. -/
def Piece.BufferBytes : Prop :=
  ∀ (s : State) (m : CmAddr) (b : Buf) (vec : Bool) (size off n i e : Nat), i < n →
    let k : AccKind := if vec then .vload else .load
    let byte : Byte := (s.bufLoad k b off n).getD i 0
    let al := s.th.alloc b
    let o := (off + i) % 2 ^ e
    let p := (off + i) % 0x8000
    let held : Prop := ∃ x ∈ s.sl.inline, x.frame = (p - 0x6000) / 1024
    (size ≤ 64 → s.cmOff m size =
      if m.nb then m.disp.toNat * size else (s.g m.rb + m.disp.signExtend 64 * BitVec.ofNat 64 size).toNat)
    ∧ (b ≠ .m → al.size.toNat ≤ 2 ^ e → (e ≠ 0 → 2 ^ (e - 1) < al.size.toNat) →
        (o < al.size.toNat → vec = true ∨ b = .a → byte = mget (s.co.bufMem b) (64 * al.base.toNat + o))
        ∧ (al.size.toNat ≤ o ∨ (vec = false ∧ b ≠ .a) → byte = 0))
    ∧ (b = .m →
        (∀ x, p < 0x2000 → tget s.co.inbox (p / 64) = some x → x.ctx = s.curCtx →
          (∀ q, x.entry = .record q → byte = BitVec.ofNat 8 (q.record.toNat / 2 ^ (8 * (p % 64))))
          ∧ (∀ y h, x.entry = .message y h → byte = BitVec.ofNat 8 (y.toNat / 2 ^ (8 * (p % 64))))
          ∧ (∀ y, x.entry = .completion y ∨ x.entry = .carried y → byte = BitVec.ofNat 8 (y.toNat / 2 ^ (8 * (p % 64))))
          ∧ (∀ pl id pk, x.entry = .package pl id pk → byte = 0))
        ∧ (∀ x, p < 0x2000 → tget s.co.inbox (p / 64) = some x → x.ctx ≠ s.curCtx → byte = 0)
        ∧ (p < 0x2000 → tget s.co.inbox (p / 64) = none → byte = 0)
        ∧ (0x2000 ≤ p → p < 0x6000 → byte = 0)
        ∧ (0x6000 ≤ p → 256 ≤ p % 1024 → held → byte = mget s.co.frames p)
        ∧ (0x6000 ≤ p → p % 1024 < 256 ∨ ¬held → byte = 0))

/-- R103 to R105: the scalar loads extend the little-endian bytes that they deliver, `vld` loads 64, and `vldx` gathers the lanes that its mask opens
and leaves the others. Stated where no lock of an accumulator tile that the access reaches is hit. -/
def Piece.BufferLoads : Prop :=
  ∀ (s : State) (t d a rb : Fin 16) (m : CmAddr) (bu : Buf) (ty : Ty) (q : Fin 4), s.Plain →
    let v (n : Nat) : Nat := leNat (s.bufLoad .load m.buf (s.cmOff m n) n)
    let free (n : Nat) : Prop := ¬s.blocked .load m.buf (s.cmOff m n) n false
    let w := ty.size
    let off (j : Nat) : Nat := (s.g rb).toNat + w * laneOf (8 * w) (s.sl.v.get a) j
    let on (j : Nat) : Bool := q.val == 0 || (s.sl.m.get ⟨q.val, by omega⟩).getLsbD j
    (free 1 → GivesG (.ldB t m) s t ((BitVec.ofNat 8 (v 1)).signExtend 64) ∧ GivesG (.ldZb t m) s t (w64 (v 1)))
    ∧ (free 2 → GivesG (.ldH t m) s t ((BitVec.ofNat 16 (v 2)).signExtend 64) ∧ GivesG (.ldZh t m) s t (w64 (v 2)))
    ∧ (free 4 → GivesG (.ldW t m) s t ((BitVec.ofNat 32 (v 4)).signExtend 64) ∧ GivesG (.ldZw t m) s t (w64 (v 4)))
    ∧ (free 8 → GivesG (.ldD t m) s t (w64 (v 8)))
    ∧ (¬s.blocked .vload m.buf (s.cmOff m 64) 64 false → GivesV (.vld t m) s t (BitVec.ofNat 512 (leNat (s.bufLoad .vload m.buf (s.cmOff m 64) 64))) 0)
    ∧ (ty.isLane → (∀ j < ty.lanes, on j = true → ¬s.blocked .vload bu (off j) w false) →
        ∃ x, GivesV (.vldx d a rb bu ty q) s d x 0 ∧ ∀ j < ty.lanes, laneOf (8 * w) x j =
          if on j then leNat (s.bufLoad .vload bu (off j) w) else laneOf (8 * w) (s.sl.v.get d) j)

/-- Offsets, bytes and loads of the typed buffers: `Piece.BufferBytes`, `Piece.BufferLoads`. -/
def Obligations.TypedBufferLoads : Prop :=
  Piece.BufferBytes ∧ Piece.BufferLoads

/-- R103 to R105, R100, R101, R102: the scalar stores write the low bytes of a register, `vst` the 64 bytes of a vector register, and `vstx` the lanes
that its mask opens, the higher of two that overlap remaining; bytes without a place are discarded, and nothing else changes. -/
def Piece.BufferStores : Prop :=
  ∀ (s : State) (t d a rb : Fin 16) (m : CmAddr) (bu : Buf) (ty : Ty) (q : Fin 4), s.Plain → s.co.memWf = true →
    let st (i : Instr) (n : Nat) : Prop := s.storeFree .store m.buf (s.cmOff m n) n →
      StoresIn i s .store m.buf (s.cmOff m n) (leBytes n (s.g t).toNat) s.th
    let w := ty.size
    let off (j : Nat) : Nat := (s.g rb).toNat + w * laneOf (8 * w) (s.sl.v.get a) j
    let on (j : Nat) : Bool := q.val == 0 || (s.sl.m.get ⟨q.val, by omega⟩).getLsbD j
    let lanes := (List.range ty.lanes).filter on
    st (.stB t m) 1 ∧ st (.stH t m) 2 ∧ st (.stW t m) 4 ∧ st (.stD t m) 8
    ∧ (s.storeFree .vstore m.buf (s.cmOff m 64) 64 →
        StoresIn (.vst t m) s .vstore m.buf (s.cmOff m 64) (leBytes 64 (s.sl.v.get t).toNat) s.th)
    ∧ (ty.isLane → (∀ j ∈ lanes, s.storeFree .vstore bu (off j) w) →
        ∃ m', GivesIn (.vstx d a rb bu ty q) s (s.setCo (s.co.setBufMem bu m')) s.th
          ∧ Lands (s.co.bufMem bu) m' (fun k => s.placeOf .vstore bu (off (lanes.getD (k / w) 0)) (k % w))
              (lanes.flatMap fun j => leBytes w (laneOf (8 * w) (s.sl.v.get d) j)))

/-- R66, R107, R195: a speculative task's store into a resident block first waits, under the cap, for its transition to irrevocability. Once the
commit step has ended that wait DONE, ws says so and the store is performed; a range locked meanwhile holds it until it is free, and no deadline ends
it any more. A store that reaches a locked range does not begin the transition (log 106). -/
def Piece.ResidentStoreWaits : Prop :=
  ∀ (s : State) (t d a rb : Fin 16) (m : CmAddr) (bu : Buf) (ty : Ty) (q : Fin 4), s.co.memWf = true →
    let goes (i : Instr) (k : AccKind) (b : Buf) (offs : List Nat) (n : Nat) (place : Nat → Option Nat) (bytes : List Byte) : Prop :=
      let held : Prop := ∃ o ∈ offs, s.blocked k b o n true
      (s.Plain → s.spec = true → s.mayWait .cap → ¬held → (∃ o ∈ offs, s.hitsResident k b o n = true) → BeginsWait i s s .cap 9)
      ∧ ∀ x, s.Retries x → s.spec = false →
        (¬held → ∃ m', Lands (s.co.bufMem b) m' place bytes
          ∧ (x.stage = 9 → GivesAfter i s x (s.setCo (s.co.setBufMem b m')) { s.th with ws := 0 })
          ∧ (x.stage = 7 → GivesIn i s (s.setCo (s.co.setBufMem b m')) { s.th with ws := 0 }))
        ∧ (held →
          (x.stage = 9 → exec i s = .next ((s.sample (dieOf s.curCore) 2 (s.instant - x.t0)).setSl
            { s.sl with wait := some { x with stage := 7, sel := BitVec.allOnes 64, capAt := BitVec.allOnes 64 } }))
          ∧ (x.stage = 7 → exec i s = .next s))
    let one (i : Instr) (k : AccKind) (n : Nat) (v : Nat) : Prop :=
      goes i k m.buf [s.cmOff m n] n (s.placeOf k m.buf (s.cmOff m n)) (leBytes n v)
    let w := ty.size
    let off (j : Nat) : Nat := (s.g rb).toNat + w * laneOf (8 * w) (s.sl.v.get a) j
    let lanes := (List.range ty.lanes).filter fun j => q.val == 0 || (s.sl.m.get ⟨q.val, by omega⟩).getLsbD j
    one (.stB t m) .store 1 (s.g t).toNat ∧ one (.stH t m) .store 2 (s.g t).toNat ∧ one (.stW t m) .store 4 (s.g t).toNat
    ∧ one (.stD t m) .store 8 (s.g t).toNat ∧ one (.vst t m) .vstore 64 (s.sl.v.get t).toNat
    ∧ (ty.isLane → goes (.vstx d a rb bu ty q) .vstore bu (lanes.map off) w (fun k => s.placeOf .vstore bu (off (lanes.getD (k / w) 0)) (k % w))
        (lanes.flatMap fun j => leBytes w (laneOf (8 * w) (s.sl.v.get d) j)))

/-- R169, R101: an access that reaches a locked range (a load one of an accumulator tile) stalls: it has no effect, and the unit is issued again (log
79); one that the table of R101 makes null never does. -/
def Piece.LockedRangesStall : Prop :=
  ∀ (s : State) (t d a rb : Fin 16) (m : CmAddr) (bu : Buf) (ty : Ty) (q : Fin 4) (ds : Sel), s.Plain →
    let stalls (i : Instr) : Prop := EndsIn i s { s.sl with stalled := true }
    let on (n : Nat) (k : AccKind) (isStore : Bool) (i : Instr) : Prop := s.blocked k m.buf (s.cmOff m n) n isStore → stalls i
    let w := ty.size
    let off (j : Nat) : Nat := (s.g rb).toNat + w * laneOf (8 * w) (s.sl.v.get a) j
    let lanes := (List.range ty.lanes).filter fun j => q.val == 0 || (s.sl.m.get ⟨q.val, by omega⟩).getLsbD j
    on 1 .load false (.ldB t m) ∧ on 1 .load false (.ldZb t m) ∧ on 2 .load false (.ldH t m) ∧ on 2 .load false (.ldZh t m)
    ∧ on 4 .load false (.ldW t m) ∧ on 4 .load false (.ldZw t m) ∧ on 8 .load false (.ldD t m) ∧ on 64 .vload false (.vld t m)
    ∧ on 1 .store true (.stB t m) ∧ on 2 .store true (.stH t m) ∧ on 4 .store true (.stW t m) ∧ on 8 .store true (.stD t m)
    ∧ on 64 .vstore true (.vst t m)
    ∧ (ty.isLane → (∃ j ∈ lanes, s.blocked .vload bu (off j) w false) → stalls (.vldx d a rb bu ty q))
    ∧ (ty.isLane → (∃ j ∈ lanes, s.blocked .vstore bu (off j) w true) → stalls (.vstx d a rb bu ty q))
    ∧ (ty = .w ∨ ty = .zw ∨ ty = .d → s.blocked .store .a ((s.g a).toNat - (s.g a).toNat % w) w true → stalls (.amoAdd d a rb ty .core ds))

/-- Stores to the typed buffers, and locked ranges: `Piece.BufferStores`, `Piece.ResidentStoreWaits`, `Piece.LockedRangesStall`. -/
def Obligations.TypedBufferStores : Prop :=
  Piece.BufferStores ∧ Piece.ResidentStoreWaits ∧ Piece.LockedRangesStall

/-! ## Device memory (R203 to R210) -/

/-- R192, R193, R205: a load of an irrevocable task delivers, for each byte, the newest store on its path that covers it, or the cell; a speculative
task's load delivers what its commit buffer holds, or the cell, whose granule then enters its read signature; the cells read are recalled to their
home slices (R192), and so are the table entries that its translation reads. Stated of bytes of this chip's memory, whose answer is not late. -/
def Obligations.DeviceLoads : Prop :=
  ∀ (s : State) (t : Fin 16) (m : CgAddr) (ps : List (Option Nat × Nat × Nat)), s.Plain → s.late = false → m.ds ≠ .poll →
    let va := s.g m.rb + m.disp.signExtend 64
    let byte (pa : Nat) : Byte := match (if s.spec then s.cbByte ⟨none, pa / 64⟩ (pa % 64) else s.pathByte s.curTask ⟨none, pa / 64⟩ (pa % 64)) with
      | some b => b
      | none => mget s.mem pa
    let loads (i : Instr) (n : Nat) (ext : Nat → Word) : Prop :=
      s.watchHit va.toNat n true false = none → s.translateRange s.curCtx s.th.priv va n needR = .ok ps →
      (∀ p ∈ ps, p.1 = none ∧ p.2.1 + p.2.2 < 0xF000000000000) →
      let u := s.noteRange s.curCtx va n
      ∃ sl : Slot, exec i s = .next (({ u with places := u.recalled fun g => (byteList ps).any fun a => a.2 / 64 == g }.waited).setSl sl)
        ∧ sl = { s.sl.ended with
            rs := sl.rs
            thread := { s.th with g := s.th.g.set t.val (ext (leNat ((byteList ps).map fun a => byte a.2))) t.isLt, ws := 0, pc := s.th.pc + 8 } }
        ∧ ∀ g, g ∈ sl.rs ↔ g ∈ s.sl.rs
            ∨ (s.spec = true ∧ ∃ a ∈ byteList ps, g = ⟨none, a.2 / 64⟩ ∧ s.cbByte g (a.2 % 64) = none)
    loads (.ldgB t m) 1 (fun x => (BitVec.ofNat 8 x).signExtend 64) ∧ loads (.ldgZb t m) 1 w64
    ∧ loads (.ldgH t m) 2 (fun x => (BitVec.ofNat 16 x).signExtend 64) ∧ loads (.ldgZh t m) 2 w64
    ∧ loads (.ldgW t m) 4 (fun x => (BitVec.ofNat 32 x).signExtend 64) ∧ loads (.ldgZw t m) 4 w64
    ∧ loads (.ldgD t m) 8 w64

/-- R204, R285: a device access whose translation fails, in a page of a range the first that does, raises the device-translation fault, cause 6, with
KIND and the failing address, whose walk has recalled the entries it read (R192), and nothing else happens. -/
def Piece.TranslationFaults : Prop :=
  ∀ (s : State) (t a b : Fin 16) (m : CgAddr) (ty : Ty) (sc : Scope) (ds : Sel) (e : Nat × Word) (kind : Nat), s.Plain → s.late = false →
    let va := s.g m.rb + m.disp.signExtend 64
    let faults (i : Instr) (n : Nat) (isLoad : Bool) : Prop := s.watchHit va.toNat n isLoad (!isLoad) = none →
      s.translateRange s.curCtx s.th.priv va n (if isLoad then needR else needW) = .error e → WalkFault i s 6 e.1 e.2
    let amo (i : Instr) : Prop := s.sl.remote = none → s.watchHit (s.g a).toNat ty.size true true = none → (s.g a).toNat % ty.size = 0 →
      s.translate s.curCtx s.th.priv (s.g a) needRW = .error kind → WalkFault i s 6 kind (s.g a)
    faults (.ldgB t m) 1 true ∧ faults (.ldgZb t m) 1 true ∧ faults (.ldgH t m) 2 true ∧ faults (.ldgZh t m) 2 true
    ∧ faults (.ldgW t m) 4 true ∧ faults (.ldgZw t m) 4 true ∧ faults (.ldgD t m) 8 true
    ∧ faults (.stgB t m) 1 false ∧ faults (.stgH t m) 2 false ∧ faults (.stgW t m) 4 false ∧ faults (.stgD t m) 8 false
    ∧ (ty = .w ∨ ty = .zw ∨ ty = .d → sc ≠ .core →
        amo (.amoAdd t a b ty sc ds) ∧ amo (.amoMin t a b ty sc ds) ∧ amo (.amoMax t a b ty sc ds) ∧ amo (.amoAnd t a b ty sc ds)
        ∧ amo (.amoOr t a b ty sc ds) ∧ amo (.amoXor t a b ty sc ds) ∧ amo (.amoSwap t a b ty sc ds) ∧ amo (.amoCas t a b ty sc ds))

/-- R285: which translations fail, and with which KIND: a walk without a leaf with 1; with 2 a right that the leaf does not give, a fetch from a peer,
a supervisor's page at user level, a frame of this chip that the context may not reach, and an address of no window that it may. R192, R286: a
translation that no cached one serves recalls the cells of the table entries it reads, the first of them the root's, and remembers its leaf. -/
def Piece.TranslationChecks : Prop :=
  ∀ (s : State) (ctx : Nat) (priv : BitVec 2) (va : Word) (need : Need) (leaf : Word) (lv : Nat),
    let r := s.translate ctx priv va need
    let z := 2 ^ (12 + 9 * lv)
    let pa := leaf.toNat / 4096 % 2 ^ 40 * 4096 / z * z + va.toNat % z
    let peer := leaf.toNat / 2 ^ 52 % 64
    let lacks : Prop := (need.r = true ∧ leaf.getLsbD 2 = false) ∨ (need.w = true ∧ leaf.getLsbD 3 = false)
      ∨ (need.x = true ∧ (leaf.getLsbD 4 = false ∨ peer ≠ 0)) ∨ (leaf.getLsbD 6 = true ∧ priv = 0)
    (s.usesCached ctx va = true → s.noteTlb ctx va = s)
    ∧ (s.usesCached ctx va = false → ∃ tlb, s.noteTlb ctx va = { s with tlb := tlb, places := s.recalled fun g => (s.walksFor ctx va).contains g }
        ∧ (∀ e ∈ s.tlb, e ∈ tlb) ∧ (∀ e ∈ tlb, e ∈ s.tlb ∨ (e.ctx = ctx ∧ s.walk ctx va = some (e.leaf, e.level))))
    ∧ (s.usesCached ctx va = false → va.toNat < 2 ^ 56 →
        ((s.descWord ctx 0).toNat / 4096 % 2 ^ 40 * 4096 + 8 * (va.toNat / 2 ^ 48)) / 64 ∈ s.walksFor ctx va)
    ∧ (s.leafOf ctx va = none → r = .error 1)
    ∧ (s.leafOf ctx va = some (leaf, lv) →
        (lacks → r = .error 2)
        ∧ (¬lacks → peer ≠ 0 → r = .ok (some (peer - 1), pa))
        ∧ (¬lacks → peer = 0 → pa < 2 ^ 39 →
            (s.frameReach ctx pa need.w = true → r = .ok (none, pa)) ∧ (s.frameReach ctx pa need.w = false → r = .error 2))
        ∧ (¬lacks → peer = 0 → 2 ^ 39 ≤ pa →
            (windowOk ctx priv (leaf.getLsbD 6) pa = true → need.x = false → r = .ok (none, pa))
            ∧ (windowOk ctx priv (leaf.getLsbD 6) pa = false ∨ need.x = true → r = .error 2)))

/-- R366: an enabled watchpoint of the claimed context matches an access of its kind that reaches one of its bytes outside the register windows, but
for the one that has just halted the thread; the lowest-numbered is reported, with the first byte that matches. An `ldg`, an `stg` and an atomic that
it matches then halt the thread with WHY 3 and its number, or raise the watchpoint trap, cause 22, by ACT, and have no other effect. -/
def Piece.Watchpoints : Prop :=
  ∀ (s : State) (t a b : Fin 16) (m : CgAddr) (ty : Ty) (sc : Scope) (ds : Sel) (pg : DebugPage) (x : Context) (va n : Nat) (r w : Bool) (k : Fin 4),
    s.ctx? s.curCtx = some x → x.debug = some pg →
    let at_ (i : Fin 4) (j : Nat) : Prop :=
      let c := pg.wpctl.get i
      let size := 2 ^ (c.toNat / 16 % 16)
      let base := (pg.wpaddr.get i).toNat % 2 ^ 56 / size * size
      c.getLsbD 0 = true ∧ ((r = true ∧ c.getLsbD 1 = true) ∨ (w = true ∧ c.getLsbD 2 = true)) ∧ s.sl.skip ≠ some ⟨3, BitVec.ofNat 4 i.val⟩
        ∧ j < n ∧ base ≤ va + j ∧ va + j < base + size ∧ s.windowVa (w64 (va + j)) = false
    let meets (i : Instr) (va n : Nat) (isR isW : Bool) : Prop := ∀ addr,
      (s.watchHit va n isR isW = some (k, true, addr) → RaisesTrap i s 22 0 0 k.val (w64 addr) s.th.pc)
      ∧ (s.watchHit va n isR isW = some (k, false, addr) → EndsIn i s { s.sl.dropped with halt := some ⟨3, BitVec.ofNat 4 k.val⟩ })
    let g := (s.g m.rb + m.disp.signExtend 64).toNat
    (s.watchHit va n r w = none ↔ ∀ i j, ¬at_ i j)
    ∧ (∀ act addr, s.watchHit va n r w = some (k, act, addr) ↔
        act = (pg.wpctl.get k).getLsbD 3 ∧ (∀ i < k, ∀ j, ¬at_ i j) ∧ ∃ j, at_ k j ∧ (∀ j' < j, ¬at_ k j') ∧ addr = va + j)
    ∧ (s.Plain → meets (.ldgB t m) g 1 true false ∧ meets (.ldgZb t m) g 1 true false ∧ meets (.ldgH t m) g 2 true false
        ∧ meets (.ldgZh t m) g 2 true false ∧ meets (.ldgW t m) g 4 true false ∧ meets (.ldgZw t m) g 4 true false ∧ meets (.ldgD t m) g 8 true false
        ∧ meets (.stgB t m) g 1 false true ∧ meets (.stgH t m) g 2 false true ∧ meets (.stgW t m) g 4 false true ∧ meets (.stgD t m) g 8 false true
        ∧ (sc ≠ .core → s.sl.remote = none → meets (.amoAdd t a b ty sc ds) (s.g a).toNat ty.size true true
          ∧ meets (.amoMin t a b ty sc ds) (s.g a).toNat ty.size true true
          ∧ meets (.amoMax t a b ty sc ds) (s.g a).toNat ty.size true true ∧ meets (.amoAnd t a b ty sc ds) (s.g a).toNat ty.size true true
          ∧ meets (.amoOr t a b ty sc ds) (s.g a).toNat ty.size true true ∧ meets (.amoXor t a b ty sc ds) (s.g a).toNat ty.size true true
          ∧ meets (.amoSwap t a b ty sc ds) (s.g a).toNat ty.size true true ∧ meets (.amoCas t a b ty sc ds) (s.g a).toNat ty.size true true))

/-- Faults and watchpoints of device accesses: `Piece.TranslationFaults`, `Piece.TranslationChecks`, `Piece.Watchpoints`. -/
def Obligations.DeviceFaults : Prop :=
  Piece.TranslationFaults ∧ Piece.TranslationChecks ∧ Piece.Watchpoints

/-- R206: the granules that a store of some bytes at some addresses forms: each is named once, and byte i of granule g is byte j of the store exactly
where address j is there. -/
def Piece.StoreGranules : Prop :=
  ∀ (s : State) (as : List (Option Nat × Nat)) (bytes : List Byte), as.Nodup → as.length = bytes.length →
    (∀ a ∈ as, a.1 ≠ none ∨ isWindow a.2 = false) →
    ((s.granStores as bytes).map (·.gran)).Nodup
    ∧ ∀ (g : Gran) (i : Nat) (b : Byte), i < 64 →
      ((∃ e ∈ s.granStores as bytes, e.gran = g ∧ e.mask.getLsbD i = true ∧ BitVec.ofNat 8 (e.bytes.toNat / 2 ^ (8 * i)) = b)
        ↔ ∃ j < as.length, as[j]? = some (g.peer, 64 * g.num + i) ∧ bytes[j]? = some b)

/-- R195, R200, R206: an irrevocable task's store puts its granules on the thread's store path, each counted by an entry of the fence tracker for its
chip; a speculative task's store goes into its commit buffer, or first makes the transition where a 33rd entry would be needed. Two names of one
chip name one granule (R193). -/
def Piece.DeviceStores : Prop :=
  ∀ (s : State) (t : Fin 16) (m : CgAddr) (ps : List (Option Nat × Nat × Nat)), s.Plain → s.late = false →
    let va := s.g m.rb + m.disp.signExtend 64
    let stores (i : Instr) (n : Nat) : Prop :=
      s.watchHit va.toNat n false true = none → s.translateRange s.curCtx s.th.priv va n needW = .ok ps →
      (∀ p ∈ ps, p.1 ≠ none ∨ p.2.1 + p.2.2 < 0xF000000000000) →
      let l := s.granStores (byteList ps) (leBytes n (s.g t).toNat)
      let same := s.sameGran s.curCtx
      let fresh := (l.filter fun e => !cbHas same s.sl.cb e.gran).length
      let u := s.noteRange s.curCtx va n
      (s.spec = false → ∃ (es : List OpEntry) (fs : List FtEntry) (k : Nat),
        GivesIn i s { u with op := s.op ++ es, ft := s.ft ++ fs, nextFt := k } { s.th with ws := 0 }
        ∧ (∀ g b mk, (∃ e ∈ es, e.gran = g ∧ e.body = .store b mk) ↔ ∃ x ∈ l, x = ⟨g, b, mk⟩)
        ∧ (∀ e ∈ es, e.owner = s.curTask ∧ e.core = s.curCore ∧ e.slot = s.curSlot ∧ e.ctx = s.curCtx
            ∧ ∃ f ∈ fs, f.id = e.ft ∧ f.owner = s.curTask ∧ f.peer = e.gran.peer ∧ f.failed = none)
        ∧ ∀ f ∈ fs, s.nextFt ≤ f.id ∧ f.id < k)
      ∧ (s.spec = true → s.sl.cb.length + fresh ≤ 32 → ∃ cb : List CbEntry,
        exec i s = .next (u.setSl { s.sl.ended with cb := cb, thread := { s.th with ws := 0, pc := s.th.pc + 8 } })
        ∧ cb.length = s.sl.cb.length + fresh
        ∧ (∀ x ∈ l, ∀ j < 64, x.mask.getLsbD j = true →
            (s.setSl { s.sl with cb := cb }).cbByte x.gran j = some (BitVec.ofNat 8 (x.bytes.toNat / 2 ^ (8 * j))))
        ∧ (∀ g j, (∀ x ∈ l, same x.gran g = true → x.mask.getLsbD j = false) → (s.setSl { s.sl with cb := cb }).cbByte g j = s.cbByte g j))
      ∧ (s.spec = true → 32 < s.sl.cb.length + fresh → s.mayWait m.ds → BeginsWait i s u m.ds 9)
    stores (.stgB t m) 1 ∧ stores (.stgH t m) 2 ∧ stores (.stgW t m) 4 ∧ stores (.stgD t m) 8

/-- Stores to device memory: `Piece.StoreGranules`, `Piece.DeviceStores`. -/
def Obligations.DeviceStoring : Prop :=
  Piece.StoreGranules ∧ Piece.DeviceStores

/-- R207 to R209: a `.core` atomic is performed at its unit's completion on the aligned word of the A buffer, in a task of either state; of the other
scopes a misaligned address raises cause 7, a `.clu` or `.dev` atomic on a peer's address is refused with DETAIL 3, and otherwise the atomic of an
irrevocable task leaves on the store path and is waited for; its old value, once returned, is written with ws DONE. -/
def Piece.Atomics : Prop :=
  ∀ (s : State) (d a b : Fin 16) (ty : Ty) (sc : Scope) (ds : Sel) (k : Nat), ty = .w ∨ ty = .zw ∨ ty = .d →
    let n := ty.size
    let off := (s.g a).toNat - (s.g a).toNat % n
    let x := (s.g b).toNat % 2 ^ ty.bits
    let c := (s.g d).toNat % 2 ^ ty.bits
    let old := leNat (s.bufLoad .load .a off n)
    let gives (v : Nat) : Thread := { s.th with g := s.th.g.set d.val (ty.regOf v) d.isLt, ws := 0 }
    let each (i : Scope → Instr) (op : Fin 8) : Prop :=
      (s.Plain → s.co.memWf = true → s.lockStall .a off n true = false →
        StoresIn (i .core) s .store .a off (leBytes n (newOf ty op old x c)) (gives old))
      ∧ (sc ≠ .core → s.Plain → s.late = false → s.sl.remote = none → s.watchHit (s.g a).toNat n true true = none →
        ((s.g a).toNat % n ≠ 0 → RaisesTrap (i sc) s 7 0 0 0 0 s.th.pc)
        ∧ ∀ peer pa, (s.g a).toNat % n = 0 → s.translate s.curCtx s.th.priv (s.g a) needRW = .ok (peer, pa) →
          (peer ≠ none → sc ≠ .sys → GivesIn (i sc) s (s.noteTlb s.curCtx (s.g a)) { s.th with ws := 6 + 3 * 2 ^ 32 })
          ∧ (peer = none ∨ sc = .sys → s.spec = true → s.mayWait ds → BeginsWait (i sc) s (s.noteTlb s.curCtx (s.g a)) ds 9)
          ∧ (peer = none ∨ sc = .sys → s.spec = false → s.mayWait ds → exec (i sc) s = .next ({ s.noteTlb s.curCtx (s.g a) with
              nextFt := s.nextFt + 1
              op := s.op ++ [OpEntry.mk s.curTask s.curCore s.curSlot s.curCtx s.nextFt ⟨peer, pa / 64⟩
                (.atomic ⟨op.castSucc, ty, sc, pa, w64 x, w64 c⟩) s.instant]
              ft := s.ft ++ [FtEntry.mk s.curTask s.curCore s.curSlot s.nextFt peer 1 none none none s.curCtx s.instant] }.setSl
                { s.sl with remote := some ⟨.amo s.nextFt, none⟩, wait := some (s.newWait (i sc) ds 1) })))
      ∧ (∀ w v dt, sc ≠ .core → s.Retries w → s.sl.remote = some ⟨.amo k, some ⟨v, 0, dt⟩⟩ → GivesAfter (i sc) s w s (gives v.toNat))
    each (fun sc => .amoAdd d a b ty sc ds) 0 ∧ each (fun sc => .amoMin d a b ty sc ds) 1 ∧ each (fun sc => .amoMax d a b ty sc ds) 2
    ∧ each (fun sc => .amoAnd d a b ty sc ds) 3 ∧ each (fun sc => .amoOr d a b ty sc ds) 4 ∧ each (fun sc => .amoXor d a b ty sc ds) 5
    ∧ each (fun sc => .amoSwap d a b ty sc ds) 6 ∧ each (fun sc => .amoCas d a b ty sc ds) 7

/-- R200, R210: `fence` is done at once where no entry of its scope is left, ends PARTIAL with the status word where all that are left have failed,
which then leave the tracker, and else waits under its selector. -/
def Piece.Fences : Prop :=
  ∀ (s : State) (d : Fin 16) (sc : Scope) (ds : Sel), s.Plain →
    let mine (e : FtEntry) : Bool := e.owner == s.curTask && (sc == .sys || (sc != .core && e.peer.isNone))
    let es := s.ft.filter mine
    let n := min es.length (2 ^ 24 - 1)
    (es = [] → GivesIn (.fence d sc ds) s s.waited { s.th with g := s.th.g.set d.val 0 d.isLt, ws := 0 })
    ∧ (es ≠ [] → (∀ e ∈ es, e.failed ≠ none) → ∃ x : Word,
        GivesIn (.fence d sc ds) s { s with ft := s.ft.filter fun e => !mine e }.waited
          { s.th with g := s.th.g.set d.val x d.isLt, ws := 5 + w64 n * 2 ^ 32 }
        ∧ x.toNat % 2 ^ 24 = n ∧ (∀ p < 32, x.getLsbD (24 + p) = true ↔ ∃ e ∈ es, e.peer = some p)
        ∧ (x.getLsbD 56 = true ↔ ∃ e ∈ es, e.failed = some .deadLink) ∧ (x.getLsbD 57 = true ↔ ∃ e ∈ es, e.failed = some .refused)
        ∧ x.toNat < 2 ^ 58)
    ∧ ((∃ e ∈ es, e.failed = none) → s.mayWait ds → BeginsWait (.fence d sc ds) s s ds 0)

/-! ## The steps of the ordering machine (R190 to R201) -/

/-- R192, R193: APPLY writes a store entry's masked bytes into its cell, which is recalled to its home slice, and the entry leaves the path and is
confirmed, but not while an older entry of its thread for the same granule, by whatever name of its chip, stands before it; SHIP moves an entry for a peer to the tail of its link
queue, or fails it where the link is dead, but not while an older entry of its thread for the same chip stands before it. -/
def Piece.StorePathSteps : Prop :=
  ∀ (s : State) (c : Nat) (t : Fin 4) (n : Nat) (e : OpEntry) (b : BitVec 512) (mk : BitVec 64), (s.pathOf c t)[n]? = some e →
    e.body = .store b mk →
    let first : Prop := ∀ x, s.olderOn e x → s.sameGran x.ctx x.gran e.gran = false
    let firstTo : Prop := ∀ x, s.olderOn e x → s.sameChip e.ctx x.gran.peer e.gran.peer = false
    (¬first → exec (.apply c t n) s = .next s) ∧ (¬firstTo → exec (.ship c t n) s = .next s)
    ∧ (first → e.gran.peer = none → 64 * e.gran.num < 0xF000000000000 → s.memWf = true → s.unread e.gran none →
        ∃ m' ft', exec (.apply c t n) s = .next { s with op := s.op.erase e, mem := m', places := s.recalled (· == e.gran.num), ft := ft' }
          ∧ GranWritten s.mem m' e.gran.num b mk ∧ PartGone s.ft ft' e.ft)
    ∧ (∀ p, firstTo → e.gran.peer = some p → s.deadPeer e.ctx p = false →
        exec (.ship c t n) s = .next { s with op := s.op.erase e
                                              lq := s.lq ++ [LqEntry.mk e.owner e.core e.slot e.ctx p (some e.ft) (.store e.gran.num b mk)] })
    ∧ (∀ p f, firstTo → e.gran.peer = some p → s.deadPeer e.ctx p = true → s.ft.find? (fun x => x.id == e.ft) = some f → f.msg = none →
        s.taskStands f.owner = true → s.slotOfTask e.owner = none →
        exec (.ship c t n) s = .next { s with
          op := s.op.erase e
          ft := s.ft.map fun x => if x.id = e.ft then { x with failed := some .deadLink, msg := none, parts := 0, answered := none } else x })

/-- Fences, and the steps of the store path: `Piece.Fences`, `Piece.StorePathSteps`. -/
def Obligations.FencesAndStorePath : Prop :=
  Piece.Fences ∧ Piece.StorePathSteps

/-- R192, R193, R208, R209: ATOMIC takes the read-modify-write of an entry for this chip as one step on its cell, which its scope then keeps in the
issuing core's cluster, in a hot place or at its home slice, and the old value becomes the answer of the unit that waits for it; the reply then
completes that unit with the old value and ws DONE, but not once its lineage is annulled (R309). -/
def Piece.AtomicSteps : Prop :=
  ∀ (s : State) (c c0 : Nat) (t t0 : Fin 4) (n : Nat) (e : OpEntry) (op : Fin 8) (ty : Ty) (sc : Scope) (pa : Nat) (x y : Word), ty = .w ∨ ty = .zw ∨ ty = .d →
    ((s.pathOf c t)[n]? = some e → e.body = .atomic ⟨op.castSucc, ty, sc, pa, x, y⟩ → e.gran = ⟨none, pa / 64⟩ →
      (∀ z, s.olderOn e z → s.sameGran z.ctx z.gran e.gran = false) → pa < 0x8000000000 → pa % ty.size = 0 → s.memWf = true → s.unread e.gran none →
      x.toNat < 2 ^ ty.bits → y.toNat < 2 ^ ty.bits →
      s.slotOfTask e.owner = some (c0, t0) → (s.slotAt c0 t0).remote = some ⟨.amo e.ft, none⟩ →
      let old := leNat (mbytes s.mem pa ty.size)
      ∃ m' ft' pl, exec (.atomic c t n) s = .next ({ s with op := s.op.erase e, mem := m', places := pl, ft := ft' }.setSlot c0 t0
            { s.slotAt c0 t0 with remote := some ⟨.amo e.ft, some ⟨w64 old, 0, 0⟩⟩ })
        ∧ BytesWritten s.mem m' pa (leBytes ty.size (newOf ty op old x.toNat y.toNat)) ∧ PartGone s.ft ft' e.ft
        ∧ (sc = .dev → pl = s.recalled (· == pa / 64)) ∧ (sc = .clu → pl = s.recalled (· == pa / 64) ++ [(pa / 64, .cluster (clusterOf e.core))])
        ∧ (sc = .sys → (pa / 64, Place.hot) ∈ pl))
    ∧ (∀ (w : Wait) (v : Word) (dt : BitVec 32) (k : Nat) (d a b : Fin 16) (ds : Sel), sc ≠ .core → w.instr = .amoAdd d a b ty sc ds →
      let sl := s.slotAt c t
      sl.group = none → sl.stepping = false → sl.pendA = none → sl.newPc = none → sl.wait = some w → sl.remote = some ⟨.amo k, some ⟨v, 0, dt⟩⟩ →
      (s.slotAnnulled c t = true → exec (.stepReply c t) s = .next s) ∧ (s.slotAnnulled c t = false → exec (.stepReply c t) s = .next ((s.sample (dieOf c) 2 (s.instant - w.t0)).setSlot c t { sl.ended with
        thread := { sl.thread with g := sl.thread.g.set d.val (ty.regOf v.toNat) d.isLt, ws := 0, pc := sl.thread.pc + 8 } })))

/-- The atomics, and the steps that perform them: `Piece.Atomics`, `Piece.AtomicSteps`. -/
def Obligations.AtomicOperations : Prop :=
  Piece.Atomics ∧ Piece.AtomicSteps

/-- R193, R194, R200, R340: the answer of a peer to the head of a link queue takes it off and is kept in its fence-tracker entry; CONFIRM removes an
entry all of whose parts were acknowledged, and marks it failed with "refused access" where one was not; a peer's store is taken where this chip's
context accepts that peer and may write the bytes, and is refused otherwise; its notice that a granule there has been written leaves the machine as it
is where no task has read that granule. -/
def Piece.PeerTraffic : Prop :=
  ∀ (s : State) (c : Nat) (t : Fin 4) (n peer chip ctx pctx pa : Nat) (e : LqEntry) (f : FtEntry) (ok : Bool) (g : Nat) (b : BitVec 512)
    (mk : BitVec 64) (bytes : List Byte),
    (s.lq.find? (fun x => x.core == c && x.slot == t && x.peer == peer) = some e → e.body = .store g b mk →
      (∀ p q, s.lq = p ++ e :: q → e ∉ p → ∀ x ∈ p, x.owner ≠ e.owner ∨ x.ctx ≠ e.ctx ∨ s.sameChip e.ctx (some x.peer) (some e.peer) = false) →
      s.noneRead (fun g => g.peer ≠ none) →
      exec (.arrive (.outgoing c t peer (if ok then .ack else .refused))) s = .next { s with
        lq := s.lq.erase e
        ft := s.ft.map fun x => if x.id ≠ e.ft.getD 0 then x else
          { x with parts := x.parts - 1, answered := some (ok && x.answered != some false) } })
    ∧ ((s.trackerOf c t)[n]? = some f → f.msg = none → f.parts = 0 →
      (f.answered = none → exec (.confirm c t n) s = .next s)
      ∧ (f.answered = some true → exec (.confirm c t n) s = .next { s with ft := s.ft.filter fun x => x.id != f.id })
      ∧ (f.answered = some false → s.taskStands f.owner = true → exec (.confirm c t n) s = .next { s with
          ft := s.ft.map fun x => if x.id = f.id then { x with failed := some .refused, msg := none, parts := 0, answered := none } else x }))
    ∧ (let store : Instr := .arrive (.incoming chip ctx pctx (.store pa bytes))
      (s.accepts pctx chip ctx = false ∨ s.rangeReach pctx pa bytes.length true = false →
        exec store s = .next { s with sent := s.sent ++ [.refusal chip] })
      ∧ (s.accepts pctx chip ctx = true → s.rangeReach pctx pa bytes.length true = true → s.memWf = true → (∀ g, s.unread g none) → bytes ≠ [] →
        ∃ m', exec store s = .next { s with mem := m', sent := s.sent ++ [.ack chip]
                                            places := s.recalled fun g => decide (pa / 64 ≤ g) && decide (64 * g < pa + bytes.length) }
          ∧ BytesWritten s.mem m' pa bytes))
    ∧ (let notice : Instr := .arrive (.incoming chip ctx pctx (.abort g))
      (s.accepts pctx chip ctx = false → exec notice s = .next { s with sent := s.sent ++ [.refusal chip] })
      ∧ (s.accepts pctx chip ctx = true → s.noneRead (fun g => g.peer ≠ none) → exec notice s = .next s))

/-- R192, R194 to R197, R262: the commit of the task that the tailpiece chooses writes its buffer's local granules into their cells in one step,
empties buffer and signature, and leaves the task irrevocable; one that is not chosen does not commit. Stated for a wait other than that of `done`, a
buffer of local stores that no other task has read, and a die without monitors. -/
def Obligations.CommitStep : Prop :=
  ∀ (s : State) (c : Nat) (t : Fin 4) (k : Task) (w : Wait),
    let sl := s.slotAt c t
    (s.chosen c t = false → exec (.commit c t) s = .next s)
    ∧ (s.chosen c t = true → sl.task = some k → sl.wait = some w → w.instr ≠ .done → (s.dieAt (dieOf c)).monitors = [] → s.memWf = true →
      (∀ e ∈ sl.cb, ∃ g b mk, e = .store ⟨none, g⟩ b mk ∧ s.unread ⟨none, g⟩ (some (c, t))) →
      sl.cb.Pairwise (fun x y => ∀ g b mk h b' mk', x = .store g b mk → y = .store h b' mk' → g ≠ h) →
      ∃ m', exec (.commit c t) s = .next ({ s with
            mem := m', places := s.recalled (fun g => sl.cb.any fun e => match e with | .store h _ _ => h == Gran.mk none g | _ => false), ready := s.ready.filter fun e => e.1 != k.id }.setSlot c t
          { sl with cb := [], rs := [], task := some { k with spec := false } })
        ∧ ∀ a, mget m' a = (sl.cb.findSome? fun e => match e with
          | .store h b mk => if h = ⟨none, a / 64⟩ ∧ mk.getLsbD (a % 64) = true then some (BitVec.ofNat 8 (b.toNat / 2 ^ (8 * (a % 64)))) else none
          | _ => none).getD (mget s.mem a))

/-- R193, R200, R253, R331, R340: the loss of a link, found as such or by the step that a packet's time-out takes (log 33), marks the peer dead in
every context that names it, drops its link queues with the annul notices behind them and its absence tokens, and fails every fence-tracker entry of which
a part has left the store path for there and that has not been confirmed, with the reason "dead link": it stays for the fence of its task, where that stands. Stated where no task
waits there or has read there, for entries of stores. -/
def Piece.LinkLoss : Prop :=
  ∀ (s : State) (chip : Nat),
    (∀ e ∈ s.cores, ∀ t : Fin 4, (e.2.slots.get t).remote = none ∧ (e.2.slots.get t).orphans = []) → s.noneRead (fun g => g.peer ≠ none) →
    (s.ft.map (·.id)).Nodup → (∀ e ∈ s.ft, e.msg = none) →
    let named (ctx peer : Nat) : Prop := ∃ x, (ctx, x) ∈ s.contexts ∧ ∃ e : Peer, x.peers[peer]? = some e ∧ e.valid = true ∧ e.chip.toNat = chip
    let lost (e : FtEntry) : Prop := e.failed = none ∧ (e.answered ≠ none ∨ (s.op.filter fun o => o.ft == e.id).length < e.parts) ∧ ∃ p, e.peer = some p ∧ p < 32 ∧ named e.ctx p
    ∀ i ∈ [Instr.linkLoss chip, Instr.peerDead chip], Completes i s fun u =>
      u = { s with contexts := u.contexts, lq := u.lq, ft := u.ft, annuls := u.annuls, tokens := s.tokens.filter fun k => k.chip != some chip }
      ∧ (∀ e, e ∈ u.lq ↔ e ∈ s.lq ∧ ¬(e.peer < 32 ∧ named e.ctx e.peer))
      ∧ (∀ e, e ∈ u.annuls ↔ e ∈ s.annuls ∧ ¬(e.2.1 < 32 ∧ named e.1 e.2.1))
      ∧ (∀ f, f ∈ u.ft ↔ (f ∈ s.ft ∧ ¬lost f)
          ∨ ∃ e ∈ s.ft, lost e ∧ s.taskStands e.owner = true ∧ f = { e with failed := some .deadLink, parts := 0, answered := none })
      ∧ u.contexts = s.contexts.map fun x => (x.1, { x.2 with
          peers := x.2.peers.map fun e => if e.valid = true ∧ e.chip.toNat = chip then { e with dead := true, rewritten := e.rewritten && e.dead } else e })

/-- Traffic with peers, and the loss of a link: `Piece.PeerTraffic`, `Piece.LinkLoss`. -/
def Obligations.PeersAndLinks : Prop :=
  Piece.PeerTraffic ∧ Piece.LinkLoss

/-! ## Barriers (R220 to R227) -/

/-- R221, R223 to R227: the barrier instructions on the core's own object: initialisation, expected bytes, arrival and abort with PHASE before and
after; `bar.wait` ends where PHASE has left the one it names, with ABORTED where that phase was aborted, and else waits; `bar.sync` arrives and ends
where its own arrival flips the phase, and else waits. A `bar.init` ends every wait on the object (R223), with DETAIL the PHASE it leaves (log 108). -/
def Piece.CoreBarriers : Prop :=
  ∀ (s : State) (t : Fin 16) (o : CqAddr) (count : BitVec 16) (bytes : BitVec 32) (at_ : Bool) (b : BarV), s.Plain → o.scope = .core → s.sl.remote = none →
    let n := s.cqSlot o
    let r := BarRef.core s.curCore n
    let put (x : BarV) : State := s.setSync s.curCore n (x.w0, x.w1)
    let gives (x : Word) (ws : Word) : Thread := { s.th with g := s.th.g.set t.val x t.isLt, ws := ws }
    let ph (p : BitVec 16) : Word := p.setWidth 64
    let is (x : BarV) : Prop := barOf (s.syncWords s.curCore n).1 (s.syncWords s.curCore n).2 = some x
    let free : Prop := ∀ e ∈ s.op, e.owner = s.curTask → e.gran.peer ≠ none
    let inits (x : BarV) : Prop := exec (.barInit t o count at_) s = .next (((put x).endWaits r x.phase).setSl
      { (s.sl.initEnds r x.phase).ended with thread := { s.th with ws := phaseWs 0 x.phase, pc := s.th.pc + 8 } })
    ((∀ g ∈ s.colls, g.obj ≠ r) →
      (is b → inits ⟨true, b.phase + 1, 0, count, 0, 0⟩) ∧ ((∀ x, ¬is x) → inits ⟨false, 0, 0, count, 0, 0⟩)
      ∧ (is b → GivesIn (.barAbort o) s (put (broken b)) { s.th with ws := phaseWs 0 (b.phase + 1) }))
    ∧ (is b →
      GivesIn (.barExpect t o bytes) s (put (expecting b bytes)) (gives (ph b.phase) (phaseWs 0 (expecting b bytes).phase))
      ∧ (free → GivesIn (.barArrive t o) s (put (arrivedAt b)) (gives (ph b.phase) (phaseWs 0 (arrivedAt b).phase)))
      ∧ ((s.g t).setWidth 16 ≠ b.phase → GivesIn (.barWait t o) s s.waited { s.th with ws := phaseWs (if b.abrt then 4 else 0) b.phase })
      ∧ ((s.g t).setWidth 16 = b.phase → s.mayWait o.ds →
          EndsIn (.barWait t o) s { s.sl with wait := some (s.atObject (.barWait t o) o.ds 0 0 r) })
      ∧ (free → (arrivedAt b).phase ≠ b.phase →
          GivesIn (.barSync t o) s (put (arrivedAt b)).waited (gives (ph b.phase) (phaseWs 0 (arrivedAt b).phase)))
      ∧ (free → (arrivedAt b).phase = b.phase → s.mayWait o.ds →
          exec (.barSync t o) s = .next ((put (arrivedAt b)).setSl { s.sl with
            remote := some ⟨.barArrive r, some ⟨ph b.phase, 0, b.phase.setWidth 32⟩⟩
            wait := some (s.atObject (.barSync t o) o.ds 2 (ph b.phase) r) })))
    ∧ (kindOf (s.syncWords s.curCore n).1 ≠ 1 →
        ∀ i ∈ [Instr.barExpect t o bytes, .barArrive t o, .barWait t o, .barSync t o, .barAbort o],
          GivesThread i s { s.th with ws := 6 + 2 * 2 ^ 32 })
    ∧ ∀ (q : BarRef) (p : BitVec 16) (sl : Slot) (w : Wait), sl.wait = some w → sl.orphans = [] →
      let ended : Slot := { sl with wait := some { w with ended := some p } }
      (w.instr = .barWait t o → sl.remote = none → (w.obj = some q → sl.initEnds q p = ended) ∧ (w.obj = none → sl.initEnds q p = sl))
      ∧ (w.instr = .barSync t o → w.ended = none → ∀ a, sl.remote = some ⟨.barArrive q, some a⟩ → sl.initEnds q p = ended)

/-- R221 to R226, R286: on an object in this chip's device memory an arrival of an irrevocable task leaves for it and is waited for; its step is taken
there once no store of the thread for that chip is left in its path. Under `.dev` it holds the object's cell at its home slice, and under `.sys` in
the hot-word cache of its port unit, as every look at the object does (logs 87, 105). The reply completes `bar.arrive`; the answer of a `bar.sync`
whose phase has gone on completes it, and so does a `bar.init` there, ABORTED. The arrival of a `poll` takes its withdrawal with it as one step. -/
def Piece.RemoteBarriers : Prop :=
  ∀ (s : State) (c : Nat) (u : Fin 4) (t : Fin 16) (o : CqAddr) (pa : Nat) (b : BarV) (w : Wait) (p : BitVec 16) (port : Bool)
    (code : BitVec 8), o.scope = (if port then .sys else .dev) →
    let r := BarRef.dev pa port
    let sl := s.slotAt c u
    let words (x : BarV) : List Byte := leBytes 8 x.w0.toNat ++ leBytes 8 x.w1.toNat
    let ph (p : BitVec 16) : Word := p.setWidth 64
    let gives (p q : BitVec 16) : Thread := { s.th with g := s.th.g.set t.val (ph p) t.isLt, ws := phaseWs 0 q }
    let steps (req : RemoteReq) (a : RemoteAns) (x : BarV) : Prop := ∃ m' pl,
      exec (.barrierStep c u) s = .next ({ s with mem := m', places := pl }.setSlot c u { sl with remote := some ⟨req, some a⟩ })
      ∧ BytesWritten s.mem m' pa (words x) ∧ s.Placed (pa / 64) port pl
    let b' := arrivedAt b
    (s.Plain → s.sl.remote = none → s.late = false → s.resolve o needRW = .object r → s.spec = false → s.mayWait o.ds → s.suspended = [] →
      ∀ i ∈ [Instr.barArrive t o, .barSync t o],
        exec i s = .next ((s.noteTlb s.curCtx (s.syncWords s.curCore (s.cqSlot o)).2).setSl
          { s.sl with remote := some ⟨.barArrive r, none⟩, wait := some (s.atObject i o.ds 1 0 r) }))
    ∧ (s.barRead r = some b → (∀ e ∈ s.op, e.owner = sl.taskId → e.gran.peer ≠ none) → s.memWf = true → pa % 16 = 0 →
        s.unread ⟨none, pa / 64⟩ none →
        (sl.remote = some ⟨.barArrive r, none⟩ → steps (.barArrive r) ⟨ph b.phase, 0, b'.phase.setWidth 32⟩ b')
        ∧ (sl.remote = some ⟨.trySync r code, none⟩ →
          (b'.phase ≠ b.phase → steps (.trySync r code) ⟨ph b.phase, 0, b'.phase.setWidth 32⟩ b')
          ∧ (b'.phase = b.phase → steps (.trySync r code) ⟨ph b.phase, 3, if code = 2 then 2 else 1⟩ { b' with arrived := b'.arrived - 1 })))
    ∧ (∀ q : BitVec 16, s.Retries w → s.sl.remote = some ⟨.barArrive r, some ⟨ph p, 0, q.setWidth 32⟩⟩ →
        GivesAfter (.barArrive t o) s w s (gives p q)
        ∧ (∀ e, w.ended = some e → GivesAfter (.barSync t o) s w s { gives p e with ws := phaseWs 4 e })
        ∧ (w.ended = none → s.barRead r = some b → b.phase ≠ p → b.abrt = false →
          ∃ pl, s.Placed (pa / 64) port pl ∧ GivesAfter (.barSync t o) s w { s with places := pl } (gives p b.phase)))
    ∧ (∀ e, s.Retries w → w.ended = some e → GivesAfter (.barWait t o) s w s { s.th with ws := phaseWs 4 e })

/-- The barrier instructions: `Piece.CoreBarriers`, `Piece.RemoteBarriers`. -/
def Obligations.Barriers : Prop :=
  Piece.CoreBarriers ∧ Piece.RemoteBarriers

/-! ## Messages and delegation (R230 to R234) -/

/-- R39, R230, R193: `send` of an irrevocable task takes a credit at its target and puts the message on the thread's store path; its lineage counts
it; DIRECT_SEND then appends it to the target's inbox once no store for this chip stands before it, in the lowest free place (the model's choice, log
65: R247 says any). A send whose wait holds its credit goes to the target that was judged. The looks into the core set and the stub table recall what
they read (R192, log 105). What lies above the payload is free (log 20). -/
def Piece.Sends : Prop :=
  ∀ (s : State) (rc rs : Fin 16) (ds : Sel) (len : BitVec 6) (tag : BitVec 8) (c k : Nat) (t : Fin 4) (e : OpEntry) (m : Msg) (x : Lineage)
    (w : Wait),
    let core := BitVec.ofNat 13 (s.g rc).toNat
    let entry (m : Msg) : OpEntry :=
      OpEntry.mk s.curTask s.curCore s.curSlot s.curCtx 0 (noGran none) (.message (.localCore c) m) s.instant
    (s.Plain → s.spec = false → (s.g rc).toNat / 65536 % 64 = 0 →
      s.targetCore s.curCtx core = some c → (s.coreAt c).ctx = some s.curCtx →
      (s.coreAt c).msgRoom = true → s.lineage? s.curCtx s.th.lid = some x →
      let n := min len.toNat 48
      ∃ m : Msg, GivesIn (.send rc rs ds len tag) s
          { ((s.sawCore s.curCtx core).setCore c { s.coreAt c with inboxHeld := (s.coreAt c).inboxHeld + 1 }).setLineage s.curCtx s.th.lid
              { x with live := x.live + 1 } with op := s.op ++ [entry m] }.waited
          { s.th with ws := 0 }
        ∧ msgTag m = tag ∧ msgLen m = n ∧ msgScore m = s.logOf s.curCore ∧ msgSchip m = s.chip ∧ msgLid m = s.th.lid ∧ msgSkind m = 0
        ∧ ∀ j < n, BitVec.ofNat 8 (m.toNat / 2 ^ (128 + 8 * j)) = (s.bufLoad .load .a (s.g rs).toNat n).getD j 0)
    ∧ (s.Retries w → w.credit = some (.localCore c) → s.spec = false → s.lineage? s.curCtx s.th.lid = some x →
      ∃ m : Msg, GivesAfter (.send rc rs ds len tag) s w
        { s.setLineage s.curCtx s.th.lid { x with live := x.live + 1 } with op := s.op ++ [entry m] } { s.th with ws := 0 })
    ∧ ((s.pathOf c t)[k]? = some e → e.body = .message (.localCore c) m → s.annulled e.ctx (msgLid m) = false →
      s.stubTarget e.ctx c m = none → (s.dieAt (dieOf e.core)).monitors = [] →
      ((∃ z, s.olderOn e z ∧ ∃ b mk, z.body = .store b mk ∧ z.gran.peer = none) → exec (.directSend c t k) s = .next s)
      ∧ ((∀ z, ¬s.olderOn e z) → ∀ n < 128, tget (s.coreAt c).inbox n = none → (∀ j < n, tget (s.coreAt c).inbox j ≠ none) →
        exec (.directSend c t k) s = .next { (s.sawStubs e.ctx c m).setCore c { s.coreAt c with
            inboxHeld := (s.coreAt c).inboxHeld - 1, nextOrder := (s.coreAt c).nextOrder + 1
            inbox := tset (s.coreAt c).inbox n ⟨.message m 0, e.ctx, s.instant, (s.coreAt c).nextOrder, false, none, false⟩ } with op := s.op.erase e }))

/-- R231, R232: `recv` refuses a tag whose handlers are enabled; it takes the earliest entry of its tag, with the 64 bytes stored in the A buffer and
the header in a register, and waits where there is none; `poll` counts the entries. A message forwarded four times is none of them (log 90), nor is one that `tag.clr` has taken (R270). -/
def Piece.Receives : Prop :=
  ∀ (s : State) (d a b : Fin 16) (ds : Sel) (n : Nat) (x : InSlot) (l : Lineage), s.Plain →
    let tag : BitVec 8 := (s.g b).setWidth 8
    let mine := s.co.inbox.filter fun e => decide (e.2.ctx = s.curCtx) && !e.2.started && !e.2.cleared && (match e.2.entry with
      | .message m hops => msgTag m == tag && decide (hops < 4)
      | .completion m => msgTag m == tag
      | _ => false)
    let m := x.entry.msg
    GivesG (.poll d b) s d (w64 mine.length)
    ∧ (s.co.tagen.getLsbD tag.toNat = true → GivesThread (.recv d a b ds) s { s.th with ws := 6 + 1 * 2 ^ 32 })
    ∧ (s.co.tagen.getLsbD tag.toNat = false → s.purgeCore s.curCore = s → mine = [] → s.mayWait ds → BeginsWait (.recv d a b ds) s s ds 0)
    ∧ (s.co.tagen.getLsbD tag.toNat = false → s.purgeCore s.curCore = s → s.co.memWf = true → (n, x) ∈ mine →
        (∀ e ∈ mine, e ≠ (n, x) → x.order < e.2.order) → s.lineage? s.curCtx (msgLid m) = some l → 1 < l.live →
        ∃ m', GivesIn (.recv d a b ds) s
            ((s.setCo { s.co with bufA := m', inbox := terase s.co.inbox n }).setLineage s.curCtx (msgLid m) { l with live := l.live - 1 }).waited
            { s.th with g := s.th.g.set d.val (w64 m.toNat) d.isLt, ws := 0 }
          ∧ Lands s.co.bufA m' (physByte s.th.bufA (s.g a).toNat) (leBytes 64 m.toNat))

/-- `send`, `recv` and `poll`: `Piece.Sends`, `Piece.Receives`. -/
def Obligations.SendsAndReceives : Prop :=
  Piece.Sends ∧ Piece.Receives

/-- R233, R234, R277, R282: `deleg` is refused at a resident core that is no server, waits for a core of another context and for a full queue, and
else takes a place in the server's queue and leaves on the store path; `deleg.on`, once slot 3 holds no task, and `deleg.off` set whether the core
serves, and need supervisor level, and a server's slot 3 is reserved for no vector group (R36, log 107); `home` reads the ring entry of its key's hash, at supervisor level (the model's choice, log 64). -/
def Obligations.Delegation : Prop :=
  ∀ (s : State) (rc ra rr d a b : Fin 16) (ds : Sel) (nte : Bool) (ctag : BitVec 8) (c : Nat) (k : Task) (x : Lineage)
    (ps : List (Option Nat × Nat × Nat)), s.Plain →
    let y := s.coreAt c
    let i := Instr.deleg rc ra rr ds nte ctag
    let u := s.sawTarget s.curCtx (s.g rc)
    ((s.g rc).toNat / 65536 % 64 = 0 → s.targetCore s.curCtx (BitVec.ofNat 13 (s.g rc).toNat) = some c →
      (y.ctx = some s.curCtx → y.server = false → GivesIn i s u { s.th with ws := 6 + 2 * 2 ^ 32 })
      ∧ (y.ctx ≠ some s.curCtx ∨ (y.server = true ∧ 32 ≤ y.delegQ.length + y.delegHeld) → s.mayWait ds → BeginsWait i s u ds 1)
      ∧ (y.server = true → y.ctx = some s.curCtx → y.delegQ.length + y.delegHeld < 32 → s.spec = false → s.sl.task = some k →
        s.lineage? s.curCtx s.th.lid = some x →
        GivesIn i s { (u.setCore c { y with delegHeld := y.delegHeld + 1 }).setLineage s.curCtx s.th.lid { x with live := x.live + 1 } with
            op := s.op ++ [OpEntry.mk s.curTask s.curCore s.curSlot s.curCtx 0 (noGran none) (.deleg c
              { khandle := (s.g rr).setWidth 32, entry := (s.g rr >>> 32).setWidth 32
                args := BitVec.ofNat 256 (leNat (s.bufLoad .load .a (s.g ra).toNat 32)), ctx := s.curCtx, lid := s.th.lid, prio := k.prio
                nte := nte, ctag := ctag, requester := s.curCore }) s.instant] }.waited { s.th with ws := 0 }))
    ∧ (s.th.priv = 0 → RaisesTrap (.delegOn ds) s 5 0 0 0 0 s.th.pc ∧ RaisesTrap .delegOff s 5 0 0 0 0 s.th.pc)
    ∧ (s.th.priv ≠ 0 → GivesIn .delegOff s (s.setCo { s.co with server := false }) s.th
      ∧ ((s.co.slots.get 3).task = none → s.sl.task ≠ none → GivesIn (.delegOn ds) s (s.setCo { s.co with
          server := true, slots := s.co.slots.set 3 { s.co.slots.get 3 with reserved := none } }).waited { s.th with ws := 0 })
      ∧ ((s.co.slots.get 3).task ≠ none → s.mayWait ds → BeginsWait (.delegOn ds) s s ds 0))
    ∧ (let hash : Word := s.g a * 0x9E3779B97F4A7C15 + s.g b * 0xC2B2AE3D27D4EB4F
      let va := s.descWord s.curCtx 6 + 4 * (hash >>> 52)
      s.translateRange s.curCtx 1 va 4 needR = .ok ps →
      (∀ p ∈ ps, p.1 = none ∧ p.2.1 + p.2.2 < 0xF000000000000) → s.late = false → ds ≠ .poll → s.op = [] → s.lq = [] →
      let e := leNat ((byteList ps).map fun p => mget s.mem p.2)
      let v := s.noteRange s.curCtx va 4
      GivesIn (.home d a b ds) s { v with places := v.recalled fun g => (byteList ps).any fun p => p.2 / 64 == g }.waited
        { s.th with g := s.th.g.set d.val (w64 e) d.isLt, ws := if 2 ^ 31 ≤ e then 0 else 6 + 1 * 2 ^ 32 })

/-! ## Work (R255 to R263) -/

/-- R256 to R258: `fork` pushes a child record at the newest end of the deque, or, for a speculative task, reserves its place and holds the record in
the commit buffer, for whose 33rd entry it waits for its commit; on a full deque the child is called inline in the lowest free frame, a call that
ends the dictionary window as a taken branch does (log 92), and without one,
or at the greatest depth, cause 9 is raised. -/
def Piece.Forks : Prop :=
  ∀ (s : State) (d : BitVec 24) (k : Task) (x : Lineage) (f : Nat), s.Plain → s.sl.task = some k → s.lineage? k.ctx s.th.lid = some x →
    let target := s.th.pc + 8 * d.signExtend 64
    let co := s.co
    let child (r : Rec) : Prop := recKHandle r = k.khandle ∧ recEntry r = ((target - k.base) >>> 3).setWidth 32 ∧ recDict r = s.sl.dict.activeBank.handle
      ∧ recLid r = s.th.lid ∧ recTstamp r = s.th.tstamp ∧ recBudget r = recBudget k.record ∧ recFlags r = recFlags k.record &&& 0xFF
      ∧ recArg r 0 = s.g 0 ∧ recArg r 1 = s.g 1 ∧ recArg r 2 = s.g 2 ∧ recArg r 3 = s.g 3
    let counted (y : State) : State := y.setLineage k.ctx s.th.lid { x with live := x.live + 1 }
    let th : Thread := { s.th with children := s.th.children + 1, ws := 0 }
    (co.deque.length < 64 → k.spec = false → ∃ r, child r ∧ GivesIn (.fork d) s { counted (s.setCo { co with
          deque := co.deque ++ [⟨co.nextPlace, s.th.stealdom, some ⟨r, k.ctx, s.nextTask, some s.th.tid, s.instant, 0, 1⟩⟩], nextPlace := co.nextPlace + 1 }) with
        nextTask := s.nextTask + 1, dq := s.dq ++ [⟨s.nextTask, k.ctx, tsDomain s.th.tstamp, tsSeq s.th.tstamp⟩] } th)
    ∧ (co.deque.length < 64 → k.spec = true → s.sl.cb.length < 32 → ∃ r, child r ∧
        exec (.fork d) s = .next ((counted (s.setCo { co with
            deque := co.deque ++ [⟨co.nextPlace, s.th.stealdom, none⟩], nextPlace := co.nextPlace + 1 })).setSl
          { s.sl.ended with cb := s.sl.cb ++ [.deque co.nextPlace r s.th.tid], thread := { th with pc := s.th.pc + 8 } }))
    ∧ (co.deque.length < 64 → k.spec = true → 32 ≤ s.sl.cb.length → s.mayWait .cap → BeginsWait (.fork d) s s .cap 9)
    ∧ (64 ≤ co.deque.length → f < 8 → f ∉ co.framesUsed → (∀ j < f, j ∈ co.framesUsed) → s.sl.inline.length < s.th.inldepth.toNat →
        exec (.fork d) s = .next ({ s with nextTask := s.nextTask + 1 }.setSl { s.sl.jumped with
          thread := { s.th with
            g := #v[s.g 0, s.g 1, s.g 2, s.g 3, 0, 0, 0, 0, 0, 0, 0, 0, 0, 0, w64 (0x6000 + 0x400 * f), 0]
            p := Vector.replicate 4 false, ws := 0, loops := [], children := 0, parent := none, tid := s.nextTask, pc := target }
          inline := s.sl.inline ++ [Inline.mk f { s.th with pc := s.th.pc + 8 }] }))
    ∧ (64 ≤ co.deque.length → (∀ j < 8, j ∈ co.framesUsed) ∨ s.th.inldepth.toNat ≤ s.sl.inline.length → RaisesTrap (.fork d) s 9 0 0 0 0 s.th.pc)

/-- R258 to R262, R302: `join` is done with no child left and else waits; `irrev` is done for an irrevocable task and makes a speculative one wait for
its commit; `done` gives up the slot, with the task's count in its lineage, its place in DQ and the EST of its kernel (R353), and in an inline child
goes back to the parent, with ws DONE and DETAIL 1, which ends no dictionary window (log 92). -/
def Piece.JoinAndDone : Prop :=
  ∀ (s : State) (ds : Sel) (k : Task) (x : Lineage) (y : Context) (kn : Kernel) (i : Inline) (r : List Inline), s.Plain → s.sl.task = some k →
    let held : Prop := ∃ e ∈ s.sl.cb, ∃ p q z, e = CbEntry.deque p q z
    let sl := s.sl.ended
    (¬held → s.th.children = 0 → GivesIn (.join ds) s s.waited { s.th with ws := 0 })
    ∧ (¬held → s.th.children ≠ 0 → s.mayWait ds → BeginsWait (.join ds) s s ds 1)
    ∧ (k.spec = false → GivesThread (.irrev ds) s { s.th with ws := 0 })
    ∧ (k.spec = true → s.mayWait ds → BeginsWait (.irrev ds) s s ds 9 ∧ (held → BeginsWait (.join ds) s s ds 9))
    ∧ (s.sl.inline = r ++ [i] → i.saved.lid = s.th.lid → EndsIn .done s { sl with
        inline := r
        thread := { i.saved with ws := 2 ^ 32, remain := s.th.remain, stealdom := s.th.stealdom, inldepth := s.th.inldepth
                                 bufW := s.th.bufW, bufA := s.th.bufA, bufC := s.th.bufC } })
    ∧ (s.sl.inline = [] → k.spec = true → s.mayWait .cap → BeginsWait .done s s .cap 9)
    ∧ (s.sl.inline = [] → k.spec = false → k.kind = .plain → s.sl.cb = [] → s.th.parent = none → s.sl.claim = 0 → s.sl.token = none →
        (∀ q ∈ (s.dieAt (dieOf s.curCore)).boostQ, (q.core, q.slot) ≠ (s.curCore, s.curSlot)) →
        (∀ e ∈ s.clusters, ∀ l, e.2.harp.lease = some l → l.tid ≠ k.id) → s.lineage? k.ctx s.th.lid = some x → 1 < x.live → s.ctx? k.ctx = some y → tget y.kernels k.khandle.toNat = some kn →
        exec .done s = .next ({ (s.setLineage k.ctx s.th.lid { x with live := x.live - 1 }).setCtx k.ctx { y with
              kernels := tset y.kernels k.khandle.toNat { kn with est := (3 * kn.est + k.ran) / 4 } } with
            dq := s.dq.filter fun e => e.id != k.id, ready := s.ready.filter fun e => e.1 != k.id
            ft := s.ft.filter fun e => e.owner != k.id || e.msg.isSome }.setSl sl.clear))

/-- `fork`, `join`, `irrev` and `done`: `Piece.Forks`, `Piece.JoinAndDone`. -/
def Obligations.ForksAndJoins : Prop :=
  Piece.Forks ∧ Piece.JoinAndDone

/-- R45, R261, R263, R352: `yield` goes on where nothing ranks at or above its task or no room is left, and else packs the thread into four entries of
its own inbox; `migrate` to the thread's own core goes on, to another core, once a buffer that is not empty is committed and its engines are quiet, the
thread leaves its slot as a package in flight; either ends the thread's boost claim, refused or not; the package's arrival puts it into four free
entries there. What the scheduler and the core set's check read is recalled (R192, log 105). -/
def Obligations.Packages : Prop :=
  ∀ (s : State) (a : Fin 16) (ds : Sel) (k : Task) (n c : Nat) (pk : Package), s.Plain →
    let x := s.co
    let th : Thread := { s.th with ws := 2 ^ 32, pc := s.th.pc + 8 }
    let packed (p : Package) (target : Nat) : Prop := p.thread = th ∧ p.task = { k with firstDone := true } ∧ p.rs = s.sl.rs
      ∧ p.handle = s.sl.dict.activeBank.handle ∧ p.target = target ∧ p.inline = s.sl.inline ∧ p.divider = s.sl.divider ∧ p.halt = none
    let left : Slot := s.sl.ended.clear
    let unclaimed : Prop := s.sl.claim = 0 ∧ ∀ q ∈ (s.dieAt (dieOf s.curCore)).boostQ, (q.core, q.slot) ≠ (s.curCore, s.curSlot)
    let stays (i : Instr) (seen : State) (ws : Word) : Prop := (unclaimed → GivesIn i s seen { s.th with ws := ws })
      ∧ Completes i s fun u => u.th = { s.th with ws := ws, pc := s.th.pc + 8 } ∧ u.sl.claim = 0
        ∧ (u.dieAt (dieOf s.curCore)).boostQ = (s.dieAt (dieOf s.curCore)).boostQ.filter fun q => !(q.core == s.curCore && q.slot == s.curSlot)
    let core := BitVec.ofNat 13 (s.g a).toNat
    let ranked := s.sawHandlers s.curCore
    let seen := s.sawCore s.curCtx core
    let landed (y y' : Core) (p : Package) (id ctx : Nat) : Prop := ∃ at_ : Fin 4 → Nat, (∀ i j, at_ i = at_ j → i = j)
      ∧ (∀ j, at_ j < 128 ∧ tget y.inbox (at_ j) = none
          ∧ tget y'.inbox (at_ j) = some ⟨.package j id (if j = 0 then some p else none), ctx, s.instant, y.nextOrder + j.val, false, none, false⟩)
      ∧ ∀ m, (∀ j, at_ j ≠ m) → tget y'.inbox m = tget y.inbox m
    let sorted (y : Core) : Prop := (y.inbox.map (·.1)).Pairwise (· < ·) ∧ ∀ e ∈ y.inbox, e.1 < 128
    (s.sl.task = some k →
      (s.rival s.curCore k.prio = false ∨ x.recRoom 4 = false → stays (.yield ds) ranked 0)
      ∧ (s.rival s.curCore k.prio = true → x.recRoom 4 = true → s.sl.cb ≠ [] → k.spec = true → s.mayWait ds → BeginsWait (.yield ds) s ranked ds 9)
      ∧ (s.rival s.curCore k.prio = true → x.recRoom 4 = true → s.sl.cb = [] → s.sl.halt = none → unclaimed → sorted x →
        ∃ p, packed p s.curCore ∧ Completes (.yield ds) s fun u => u = { ranked with nextTask := s.nextTask + 1, cores := u.cores }
          ∧ u.cores = ((s.setCo { x with inbox := u.co.inbox, nextOrder := x.nextOrder + 4 }).setSl left).cores
          ∧ landed x u.co p s.nextTask k.ctx)
      ∧ (s.physOf core = some c → s.inCoreSet s.curCtx core = true → s.sl.inline = [] → (∀ q, k.kind ≠ .deleg q) →
        (c = s.curCore → stays (.migrate a ds) seen 0)
        ∧ (c ≠ s.curCore → s.sl.cb ≠ [] → k.spec = true → s.mayWait ds → BeginsWait (.migrate a ds) s seen ds 9)
        ∧ (c ≠ s.curCore → s.sl.cb = [] → s.enginesBusy s.curCore k.id = true → s.mayWait ds → BeginsWait (.migrate a ds) s seen ds 1)
        ∧ (c ≠ s.curCore → s.sl.cb = [] → s.enginesBusy s.curCore k.id = false → s.packRoom k.ctx c = true → s.sl.halt = none → unclaimed →
          (∀ l, (s.clusterAt (clusterOf s.curCore)).harp.lease = some l → l.core = s.curCore → k.id ∉ l.users) →
          ∃ p, packed p c ∧ exec (.migrate a ds) s = .next ({ seen.waited.setCore c { s.coreAt c with pkgHeld := (s.coreAt c).pkgHeld + 4 } with
            transit := s.transit ++ [p] }.setSl left)))
      ∧ (s.physOf core = none → stays (.migrate a ds) s (6 + 1 * 2 ^ 32))
      ∧ (s.physOf core = some c → s.inCoreSet s.curCtx core = false → stays (.migrate a ds) seen (6 + 3 * 2 ^ 32))
      ∧ (s.physOf core = some c → s.inCoreSet s.curCtx core = true → s.sl.inline ≠ [] ∨ (∃ q, k.kind = .deleg q) →
        stays (.migrate a ds) seen (6 + 4 * 2 ^ 32)))
    ∧ (s.transit[n]? = some pk → s.annulled pk.task.ctx pk.thread.lid = false →
      let y := s.coreAt pk.target
      sorted y → y.inbox.length + 4 ≤ 128 →
      Completes (.migrationArrive n) s fun u => u = { s with nextTask := s.nextTask + 1, transit := s.transit.eraseIdx n, cores := u.cores }
        ∧ u.cores = (s.setCore pk.target { y with
            pkgHeld := y.pkgHeld - 4, inbox := (u.coreAt pk.target).inbox, nextOrder := y.nextOrder + 4 }).cores
        ∧ landed y (u.coreAt pk.target) pk s.nextTask pk.task.ctx)

/-! ## Vector groups (R264 to R266) -/

/-- R264, R266: `gang` is refused for a run that it may not name and within a group; where every other core of the run has a free slot, it makes the
members followers that start after the unit from the leader's registers, with empty vector state, predicates kept and no children of their own (log
24), and tells each its position and the mask; `rejoin` outside a group is done at once, and a leader's with every follower attached gives all of them
the mask. -/
def Piece.Groups : Prop :=
  ∀ (s : State) (d a : Fin 16) (ds : Sel) (k : Task) (cs : List Nat) (ms : List (Nat × Fin 4)) (pos : Nat) (mask : BitVec 16),
    let run := s.gangRun ((s.g a).toNat % 2 ^ 13) ((s.g a).toNat / 2 ^ 16 % 32)
    (s.Plain → (run = none → GivesIn (.gang d a ds) s (s.sawRun ((s.g a).toNat % 2 ^ 13) ((s.g a).toNat / 2 ^ 16 % 32)) { s.th with ws := 6 + 1 * 2 ^ 32 })
      ∧ GivesThread (.rejoin d ds) s { s.th with ws := 0 })
    ∧ (s.Plain → run = some cs → cs.Nodup → s.sl.task = some k → k.spec = false →
      (∀ c ∈ cs, c ≠ s.curCore → s.freeSlot c ≠ none ∧ s.reservedAt c = none) →
      (∀ u : State, u.mem = s.mem → u.contexts = s.contexts → u.frames = s.frames → u.tlb = s.tlb → u.tick = s.tick → ∀ y, ∃ y',
        u.reloadDict k.ctx y s.sl.dict.activeBank.handle = .ok y') →
      let all : BitVec 16 := BitVec.ofNat 16 (2 ^ cs.length - 1)
      let word (p : Nat) : Word := w64 (all.toNat * 65536 + p)
      let done : Word := w64 (all.toNat * 2 ^ 32)
      Completes (.gang d a ds) s fun u => ∃ ms mine, u.sl.group = some (.leader ms mine all) ∧ ms.map (·.1) = cs ∧ cs[mine]? = some s.curCore
        ∧ u.th = { s.th with g := s.th.g.set d.val (word mine) d.isLt, ws := done, pc := s.th.pc + 8 }
        ∧ ∀ p m, ms[p]? = some m → m ≠ (s.curCore, s.curSlot) →
          let f := u.slotAt m.1 m.2
          f.group = some (.follower s.curCore s.curSlot p true) ∧ f.v = Vector.replicate 16 0 ∧ f.m = Vector.replicate 8 0
          ∧ f.thread.g = s.th.g.set d.val (word p) d.isLt ∧ f.thread.ws = done ∧ f.thread.pc = s.th.pc + 8 ∧ f.thread.p = s.th.p
          ∧ f.thread.lid = s.th.lid ∧ f.thread.children = 0)
    ∧ (s.sl.group = some (.leader ms pos mask) → s.sl.stepping = false → s.sl.wait = none → s.sl.pendA = none → s.sl.newPc = none →
      ms.Nodup →
      (∀ m ∈ ms, m ≠ (s.curCore, s.curSlot) → (s.slotAt m.1 m.2).fwd = [] ∧ (s.slotAt m.1 m.2).wait = none
        ∧ ∃ p, (s.slotAt m.1 m.2).group = some (.follower s.curCore s.curSlot p true)) →
      Completes (.rejoin d ds) s fun u =>
        u.th = { s.th with g := s.th.g.set d.val (w64 (mask.toNat * 65536 + pos)) d.isLt, ws := 0, pc := s.th.pc + 8 }
        ∧ ∀ m ∈ ms, ∀ p, (s.slotAt m.1 m.2).group = some (.follower s.curCore s.curSlot p true) → m ≠ (s.curCore, s.curSlot) →
          (u.slotAt m.1 m.2).thread.g = (s.slotAt m.1 m.2).thread.g.set d.val (w64 (mask.toNat * 65536 + p)) d.isLt)

/-- R44, R180, R261, R264 to R266: a leader with a follower that holds four forwarded units does not issue; each unit that it fetches is forwarded to
every attached follower, which executes it, but to none that holds it already or that a `rejoin` there has sent on; when the unit is complete in both,
a follower whose next pc is not the leader's detaches, and halts where the unit was stepped (R368); a member is
refused `gang` and `yield`, a follower that migrates detaches, and the harp instructions act in the leader alone. -/
def Piece.GroupForwarding : Prop :=
  ∀ (s : State) (c lc w0 w1 pos p : Nat) (t lt : Fin 4) (q : Fin 4) (e : BitVec 22) (i : Instr) (ms : List (Nat × Fin 4)) (mask : BitVec 16) (f : Fwd)
    (r : List Fwd) (late za zd : Bool) (d a : Fin 16) (ds : Sel) (mw : MwFields) (org : Origin) (dest : DrainDest) (x y : BitVec 6) (k : Task),
    let me := (s.curCore, s.curSlot)
    let next : Word := if s.th.p.get q then s.th.pc + 8 * e.signExtend 64 else s.th.pc + 8
    let nextOf (m : Nat × Fin 4) : Word := let sl := s.slotAt m.1 m.2; sl.misTarget.getD sl.thread.pc
    let alone : Prop := s.sl.stepping = false ∧ s.sl.halt = none ∧ s.sl.wait = none ∧ s.sl.pendA = none ∧ s.sl.newPc = none ∧ s.sl.misTarget = none
    let joined (l m : Nat × Fin 4) (j : Nat) : Prop := m ≠ l ∧ (s.slotAt m.1 m.2).group = some (.follower l.1 l.2 j true)
    let leads (l : Nat × Fin 4) : Prop := (s.slotAt l.1 l.2).group = some (.leader ms pos mask)
    let follows : Prop := joined (lc, lt) me p ∧ leads (lc, lt) ∧ alone
    let away (u : State) : Prop := u.sl.group = some (.follower lc lt p false) ∧ u.sl.fwd = []
      ∧ (u.slotAt lc lt).group = some (.leader ms pos (mask &&& ~~~BitVec.twoPow 16 p))
    let refused (i : Instr) : Prop := Completes i s fun u => u.th = { s.th with ws := 6 + 2 * 2 ^ 32, pc := s.th.pc + 8 }
    (leads (c, t) → (∃ m ∈ ms, ∃ j, joined (c, t) m j ∧ 4 ≤ (s.slotAt m.1 m.2).fwd.length) → s.issue exec c (BitVec.twoPow 4 t.val) late = .next s)
    ∧ (leads me → ms.Nodup → ∀ m ∈ ms, ∀ j, joined me m j →
        let sl := s.slotAt m.1 m.2
        let told := (s.forward w0 w1).slotAt m.1 m.2
        ((∀ g ∈ sl.fwd, g.next ≠ none) →
          (sl.fwd ≠ [] ∨ sl.thread.pc = s.th.pc → told = { sl with
            fwd := sl.fwd ++ [⟨BitVec.ofNat 32 w0, BitVec.ofNat 32 w1, s.th.pc, none, false, none, s.sl.stepping⟩] })
          ∧ (sl.fwd = [] → sl.thread.pc ≠ s.th.pc → told = sl))
        ∧ ((∃ g ∈ sl.fwd, g.next = none) → told.fwd.length = sl.fwd.length))
    ∧ (follows → s.sl.fwd = f :: r → s.sl.parkAsked = false → s.sl.overrun = false → s.sl.reload = none → s.breakHit = none →
        (s.slotTurn exec).step s.curCore s.curSlot
          = (SlotTurn.unit ((s.setSl { s.sl with stalled := false }).runUnit exec f.w0.toNat f.w1.toNat)).step s.curCore s.curSlot)
    ∧ (leads me → alone → ms.Nodup →
      (∀ m ∈ ms, m ≠ me → (∃ j, joined me m j) ∧ ∃ g, (s.slotAt m.1 m.2).fwd = [g] ∧ g.next = none ∧ g.done = true) →
      Completes (.bc q e) s fun u => u.th = { s.th with pc := next }
        ∧ (∀ m ∈ ms, ∀ j, joined me m j →
          (nextOf m = next → u.slotAt m.1 m.2 = { s.slotAt m.1 m.2 with fwd := [] })
          ∧ ∀ g, (s.slotAt m.1 m.2).fwd = [g] → nextOf m ≠ next → u.slotAt m.1 m.2 = { s.slotAt m.1 m.2 with
              fwd := [], group := some (.follower s.curCore s.curSlot j false), halt := if g.stepped then some ⟨5, 0⟩ else (s.slotAt m.1 m.2).halt })
        ∧ ∃ left, u.sl.group = some (.leader ms pos left)
          ∧ ∀ b < 16, left.getLsbD b = true ↔ mask.getLsbD b = true ∧ ∀ m ∈ ms, joined me m b → nextOf m = next)
    ∧ (follows → s.sl.fwd = f :: r → f.done = false → Completes (.bc q e) s fun u => u.th = { s.th with pc := next }
        ∧ (f.next = none → u.sl.group = s.sl.group ∧ u.sl.fwd = { f with done := true } :: r)
        ∧ (f.next = some next → u.sl.group = s.sl.group ∧ u.sl.fwd = r)
        ∧ (∀ n, f.next = some n → n ≠ next → away u))
    ∧ (alone → s.sl.group ≠ none → (s.gangRun ((s.g a).toNat % 2 ^ 13) ((s.g a).toNat / 2 ^ 16 % 32) ≠ none → refused (.gang d a ds))
        ∧ refused (.yield ds))
    ∧ (follows → s.sl.task = some k → (∀ q, k.kind ≠ .deleg q) → s.sl.inline = [] → s.sl.cb = [] → s.physOf (BitVec.ofNat 13 (s.g a).toNat) = some c →
        c ≠ s.curCore → s.inCoreSet s.curCtx (BitVec.ofNat 13 (s.g a).toNat) = true → s.enginesBusy s.curCore k.id = true → s.mayWait ds →
        Completes (.migrate a ds) s away)
    ∧ (follows → i = .hrelease ∨ i = .hlease ds ∨ i = .hswap ds ∨ i = .hldw mw org zd ∨ i = .hstream mw org x y za ∨ i = .hdrain mw dest x y za
        ∨ i = .hsave mw org x y ∨ i = .hrestore mw org x y →
        Completes i s fun u => u.th = { s.th with pc := s.th.pc + 8 } ∧ u.clusters = s.clusters)

/-- `gang` and `rejoin`, and the forwarding and divergence of a vector group: `Piece.Groups`, `Piece.GroupForwarding`. -/
def Obligations.VectorGroups : Prop :=
  Piece.Groups ∧ Piece.GroupForwarding

/-! ## Graph nodes, tags and lineages (R267 to R273) -/

/-- R267 to R269: `node.new` makes the lowest free node of its die (logs 65, 69), ready at once with a counter of 0; `node.dec` leaves for the node
and waits; its step takes one from a counter above 0, makes the node ready at 0, and refuses a stale handle; the ready list's first node places its
record in the lowest free place of its target's inbox (log 65) and is freed: the first of them whose own target can take it (R247). -/
def Piece.Nodes : Prop :=
  ∀ (s : State) (d a t : Fin 16) (ds : Sel) (count : BitVec 16) (n c die : Nat) (u : Fin 4) (x : Lineage) (k : Task) (h : BitVec 32) (z : Node)
    (w : Wait) (left : BitVec 32) (l r : List Nat),
    let target := BitVec.ofNat 13 (s.g t).toNat
    let rec64 : Rec := BitVec.ofNat 512 (leNat (s.bufLoad .load .a (s.g a).toNat 64))
    let mine := dieOf s.curCore
    let dx := s.dieAt mine
    let made (ready : Bool) (div : Nat) : Node := ⟨⟨rec64, s.curCtx, s.nextTask, none, s.instant, 0, div⟩, count, target, ready⟩
    let handle (dd : Nat) (gens : Tab (BitVec 12)) (i : Nat) : Nat := ((tget gens i).getD 0).toNat * 2 ^ 20 + dd * 2 ^ 18 + i
    (s.Plain → s.spec = false → s.targetCore s.curCtx target ≠ none → s.annulled s.curCtx (recLid rec64) = false →
      s.lineage? s.curCtx (recLid rec64) = some x → dx.nodes.length < 262144 → n ≤ dx.nodes.length → tget dx.nodes n = none →
      (∀ j < n, tget dx.nodes j ≠ none) → ∃ div,
        GivesIn (.nodeNew d a t ds count) s (State.waited { ((s.sawCore s.curCtx target).setDie mine { dx with
              nodes := tset dx.nodes n (made (decide (count = 0)) div), ready := dx.ready ++ if count = 0 then [n] else [] }).setLineage s.curCtx
            (recLid rec64) { x with live := x.live + 1 } with
          nextTask := s.nextTask + 1
          dq := s.dq ++ [DqEntry.mk s.nextTask s.curCtx (tsDomain (recTstamp rec64)) (tsSeq (recTstamp rec64))] })
          { s.th with g := s.th.g.set d.val (w64 (handle mine dx.gens n % 2 ^ 32)) d.isLt, ws := 0 })
    ∧ (s.Plain → s.spec = false → s.sl.remote = none → s.mayWait ds → EndsIn (.nodeDec a ds) s { s.sl with
        remote := some ⟨.nodeDec ((s.g a).setWidth 32), none⟩, wait := some (s.newWait (.nodeDec a ds) ds 1) })
    ∧ (∀ v, s.Retries w → s.sl.remote = some ⟨.nodeDec h, some ⟨v, 0, left⟩⟩ →
        GivesAfter (.nodeDec a ds) s w s { s.th with ws := left.setWidth 64 * 2 ^ 32 })
    ∧ (let sl := s.slotAt c u
      sl.task = some k → sl.remote = some ⟨.nodeDec h, none⟩ → (∀ e ∈ s.op, e.owner = k.id → e.gran.peer ≠ none) → die < 4 → n < 2 ^ 18 →
      let y := s.dieAt die
      h.toNat = handle die y.gens n → tget y.nodes n = some z →
      (z.task.ctx = k.ctx → 1 < z.counter.toNat → exec (.nodeStep c u) s = .next ((s.setDie die { y with
          nodes := tset y.nodes n { z with counter := z.counter - 1 } }).setSlot c u
            { sl with remote := some ⟨.nodeDec h, some ⟨0, 0, (z.counter - 1).setWidth 32⟩⟩ }))
      ∧ (z.task.ctx = k.ctx → z.counter = 1 → ∃ div, exec (.nodeStep c u) s = .next ((s.setDie die { y with
          nodes := tset y.nodes n { z with counter := 0, ready := true, task := { z.task with divider := div } }, ready := y.ready ++ [n] }).setSlot c u
            { sl with remote := some ⟨.nodeDec h, some ⟨0, 0, 0⟩⟩ }))
      ∧ (z.task.ctx ≠ k.ctx ∨ z.counter = 0 → exec (.nodeStep c u) s = .next (s.setSlot c u { sl with remote := some ⟨.nodeDec h, some ⟨0, 6, 1⟩⟩ })))
    ∧ (let y := s.dieAt die
      y.ready = l ++ n :: r → n ∉ l →
      (∀ j ∈ l, ∃ o, tget y.nodes j = some o ∧ s.annulled o.task.ctx (recLid o.task.record) = false
        ∧ ∀ q, s.physOf o.target = some q → (s.coreAt q).ctx ≠ some o.task.ctx ∨ (s.coreAt q).recRoom 1 = false) → tget y.nodes n = some z → s.annulled z.task.ctx (recLid z.task.record) = false → s.physOf z.target = some c →
      let b := s.coreAt c
      b.ctx = some z.task.ctx → b.recRoom 1 = true → ∀ e < 128, tget b.inbox e = none → (∀ j < e, tget b.inbox j ≠ none) →
      exec (.nodePlace die) s = .next ((s.setDie die { y with
          nodes := terase y.nodes n, gens := tset y.gens n ((tget y.gens n).getD 0 + 1), ready := y.ready.filter fun j => j != n }).setCore c { b with
            inbox := tset b.inbox e ⟨.record { z.task with ready := s.instant }, z.task.ctx, s.instant, b.nextOrder, false, none, false⟩
            nextOrder := b.nextOrder + 1 }))

/-- R40, R270, R282: the tag instructions set and clear one bit of TAGEN, and read whether an entry of a tag waits (a message that is only to be
forwarded does not, log 90); `tag.clr` needs supervisor level, counts every waiting entry of its tag and forwards it inside a fault record of cause 18,
at once or, while the die's pool has no place, later, and nothing else takes it. -/
def Piece.Tags : Prop :=
  ∀ (s : State) (d a : Fin 16) (n : Nat) (x : InSlot), s.Plain →
    let b := (s.g a).toNat % 256
    let tag := BitVec.ofNat 8 b
    let waits (ctx : Option Nat) : Bool := s.co.inbox.any fun e => !e.2.started && !e.2.cleared && (ctx == some e.2.ctx) && (match e.2.entry with
      | .message m hops => msgTag m == tag && decide (hops < 4)
      | .completion m => msgTag m == tag
      | _ => false)
    let bits (i : Instr) (on : Bool) : Prop := ∃ v, GivesIn i s (s.setCo { s.co with tagen := v }) s.th
      ∧ ∀ j < 256, v.getLsbD j = if j = b then on else s.co.tagen.getLsbD j
    bits (.tagEn a) true ∧ bits (.tagDis a) false
    ∧ GivesG (.tagPend d a) s d (if waits s.co.ctx then 1 else 0)
    ∧ (s.th.priv = 0 → RaisesTrap (.tagClr d a) s 5 0 0 0 0 s.th.pc)
    ∧ (s.th.priv ≠ 0 → waits (some s.curCtx) = false → GivesG (.tagClr d a) s d 0)
    ∧ (s.th.priv ≠ 0 → s.co.waiting s.curCtx tag = [(n, x)] → (s.dieAt (dieOf (s.recordCore s.curCtx 18 s.curCore))).carriedPlaces < 4096 →
        Completes (.tagClr d a) s fun u => u.th = { s.th with g := s.th.g.set d.val 1 d.isLt, pc := s.th.pc + 8 }
          ∧ u.co.inbox = terase s.co.inbox n
          ∧ ∃ r, u.priv = s.priv ++ [r] ∧ r.ctx = s.curCtx ∧ r.carried = some x.entry.msg ∧ r.src = .item ∧ r.core = s.recordCore s.curCtx 18 s.curCore
            ∧ bitsOf (recArg r.record 0).toNat 58 6 = 18)
    ∧ (s.th.priv ≠ 0 → s.co.waiting s.curCtx tag = [(n, x)] → 4096 ≤ (s.dieAt (dieOf (s.recordCore s.curCtx 18 s.curCore))).carriedPlaces →
        GivesIn (.tagClr d a) s (s.setCo { s.co with inbox := tset s.co.inbox n { x with cleared := true } })
          { s.th with g := s.th.g.set d.val 1 d.isLt })

/-- Graph nodes and tags: `Piece.Nodes`, `Piece.Tags`. -/
def Obligations.NodesAndTags : Prop :=
  Piece.Nodes ∧ Piece.Tags

/-- R24 to R29, R271 to R273: `lnew` makes the lowest free lineage (log 65), its expiry clamped to its parent's, and moves the task where asked;
`lext` raises an expiry no further than the parent's; both refuse what is not live. -/
def Piece.Lineages : Prop :=
  ∀ (s : State) (d e rp a b : Fin 16) (cl : BitVec 2) (em : ExpiryMode) (n : BitVec 20) (x y : Lineage), s.Plain →
    let ctx := s.curCtx
    let own := s.th.lid
    let eff (l : BitVec 20) : Word := s.effExpiry ctx l
    let want (l : BitVec 20) : Word := match em with
      | .abs => s.g e
      | .rel => if (s.instant.toNat + (s.g e).toNat) < 2 ^ 64 then s.instant + s.g e else BitVec.allOnes 64
      | .inherit => eff l
    let got (l : BitVec 20) : Word := if eff l < want l then eff l else want l
    let free : Prop := s.freeLid ctx = some n ∧ s.lineage? ctx n = none
    let code (l : BitVec 20) : Word := if eff l < want l then 2 ^ 32 else 0
    let gives (w ws : Word) : Thread := { s.th with g := s.th.g.set d.val w d.isLt, ws := ws }
    let from_ (i : Bool → Instr) (p : BitVec 20) : Prop :=
      (s.annulled ctx p = true → GivesThread (i false) s { s.th with ws := 6 + 2 * 2 ^ 32 })
      ∧ (s.annulled ctx p = false → got p ≤ s.instant → GivesThread (i false) s { s.th with ws := 6 + 3 * 2 ^ 32 })
      ∧ (s.annulled ctx p = false → s.instant < got p → s.freeLid ctx = none → GivesThread (i false) s { s.th with ws := 6 + 1 * 2 ^ 32 })
      ∧ (s.annulled ctx p = false → s.instant < got p → free → s.lineage? ctx p = some x →
          GivesIn (i false) s ((s.setLineage ctx n ⟨got p, some p, cl, 0, .live, none, [], none, none⟩).setLineage ctx p { x with live := x.live + 1 })
            (gives (n.setWidth 64) (code p)))
      ∧ (s.annulled ctx p = false → s.instant < got p → free → p = own → s.lineage? ctx p = some x → 0 < x.live →
          ∃ u, exec (i true) s = .next u ∧ u.th = { gives (n.setWidth 64) (code p) with lid := n, pc := s.th.pc + 8 }
            ∧ u.lineage? ctx n = some ⟨got p, some p, cl, 1, .live, none, [], none, none⟩ ∧ u.lineage? ctx p = some { x with live := x.live })
    let l : BitVec 20 := (s.g a).setWidth 20
    let ext := Instr.lext d a b
    from_ (fun ad => .lnew d e rp .own cl em ad) own ∧ from_ (fun ad => .lnew d e rp .reg cl em ad) ((s.g rp).setWidth 20)
    ∧ (s.instant < want own → free → GivesIn (.lnew d e rp .root cl em false) s
        (s.setLineage ctx n ⟨want own, none, cl, 0, .live, none, [], none, none⟩) (gives (n.setWidth 64) 0))
    ∧ (l = 0 → GivesThread ext s { s.th with ws := 6 + 3 * 2 ^ 32 })
    ∧ (l ≠ 0 → s.lineage? ctx l = none → GivesThread ext s { s.th with ws := 6 + 1 * 2 ^ 32 })
    ∧ (l ≠ 0 → s.lineage? ctx l = some y → s.annulled ctx l = true → GivesThread ext s { s.th with ws := 6 + 2 * 2 ^ 32 })
    ∧ (l ≠ 0 → s.lineage? ctx l = some y → s.annulled ctx l = false →
        let top : Word := match y.parent with | some p => if eff p < s.g b then eff p else s.g b | none => s.g b
        let new := if y.expiry < top then top else y.expiry
        GivesIn ext s (s.setLineage ctx l { y with expiry := new }) (gives new 0))

/-- R24, R25, R201, R273: `lannul` of a lineage that is annulled already says so, and of a live one ends the unit and takes the annulment step, after
which the lineage is annulled; a lineage whose effective expiry the instant has reached leaves LIVE as EXPIRED, or is freed with LIVE 0; none does
before. -/
def Piece.Annulment : Prop :=
  ∀ (s : State) (a : Fin 16) (k : Nat) (l : BitVec 20) (x : Lineage),
    let ctx := s.curCtx
    let n : BitVec 20 := (s.g a).setWidth 20
    (s.Plain → s.lineage? ctx n = some x → n ≠ 0 →
      (s.annulled ctx n = true → GivesThread (.lannul a) s { s.th with ws := 2 ^ 32 })
      ∧ (s.annulled ctx n = false → s.spec = false → exec (.lannul a) s =
          .next ((s.setSl { s.sl.ended with thread := { s.th with ws := 0, pc := s.th.pc + 8 } }).annulLineage ctx n))
      ∧ (s.annulled ctx n = false → s.spec = true → s.mayWait .cap → BeginsWait (.lannul a) s s .cap 9))
    ∧ ((s.lineages.map (·.1)).Pairwise (· < ·) → s.lineage? k l ≠ none → (s.annulLineage k l).annulled k l = true)
    ∧ (s.lineage? k l = some x → l ≠ 0 → s.effExpiry k l ≤ s.instant → x.state = .live → s.annulSweep = s →
      (∀ j y, s.lineage? k j = some y → y.parent ≠ some l) → (s.lineages.map (·.1)).Pairwise (· < ·) →
      (x.live ≠ 0 → exec (.lineageExpiry k l) s = .next (s.setLineage k l { x with state := .expired }))
      ∧ (x.live = 0 → x.parent = none → exec (.lineageExpiry k l) s = .next { s with lineages := terase s.lineages (linKey k l) }))
    ∧ (s.instant < s.effExpiry k l → exec (.lineageExpiry k l) s = .next s)

/-- The lineage instructions and annulment: `Piece.Lineages`, `Piece.Annulment`. -/
def Obligations.LineagesAndAnnulment : Prop :=
  Piece.Lineages ∧ Piece.Annulment

/-! ## Copies (R211 to R219) -/

/-- R211 to R217: `cp`, `cp.deal` and `cp.gath` are accepted where their operands pass the checks of R214, the first page of each device endpoint
translates and the channel has a place; a length above 2^24 and the operand errors of R214 are refused, the first in its list winning (log 36), and of
a gather only the first block's page is translated (log 16), of an empty range none (log 112); a full channel is waited for, and so is the walk of a
first page (R286), and a speculative task's copy to device memory waits for the transition. A deal recalls what it reads of the core set (R192, log
105). -/
def Piece.CopyAcceptance : Prop :=
  ∀ (s : State) (f : CopyFields) (cores : List Nat), s.Plain →
    let len := if f.nl then f.leni.toNat * 64 else (s.g f.rl).toNat
    let v := if f.nd then w64 (f.ddisp.toNat * 64) else s.g f.rd
    let pat := (s.g f.rd).toNat
    let first := pat % 2 ^ 13
    let n := pat / 2 ^ 13 % 64 + 1
    let blk := pat / 2 ^ 19 % 16
    let spec := (s.g f.rl).toNat
    let gn := spec % 2 ^ 16
    let gb := 64 * 2 ^ (spec / 2 ^ 16 % 16)
    let addrs := (List.range gn).map fun j => w64 (leNat (bufRead s.co.bufA s.th.bufA ((s.g f.rs).toNat + 8 * j) 8))
    let core (j : Nat) : Option Nat := if first + j < 8192 then s.targetCore s.curCtx (BitVec.ofNat 13 (first + j)) else none
    let seen := (List.range n).foldl (fun u j => u.sawCore s.curCtx (BitVec.ofNat 13 (first + j))) s
    let refusedIn (u : State) (i : Instr) (d : Nat) : Prop := GivesIn i s u { s.th with ws := w64 (6 + d * 2 ^ 32) }
    let refused := refusedIn s
    let refusedDeal := refusedIn seen (.cpDeal f)
    let near : Prop := ∀ j < n, ∃ c, core j = some c ∧ dieOf c = dieOf s.curCore
    let full : Prop := 4 ≤ (s.co.chans.get f.ch).queue.length
    (s.spec = true → f.dk = .dev → s.mayWait f.ds → BeginsWait (.cp f) s s f.ds 9 ∧ BeginsWait (.cpGath f) s s f.ds 9)
    ∧ (s.spec = true → s.mayWait f.ds → BeginsWait (.cpDeal f) s seen f.ds 9)
    ∧ (s.spec = true → f.dk = .arr → len ≤ 2 ^ 24 → s.chanFree f.ch → s.opens f.sk (s.g f.rs) len needR →
        TakesCopy (.cp f) s s f (s.srcOf f.sk (s.g f.rs)) (.arr v.toNat) len)
    ∧ (s.spec = false →
      (2 ^ 24 < len → refused (.cp f) 3 ∧ refusedDeal 3)
      ∧ (len ≤ 2 ^ 24 → full ∨ (f.sk = .dev ∧ len ≠ 0 ∧ ¬s.quick (s.g f.rs)) ∨ (f.dk = .dev ∧ len ≠ 0 ∧ ¬s.quick v) → s.mayWait f.ds →
          BeginsWait (.cp f) s s f.ds 1)
      ∧ (len ≤ 2 ^ 24 → s.chanFree f.ch → s.opens f.dk v len needW → s.opens f.sk (s.g f.rs) len needR →
          TakesCopy (.cp f) s s f (s.srcOf f.sk (s.g f.rs)) (s.dstOf f.dk v) len)
      ∧ (len ≤ 2 ^ 24 → ¬near → refusedDeal 4)
      ∧ (len ≤ 2 ^ 24 → near → 8 < blk → refusedDeal 5)
      ∧ (len ≤ 2 ^ 24 → near → blk ≤ 8 → f.dk = .dev ∨ f.dk = .arr ∨ f.sk ≠ .dev → refusedDeal 6)
      ∧ (len ≤ 2 ^ 24 → cores.length = n → (∀ j < n, core j = cores[j]?) → near → blk ≤ 8 → f.dk = .w ∨ f.dk = .a → f.sk = .dev → s.chanFree f.ch →
          s.opens .dev (s.g f.rs) len needR →
          TakesCopy (.cpDeal f) s s f (.dev (s.g f.rs)) (.deal (if f.dk = .w then .w else .a) cores (64 * 2 ^ blk) (pat / 2 ^ 32 % 2 ^ 16)) len)
      ∧ (6 < spec / 2 ^ 16 % 16 → refused (.cpGath f) 5)
      ∧ (spec / 2 ^ 16 % 16 ≤ 6 → 2 ^ 24 < gn * gb → refused (.cpGath f) 3)
      ∧ (spec / 2 ^ 16 % 16 ≤ 6 → gn * gb ≤ 2 ^ 24 → 4096 < gn → refused (.cpGath f) 5)
      ∧ (gn ≤ 4096 → spec / 2 ^ 16 % 16 ≤ 6 → s.chanFree f.ch → s.opens f.dk v (gn * gb) needW → s.opens .dev (addrs.headD 0) (gn * gb) needR →
          TakesCopy (.cpGath f) s s f (.gather addrs gb) (s.dstOf f.dk v) (gn * gb)))

/-- R218: `cp.rot` reads the ring descriptor in the A buffer, refuses a length above HALF or 2^24, and traps on a misaligned FREEVA; its gate leaves
as an atomic on the count; passed, ROUND counts on in the descriptor and the copy to this round's half is accepted. Under `poll` a count of 0 ends
it. The walk of FREEVA is waited for (R286), and a dead link to its peer refuses it with DETAIL 1 (log 113). -/
def Piece.RingCopy : Prop :=
  ∀ (s : State) (f : CopyFields) (pa k : Nat) (w : Wait) (v : Word) (d : BitVec 32),
    let off := (s.g f.rd).toNat
    let len := if f.nl then f.leni.toNat * 64 else (s.g f.rl).toNat
    let word (j n : Nat) : Nat := leNat (bufRead s.co.bufA s.th.bufA (off + j) n)
    let dbase := w64 (word 0 8)
    let freeva := w64 (word 8 8)
    let half := word 16 4
    let round := word 20 4
    let i := Instr.cpRot f
    let u := s.noteTlb s.curCtx freeva
    (s.Plain → s.sl.remote = none → s.spec = false →
      (2 ^ 24 < len ∨ half < len → GivesThread i s { s.th with ws := 6 + 3 * 2 ^ 32 })
      ∧ (len ≤ 2 ^ 24 → len ≤ half → freeva.toNat % 8 ≠ 0 → RaisesTrap i s 7 0 0 0 0 s.th.pc)
      ∧ (len ≤ 2 ^ 24 → len ≤ half → freeva.toNat % 8 = 0 → ¬s.quick freeva → s.mayWait f.ds → BeginsWait i s s f.ds 8)
      ∧ (len ≤ 2 ^ 24 → len ≤ half → freeva.toNat % 8 = 0 → s.quick freeva → ∀ kind, s.translate s.curCtx s.th.priv freeva needRW = .error kind →
          WalkFault i s 6 kind freeva)
      ∧ (len ≤ 2 ^ 24 → len ≤ half → freeva.toNat % 8 = 0 → s.quick freeva → ∀ p, s.translate s.curCtx s.th.priv freeva needRW = .ok (some p, pa) →
          s.deadPeer s.curCtx p = true → GivesIn i s u { s.th with ws := 6 + 1 * 2 ^ 32 })
      ∧ (len ≤ 2 ^ 24 → len ≤ half → freeva.toNat % 8 = 0 → s.quick freeva → s.translate s.curCtx s.th.priv freeva needRW = .ok (none, pa) →
          s.mayWait f.ds → exec i s = .next ({ u with
            nextFt := s.nextFt + 1
            ft := s.ft ++ [FtEntry.mk s.curTask s.curCore s.curSlot s.nextFt none 1 none none none s.curCtx s.instant]
            op := s.op ++ [OpEntry.mk s.curTask s.curCore s.curSlot s.curCtx s.nextFt ⟨none, pa / 64⟩ (.atomic ⟨8, .d, .sys, pa, 0, 0⟩) s.instant] }.setSl
              { s.sl with remote := some ⟨.gate s.nextFt, none⟩, wait := some (s.newWait i f.ds 1) }))
      ∧ (len ≤ 2 ^ 24 → len ≤ half → freeva.toNat % 8 = 0 → s.quick freeva → s.translate s.curCtx s.th.priv freeva needRW = .ok (none, pa) →
          f.ds = .poll → s.field pa 8 = 0 → pa < 0xF000000000000 → GivesIn i s u.waited { s.th with ws := 1 }))
    ∧ (s.Retries w →
      (s.sl.remote = some ⟨.gate k, some ⟨v, 6, d⟩⟩ → GivesAfter i s w s { s.th with ws := w64 (6 + d.toNat * 2 ^ 32) })
      ∧ (s.sl.remote = some ⟨.gate k, some ⟨v, 0, d⟩⟩ →
          let dst := dbase + w64 (half * (round % 2))
          let s' := s.bufStore .store .a (off + 20) (leBytes 4 (round + 1))
          s.chanFree f.ch → s'.opens .dev dst len needW → s'.opens f.sk (s.g f.rs) len needR →
          TakesCopy i s s' f (s'.srcOf f.sk (s.g f.rs)) (.dev dst) len))

/-- The copy instructions: `Piece.CopyAcceptance`, `Piece.RingCopy`. -/
def Obligations.CopiesAccepted : Prop :=
  Piece.CopyAcceptance ∧ Piece.RingCopy

/-- R199, R213, R216: a delivery moves the head copy's next byte to its place in a buffer, an array buffer, another core's buffer or device memory,
and counts it in DONEB and at the object that it is bound to; a source byte in device memory is the cell's, once the earlier stores of its thread to
the granule have left, and the cells read and written, those of the tables its walks read among them, are recalled to their home slices (R192). A deal's bytes wait while their target core is not
resident for the context (R277, log 89). Stated where no lock of another operation stands. -/
def Piece.CopyDelivery : Prop :=
  ∀ (s : State) (c : Nat) (ch : Fin 8) (x : Copy) (r : List Copy) (v : Byte) (pa n : Nat) (bv : BarV) (o : BitVec 9)
    (ps : List (Option Nat × Nat)),
    ((s.coreAt c).chans.get ch).queue = x :: r → c < 8192 → x.park = none → x.failed = false → x.done < x.len →
    let i := Instr.copyDeliver c ch 1
    let k := clusterOf x.who.core
    let from_ (va : Word) : Prop := ∃ a, s.translate x.who.ctx x.who.priv va needR = .ok a ∧ ps = [a] ∧ a.2 < 0xF000000000000
    let reads : Prop := (∀ va, x.src = .dev va → from_ (va + w64 x.done))
      ∧ (∀ l b, x.src = .gather l b → from_ (l.getD (x.done / b) 0 + w64 (x.done % b)))
      ∧ (∀ m al z q, x.src = .buf m al z q → ps = []) ∧ (∀ m q, x.src = .arr m q → ps = [])
    let read (g : Nat) : Bool := ps.any fun a => a.1 == none && a.2 / 64 == g
    let moved (u : State) (more : Nat → Bool) : State := { u with places := s.recalled fun g => read g || more g }.noteCopy x x.done 1
    let on (u : State) (x' : Copy) : State := (moved u fun _ => false).setHead c ch { x' with done := x.done + 1 }
    let put (d : Nat) (b : Buf) (p : Nat) : State := s.setCore d ((s.coreAt d).setBufMem b (mset ((s.coreAt d).bufMem b) p v))
    let open_ (d : Nat) : Prop := ∀ l ∈ (s.coreAt d).locks, l.op = x.lock
    (∀ va, x.src = .dev va → s.translate x.who.ctx x.who.priv (va + w64 x.done) needR = .ok (none, pa) → pa < 0xF000000000000 →
      (∀ e ∈ s.op, e.ft ∈ x.after → s.sameGran e.ctx e.gran ⟨none, pa / 64⟩ = false) → s.copyByte x x.done = .byte (mget s.mem pa))
    ∧ (s.copyByte x x.done = .byte v → x.bound = none → reads →
      (∀ b al off, x.dst = .buf b al off → open_ x.who.core →
        (∀ p, physByte al off x.done = some p → exec i s = .next (on (put x.who.core b p) x))
        ∧ (physByte al off x.done = none → exec i s = .next (on s x)))
      ∧ (∀ off, x.dst = .arr off → (∀ l ∈ (s.clusterAt k).locks, l.op = x.lock) → exec i s = .next (on (s.setCluster k { s.clusterAt k with
          array := mset (s.clusterAt k).array ((off + x.done) % 0x100000) v }) x))
      ∧ (∀ b cores block off d, x.dst = .deal b cores block off → b = .w ∨ b = .a → cores[x.done / block % cores.length]? = some d → open_ d →
        let p := (off + x.done / block / cores.length * block + x.done % block) % (if b = .w then 0x10000 else 0x8000)
        (p < 0xC000 → (s.coreAt d).ctx = some x.who.ctx → exec i s = .next (on (put d b p) x))
          ∧ (p < 0xC000 → (s.coreAt d).ctx ≠ some x.who.ctx → exec i s = .next s) ∧ (0xC000 ≤ p → exec i s = .next (on s x)))
      ∧ (∀ va, x.dst = .dev va → s.translate x.who.ctx x.who.priv (va + w64 x.done) needW = .ok (none, pa) → pa < 0xF000000000000 →
        s.unread ⟨none, pa / 64⟩ none → exec i s = .next ((moved { s with mem := mset s.mem pa v } (· == pa / 64)).setHead c ch { x with done := x.done + 1 })))
    ∧ (∀ b al off, s.copyByte x x.done = .byte v → x.dst = .buf b al off → physByte al off x.done = none → x.bound = some o → reads →
      (s.engineRef x.who o = some (.core x.who.core n) → s.barRead (.core x.who.core n) = some bv →
        exec i s = .next (on (s.setSync x.who.core n ((gained bv 1).w0, (gained bv 1).w1)) x))
      ∧ (s.engineRef x.who o = none → exec i s = .next (((moved s fun _ => false).noteEngine x.who o).setHead c ch { x with done := x.done + 1, lost := true })))

/-- R213, R219, R247, R300: a copy whose bytes have all moved, or which a dead link stopped, is complete: its channel goes on with the next copy, and
a completion entry goes to the inbox where one was asked for and a place is free; one that meets a translation fault, whose walk recalls what it
reads, is parked, forwarded or killed by its context's action. -/
def Piece.CopyEnds : Prop :=
  ∀ (s : State) (c : Nat) (ch : Fin 8) (x : Copy) (r : List Copy) (n : Nat), ((s.coreAt c).chans.get ch).queue = x :: r → c < 8192 →
    (∀ y q, r = y :: q → y.started = false) → x.park = none →
    let y := s.coreAt c
    let k := y.chans.get ch
    let cstat : BitVec 8 := if x.failed then 3 else if x.lost then 4 else 0
    (x.failed = true ∨ x.len ≤ x.done →
      (x.nte = false → Completes (.copyComplete c ch) s fun t => (t.coreAt c).chans.get ch = nextCopy k r ∧ LiveDown s t x.who ∧ SameMem s t ∧ SameBufs s t
        ∧ ∀ l ∈ (t.coreAt c).locks, l.op ≠ x.lock)
      ∧ (x.nte = true → y.msgRoom = true → y.pending = [] → LowestFree y n → Completes (.copyComplete c ch) s fun t =>
          (t.coreAt c).chans.get ch = nextCopy k r ∧ t.lineages = s.lineages ∧ SameMem s t ∧ SameBufs s t
          ∧ ∃ m, tget (t.coreAt c).inbox n = some ⟨.completion m, x.who.ctx, s.instant, y.nextOrder, false, none, false⟩
            ∧ Reports s m x.ctag 16 c x.who cstat ∧ recBits m 128 32 = k.doneb.toNat ∧ recBits m 160 32 = k.cseq.toNat ∧ recBits m 192 8 = ch.val))
    ∧ (∀ va kind, x.failed = false → x.done < x.len → x.dst = .dev va → s.translate x.who.ctx x.who.priv (va + w64 x.done) needW = .error kind →
      let at_ := va + w64 x.done
      let ctx := x.who.ctx
      let act := s.actionOf ctx 14
      let u := s.recall (s.walksFor ctx at_)
      let held (a : Fin 5) : State := u.setHead c ch { x with park := some ⟨14, 3, BitVec.ofNat 2 kind, BitVec.ofNat 32 x.done, at_, x.who.pc, a, s.evtOf ctx 14, s.instant, s.ptimeOf ctx 14⟩ }
      (act = 1 → s.evtOf ctx 14 = 0 → exec (.copyFault c ch) s = .next u)
      ∧ (act = 1 → s.evtOf ctx 14 ≠ 0 → exec (.copyFault c ch) s = .next (held 1))
      ∧ (act = 2 → exec (.copyFault c ch) s = .next (held 2))
      ∧ (act = 3 → Completes (.copyFault c ch) s fun t => t = { held 3 with
            priv := t.priv, lineages := t.lineages, nextTask := s.nextTask + 1, dq := s.dq ++ [⟨s.nextTask, ctx, 0, 0⟩] }
          ∧ (∀ z, s.lineage? ctx 0 = some z → t.lineage? ctx 0 = some { z with live := z.live + 1 })
          ∧ ∃ q, t.priv = s.priv ++ [q] ∧ q.id = s.nextTask ∧ q.ctx = ctx ∧ q.src = .copy c ch ∧ q.core = s.recordCore ctx 14 c
            ∧ recArg q.record 0 = w64 (14 * 2 ^ 58 + 3 * 2 ^ 56 + kind * 2 ^ 54 + x.who.lid.toNat * 2 ^ 32 + x.done % 2 ^ 32)
            ∧ recArg q.record 1 = x.who.pc ∧ recArg q.record 2 = at_ ∧ recArg q.record 3 = s.copyItem c ch x.cseq)
      ∧ (act = 0 → Completes (.copyFault c ch) s fun t => (t.coreAt c).chans.get ch = nextCopy k r ∧ LiveDown s t x.who ∧ SameMem s t ∧ SameBufs s t))

/-- R169, R247: a completion that found no place enters the inbox once there is one, and its place in its engine is free; the reading of an operand
range ends, and its lock goes, but for the lock of an accumulator tile. -/
def Piece.EngineQueues : Prop :=
  ∀ (s : State) (c k id n : Nat) (p : PendingMsg) (r : List PendingMsg),
    let y := s.coreAt c
    let x := s.clusterAt k
    (c < 8192 → y.pending = p :: r → y.msgRoom = true → LowestFree y n →
      let z : Core := { y with
        pending := r, inbox := tset y.inbox n ⟨.completion p.msg, p.who.ctx, s.instant, y.nextOrder, false, none, false⟩, nextOrder := y.nextOrder + 1 }
      (p.cmuId = none → p.harpId = none → exec (.engineCompletion c) s = .next (s.setCore c z))
      ∧ (∀ j, p.cmuId = some j → p.harpId = none → exec (.engineCompletion c) s = .next (s.setCore c { z with cmu := y.cmu.filter fun o => o.id != j }))
      ∧ (∀ j, p.cmuId = none → p.harpId = some j → let h := (s.clusterAt (clusterOf c)).harp
          exec (.engineCompletion c) s = .next ((s.setCore c z).setCluster (clusterOf c) { s.clusterAt (clusterOf c) with
            harp := { h with queue := h.queue.filter fun o => o.id != j } })))
    ∧ (y.msgRoom = false → exec (.engineCompletion c) s = .next s)
    ∧ exec (.rangeRead (.core c id)) s = .next (s.setCore c { y with locks := y.locks.filter fun l => !(l.id == id && !l.loads) })
    ∧ exec (.rangeRead (.cluster k id)) s = .next (s.setCluster k { x with locks := x.locks.filter fun l => l.id != id })

/-- What the copy engines and their queues do: `Piece.CopyDelivery`, `Piece.CopyEnds`, `Piece.EngineQueues`. -/
def Obligations.CopiesDelivered : Prop :=
  Piece.CopyDelivery ∧ Piece.CopyEnds ∧ Piece.EngineQueues

/-! ## Collectives (R229) -/

/-- R222, R229: a collective operation is accepted while its group's phase has places, joins the group with its contribution taken as it stands, with
the number of its acceptance there in DETAIL; one whose BOFF names no barrier completes at once with CSTAT 4 and an open DETAIL (logs 17, 18). The walk
of its object's address is waited for (R286). -/
def Piece.CollectiveAcceptance : Prop :=
  ∀ (s : State) (f : CollFields) (op : CollOp) (ty : Ty) (c0 n0 n : Nat) (b : BarV), s.Plain → s.spec = false →
    let len := (f.lenm1.toNat + 1) * 64
    let src := (s.g f.rs).toNat
    let ref := s.engineRef s.issuer f.boff
    let r := BarRef.core c0 n0
    let mem (red : Bool) (o : CollOp) (t : Ty) (lk : Nat) : CollMember := ⟨none, (s.g f.rk).toNat % 2 ^ 16, s.issuer, (s.g f.rd).toNat, s.th.bufA,
      BitVec.ofNat 32768 (leNat (bufRead s.co.bufA s.th.bufA src len)), len, red, o, t, f.nte, f.ctag, lk⟩
    let here (g : CollGroup) : Prop := g.obj = r ∧ g.phase = b.phase
    let ends (t : State) : Prop := t.th = { s.th with ws := t.th.ws, pc := s.th.pc + 8 } ∧ t.th.ws.setWidth 8 = 0#8 ∧ SameMem s t ∧ SameBufs s t
    let seq : BitVec 32 := ((s.collSeqs.find? fun e => e.1 == r).map (·.2)).getD 0 + 1
    let joins (i : Instr) (red : Bool) (o : CollOp) (ty : Ty) : Prop := Completes i s fun t => ends t ∧ t.th.ws = w64 (seq.toNat * 2 ^ 32)
      ∧ (t.collSeqs.find? fun e => e.1 == r) = some (r, seq) ∧ LiveUp s t ∧ ∃ lk,
      ((∀ g ∈ s.colls, ¬here g) → t.colls = s.colls ++ [⟨r, b.phase, [mem red o ty lk]⟩])
      ∧ ((∃ g ∈ s.colls, here g) → t.colls.length = s.colls.length ∧ ∀ (j : Nat) g, s.colls[j]? = some g →
          (here g → t.colls[j]? = some { g with members := g.members ++ [mem red o ty lk] }) ∧ (¬here g → t.colls[j]? = some g))
    let alone (i : Instr) : Prop := Completes i s fun t => ends t ∧ t.colls = s.colls
      ∧ ∃ m, tget t.co.inbox n = some ⟨.completion m, s.curCtx, s.instant, s.co.nextOrder, false, none, false⟩ ∧ Reports s m f.ctag 48 s.curCore s.issuer 4
    (s.late = false → ref = some r → s.barRead r = some b → b.expected = 0 ∨ (s.membersAt r b.phase).length < b.expected.toNat →
      joins (.collRed f op ty) true op ty ∧ joins (.collGath f) false .add .f32)
    ∧ (∀ va, s.engineVa s.issuer f.boff = some va → ¬s.quick va → s.mayWait f.ds →
        BeginsWait (.collRed f op ty) s s f.ds 8 ∧ BeginsWait (.collGath f) s s f.ds 8)
    ∧ (s.late = false → ref = none → f.nte = true → s.co.msgRoom = true → s.co.pending = [] → LowestFree s.co n → alone (.collRed f op ty) ∧ alone (.collGath f))

/-- R221, R229: a group with one member of each rank runs: every member's destination receives the elements combined in rank order under nearest-even,
or the contributions one after another; then each member arrives once, which turns the phase. A group whose members disagree ends with its object
aborted. Stated for members on cores of their own that ask for no completion entry. A peer's word that an accepted member's operation is cancelled
takes it out of its group. -/
def Piece.CollectiveRun : Prop :=
  (∀ (s : State) (chip ctx pctx pa rank : Nat), s.accepts pctx chip ctx = true →
    let its (m : CollMember) : Bool := m.chip == some chip && m.who.ctx == pctx && m.rank == rank
    let left (g : CollGroup) : CollGroup :=
      if g.obj = .dev pa true ∨ g.obj = .dev pa false then { g with members := g.members.filter fun m => !its m } else g
    exec (.arrive (.incoming chip ctx pctx (.memberGone pa rank))) s = .next { s with colls := s.colls.map left })
  ∧ ∀ (s : State) (i c0 n0 : Nat) (g : CollGroup) (b : BarV) (ms : List CollMember) (m : CollMember) (p : Nat), s.colls[i]? = some g →
    g.obj = .core c0 n0 → s.barRead g.obj = some b → (∀ x ∈ g.members, x.nte = false ∧ x.chip = none) →
    let comb (o : CollOp) : RedOp := match o with | .add => .add | .min => .min | .max => .max
    let result : List Byte :=
      if m.isRed then (List.range (m.len / m.ty.size)).flatMap fun e => leBytes m.ty.size (redOf (comb m.op) m.ty modeNe (ms.map fun x => x.elem e)).1
      else ms.flatMap fun x => leBytes x.len x.bytes.toNat
    (g.phase = b.phase → ms.Perm g.members → ms.length = b.expected.toNat → m ∈ ms → b.arrived = 0 → b.expb = 0 → b.gotb = 0 → ms[p]? = some m →
      (∀ j < ms.length, ∃ x, ms[j]? = some x ∧ x.rank = j ∧ x.len = m.len ∧ x.isRed = m.isRed ∧ x.op = m.op ∧ x.ty = m.ty) →
      (∀ x ∈ ms, (s.coreAt x.who.core).memWf = true) → (ms.map fun x => x.who.core).Nodup →
      Completes (.collectiveRun i) s fun t => t.colls = s.colls.eraseIdx i ∧ SameMem s t
        ∧ Lands (s.coreAt m.who.core).bufA (t.coreAt m.who.core).bufA (physByte m.bufA m.dstOff) result
        ∧ t.barRead g.obj = some ⟨false, b.phase + 1, 0, b.expected, 0, 0⟩)
    ∧ ((∃ x ∈ g.members, b.expected.toNat ≤ x.rank) → Completes (.collectiveRun i) s fun t => SameMem s t ∧ SameBufs s t ∧ t.barRead g.obj = some (broken b)
        ∧ ∀ h ∈ t.colls, h.obj ≠ g.obj)

/-- The collective operations: `Piece.CollectiveAcceptance`, `Piece.CollectiveRun`. -/
def Obligations.Collectives : Prop :=
  Piece.CollectiveAcceptance ∧ Piece.CollectiveRun

/-! ## The core matrix unit (R155 to R170) -/

/-- R155 to R159, R164 to R169, R172: `mma`, `mzero` and `mdrain` enter the unit's queue with their operands and formats sampled, counted in cycles of
at most 4,096; formats that form no class raise the unsupported-format fault. -/
def Piece.MatrixAcceptance : Prop :=
  ∀ (s : State) (f : MwFields) (kt : BitVec 7) (a : Fin 16) (ds : Sel) (dty : Ty) (sat : Bool) (mf : MacFmt), s.Plain → s.spec = false →
    let kk := 32 * kt.toNat
    let x := s.co
    let used := (x.cmu.map (·.cycles)).sum
    let cOff := (s.g f.rc).toNat
    let cyc := if mf.cls = 0 then kk else if mf.cls = 1 then kk / 2 else 2 * kk
    let near (v : BitVec 32) : Prop := v.toNat / 2 ^ 30 < 2
    let fmtc := Ty.ofCode x.fmtc.toNat
    let drains : Prop := (fmtc = some .f32 ∧ dty ∈ [.f32, .bf16, .f16, .e4m3, .e5m2]) ∨ (fmtc = some .w ∧ dty ∈ [.w, .h, .b])
    let full (c : Nat) (i : Instr) (ds : Sel) : Prop := 4096 < used + c → s.mayWait ds → BeginsWait i s s ds 2
    (macFmt x.fmta x.fmtb x.fmtc = some mf →
      (used + cyc ≤ 4096 → (mf.cls = 1 → near x.scla ∧ near x.sclb) →
        TakesCmu (.mma f kt) s (.mma (s.g f.ra).toNat (s.g f.rb).toNat cOff kk) cyc cOff f.ntf f.ctag f.boff)
      ∧ (used + cyc ≤ 4096 → mf.cls = 1 → ¬(near x.scla ∧ near x.sclb) → RaisesTrap (.mma f kt) s 12 0 0 0 0 s.th.pc)
      ∧ full cyc (.mma f kt) f.ds)
    ∧ (macFmt x.fmta x.fmtb x.fmtc = none → used + 2 * kk ≤ 4096 → RaisesTrap (.mma f kt) s 12 0 0 0 0 s.th.pc)
    ∧ (used + 8 ≤ 4096 → TakesCmu (.mzero a ds) s (.mzero (s.g a).toNat) 8 (s.g a).toNat 0 0 0) ∧ full 8 (.mzero a ds) ds
    ∧ (used + 40 ≤ 4096 → drains → TakesCmu (.mdrain f dty sat) s (.mdrain (s.g f.ra).toNat cOff dty sat) 40 cOff f.ntf f.ctag f.boff)
    ∧ (used + 40 ≤ 4096 → ¬drains → RaisesTrap (.mdrain f dty sat) s 12 0 0 0 0 s.th.pc) ∧ full 40 (.mdrain f dty sat) f.ds

/-- R160 to R162, R167 to R170: the unit's oldest operation runs on what was sampled: `mzero` writes its tile to zero, `mdrain` of `.w` to `.w` copies
it to the A buffer, and `mma` of bytes into `.w` adds the exact products modulo 2^32; it then notifies as NTF says, and its lineage counts it no
more. -/
def Piece.MatrixRun : Prop :=
  ∀ (s : State) (c n : Nat) (o : CmuOp) (r : List CmuOp) (dr : Bool) (aOff bOff cOff kk : Nat),
    let x := s.coreAt c
    x.cmu = o :: r → o.waiting = false → (∀ q ∈ r, q.id ≠ o.id) → o.who.core = c → x.memWf = true →
    let i := Instr.cmuComplete c dr
    let runs (effect : Core → Core → Prop) : Prop :=
      (o.ntf = 0 → Completes i s fun t => (t.coreAt c).cmu = r ∧ LiveDown s t o.who ∧ SameMem s t ∧ effect x (t.coreAt c) ∧ ∀ l ∈ (t.coreAt c).locks, l.op ≠ o.id)
      ∧ (o.ntf = 1 → x.msgRoom = true → x.pending = [] → LowestFree x n → Completes i s fun t => (t.coreAt c).cmu = r ∧ SameMem s t ∧ effect x (t.coreAt c)
          ∧ ∃ m, tget (t.coreAt c).inbox n = some ⟨.completion m, o.who.ctx, s.instant, x.nextOrder, false, none, false⟩ ∧ Reports s m o.ctag 48 c o.who 0)
    let elem (m : Memory) (al : Alloc) (off : Nat) : Int := ((bufRead m al off 1).headD 0).toInt
    let old (j : Nat) : Nat := leNat (bufRead x.bufC o.bufC (cOff + 4 * j) 4)
    (o.kind = .mzero cOff → runs fun y z => z.bufW = y.bufW ∧ z.bufA = y.bufA ∧ Lands y.bufC z.bufC (physByte o.bufC cOff) (List.replicate 1024 0))
    ∧ (o.kind = .mdrain aOff cOff .w false → Ty.ofCode o.fmtc.toNat = some .w →
        runs fun y z => z.bufW = y.bufW ∧ z.bufC = y.bufC ∧ Lands y.bufA z.bufA (physByte o.bufA aOff) (bufRead x.bufC o.bufC cOff 1024))
    ∧ (o.kind = .mma aOff bOff cOff kk → Ty.ofCode o.fmta.toNat = some .b → Ty.ofCode o.fmtb.toNat = some .b → Ty.ofCode o.fmtc.toNat = some .w →
        runs fun y z => z.bufW = y.bufW ∧ z.bufA = y.bufA ∧ Lands y.bufC z.bufC (physByte o.bufC cOff) ((List.range 256).flatMap fun j =>
          leBytes 4 (((old j : Int) + ((List.range kk).map fun e =>
            elem o.snapA o.bufA (aOff + j / 16 * kk + e) * elem o.snapW o.bufW (bOff + j % 16 * kk + e)).sum) % 2 ^ 32).toNat))

/-- The matrix instructions and their unit: `Piece.MatrixAcceptance`, `Piece.MatrixRun`. -/
def Obligations.MatrixOperations : Prop :=
  Piece.MatrixAcceptance ∧ Piece.MatrixRun

/-! ## The harp (R171 to R185) -/

/-- R46, R172, R173: `hlease` on the holder's core gives the commands left; on a free harp of the context it is granted at once; on another core's it
claims and waits; a harp out of service refuses. `hrelease` gives the lease up. -/
def Piece.HarpLease : Prop :=
  ∀ (s : State) (ds : Sel) (l : Lease) (k0 : Task), s.Plain → s.sl.task = some k0 → s.curCore < 8192 →
    let k := clusterOf s.curCore
    let h := (s.clusterAt k).harp
    let with_ (h : Harp) : State := s.setCluster k { s.clusterAt k with harp := h }
    let idle : Prop := ∀ q ∈ h.claims, ¬(q.core = s.curCore ∧ q.slot = s.curSlot)
    let i := Instr.hlease ds
    (h.lease = some l → l.core = s.curCore → idle → GivesThread i s { s.th with ws := w64 ((32 - l.count) * 2 ^ 32) }
      ∧ GivesIn .hrelease s (with_ { h with lease := none }) s.th)
    ∧ (h.lease ≠ some l ∨ l.core ≠ s.curCore → h.lease = none ∨ h.lease = some l → GivesThread .hrelease s s.th)
    ∧ (h.lease = none → h.disabled.length ≤ 8 → h.claims = [] → h.lastCtx = some k0.ctx → k0.image = none →
        GivesIn i s (with_ { h with lease := some ⟨s.curCore, k0.id, k0.ctx, 0, [], s.instant, 0⟩ }) { s.th with ws := w64 (32 * 2 ^ 32) })
    ∧ (h.lease = some l → l.core ≠ s.curCore → h.disabled.length ≤ 8 → idle → s.mayWait ds →
        BeginsWait i s (with_ { h with claims := h.claims ++ [⟨s.curCore, s.curSlot, k0.id, k0.ctx, k0.prio, s.instant⟩] }) ds 1)
    ∧ ((∀ l, h.lease = some l → l.core ≠ s.curCore) → 8 < h.disabled.length →
        Completes i s fun t => t.th = { s.th with ws := 6 + 2 ^ 32, pc := s.th.pc + 8 })

/-- R159, R171, R172, R174 to R179: under the lease each harp command enters the queue with what it samples, where its cycles leave room: array
operands as they stand at acceptance (log 94) and device operands with their pages pinned, whose walks are waited for (R286); a device range that does not
translate raises the harp-operand fault, and formats that form no class the unsupported-format fault, in `hldw` and in `hstream`, stated
where the queue has room for any class (with less, log 95). -/
def Piece.HarpCommands : Prop :=
  ∀ (s : State) (f : MwFields) (ds : Sel) (l : Lease) (org : Origin) (dest : DrainDest) (stg za z : Bool) (m1 acc0 : BitVec 6) (cls : Fin 3) (mf : MacFmt)
    (e : Nat × Word) (mem : HarpMem), s.Plain → s.spec = false →
    let k := clusterOf s.curCore
    let h := (s.clusterAt k).harp
    let co := s.co
    let v := s.g f.ra
    let m := m1.toNat + 1
    let room (c : Nat) : Prop := (h.queue.map (·.cycles)).sum + c ≤ 4096
    let dev := org = .device
    let dd := dest = .device
    let memOf (d : Prop) (n : Nat) (need : Need) : Prop :=
      (d → s.missing (pageVas v n) = false ∧ ∃ ps, s.pinPages s.curCtx s.th.priv v n need = .ok ps ∧ mem = .device v ps) ∧ (¬d → mem = .array (s.clusterAt k).array v.toNat)
    let faults (i : Instr) (n : Nat) (need : Need) : Prop :=
      (s.missing (pageVas v n) = false → s.pinPages s.curCtx s.th.priv v n need = .error e → WalkFault i s 13 e.1 e.2)
      ∧ (s.missing (pageVas v n) = true → s.mayWait f.ds → BeginsWait i s s f.ds 2)
    let tile := if cls = 0 then 65536 else if cls = 1 then 32768 else 131072
    let ldwC := if cls = 0 then 256 else if cls = 1 then 128 else 512
    let rows := if mf.cls = 0 then 256 * m else if mf.cls = 1 then 128 * m else 512 * m
    let strC := 512 + (if mf.cls = 0 then m else if mf.cls = 1 then (m + 1) / 2 else 2 * m)
    let inArr (x : BitVec 32) : Prop := x.toNat / 2 ^ 30 = 2
    let off (x : BitVec 32) : Nat := x.toNat % 2 ^ 20
    let hldw := Instr.hldw f org stg
    let hstream := Instr.hstream f org m1 acc0 za
    h.lease = some l → l.core = s.curCore → l.count < 32 → (∀ q ∈ h.claims, ¬(q.core = s.curCore ∧ q.slot = s.curSlot)) →
    (room 1 → TakesHarp (.hswap ds) s l .swap 1 0 0 0 0)
    ∧ (weightCls co.fmtb = none → room 512 → RaisesTrap hldw s 12 0 0 0 0 s.th.pc)
    ∧ (macFmt co.fmta h.planeFmts.1 co.fmtc = none → room (512 + 2 * m) → RaisesTrap hstream s 12 0 0 0 0 s.th.pc)
    ∧ (weightCls co.fmtb = some cls → room ldwC →
      (cls = 1 → ¬inArr co.sclb → RaisesTrap hldw s 12 0 0 0 0 s.th.pc)
      ∧ ((cls = 1 → inArr co.sclb) → memOf dev tile needR →
          TakesHarp hldw s l (.ldw mem (if stg ∧ dev then some ((s.g f.rb).toNat % 0x100000) else none)) ldwC (off co.sclb) f.ntf f.ctag f.boff)
      ∧ ((cls = 1 → inArr co.sclb) → dev → faults hldw tile needR))
    ∧ (macFmt co.fmta h.planeFmts.1 co.fmtc = some mf → room strC →
      (mf.cls = 1 → ¬inArr co.scla → RaisesTrap hstream s 12 0 0 0 0 s.th.pc)
      ∧ ((mf.cls = 1 → inArr co.scla) → memOf dev rows needR → TakesHarp hstream s l (.stream mem m acc0.toNat za 0) strC (off co.scla) f.ntf f.ctag f.boff)
      ∧ ((mf.cls = 1 → inArr co.scla) → dev → faults hstream rows needR))
    ∧ (room (4 + 8 * m) →
      (memOf dd (1024 * m) needW → TakesHarp (.hdrain f dest m1 acc0 z) s l (.drain dest v.toNat mem m acc0.toNat z) (4 + 8 * m) 0 f.ntf f.ctag f.boff)
      ∧ (dd → faults (.hdrain f dest m1 acc0 z) (1024 * m) needW)
      ∧ (memOf dev (64 + 1024 * m) needW → TakesHarp (.hsave f org m1 acc0) s l (.save mem (decide dev) m acc0.toNat) (4 + 8 * m) 0 f.ntf f.ctag f.boff)
      ∧ (dev → faults (.hsave f org m1 acc0) (64 + 1024 * m) needW)
      ∧ (memOf dev (64 + 1024 * m) needR → TakesHarp (.hrestore f org m1 acc0) s l (.restore mem m acc0.toNat) (4 + 8 * m) 0 f.ntf f.ctag f.boff)
      ∧ (dev → faults (.hrestore f org m1 acc0) (64 + 1024 * m) needR))

/-- R160 to R162, R171, R175 to R178: the harp's head command: a swap exchanges the planes; a stream of bytes into `.w` writes its next row whole; a
drain copies rows out and zeroes them where it is asked; a save writes its 64-byte header and the rows, and a restore takes back rows that such a
header precedes. Stated for operands in the array buffer and without notification. -/
def Piece.HarpRun : Prop :=
  ∀ (s : State) (k : Nat) (o : HarpCmd) (r : List HarpCmd) (dr za z : Bool) (m acc0 row off n : Nat) (snap : Memory) (mem : HarpMem),
    let x := s.clusterAt k
    let h := x.harp
    h.queue = o :: r → o.waiting = false → o.park = none → (∀ q ∈ r, q.id ≠ o.id ∧ q.isClear = false) → x.array.wf = true → (h.acc.map (·.1)).Pairwise (· < ·) →
    let acc (t : Tab (BitVec 32)) (rr j : Nat) : Nat := accAt t (rr % 64) j
    let rows : List Byte := (List.range (n * 256)).flatMap fun j => leBytes 4 (acc h.acc (acc0 + j / 256) (j % 256))
    let byte (j : Nat) : Byte := mget snap ((off + j) % 0x100000)
    let elem (f : Nat → Byte) (j : Nat) : Int := (f j).toInt
    let done (effect : Cluster → Prop) : Prop := o.ntf = 0 → Completes (.harpComplete k) s fun t =>
      (t.clusterAt k).harp.queue = r ∧ LiveDown s t o.who ∧ SameMem s t ∧ SameBufs s t ∧ effect (t.clusterAt k)
    (o.kind = .swap → Completes (.harpSwap k) s fun t => LiveDown s t o.who
      ∧ t = { s.setCluster k { x with harp := { h with active := h.shadow, shadow := h.active, queue := r } } with lineages := t.lineages })
    ∧ (o.kind = .stream (.array snap off) m acc0 za row → row < m → Ty.ofCode o.fmta.toNat = some .b → Ty.ofCode h.active.fmtb.toNat = some .b →
        Ty.ofCode o.fmtc.toNat = some .w → Completes (.hstreamRow k dr) s fun t =>
          (t.clusterAt k).harp.queue = { o with kind := .stream (.array snap off) m acc0 za (row + 1) } :: r ∧ (t.clusterAt k).array = x.array ∧ SameMem s t ∧ SameBufs s t
          ∧ ∀ rr j, j < 256 → accAt (t.clusterAt k).harp.acc rr j = if rr = (acc0 + row) % 64 then
              ((((if za then 0 else accAt h.acc rr j) : Nat) + ((List.range 256).map fun e =>
                elem byte (row * 256 + e) * elem (mget h.active.bytes) (j * 256 + e)).sum : Int) % 2 ^ 32).toNat
            else accAt h.acc rr j)
    ∧ (o.kind = .drain .array off mem n acc0 z → n ≤ 64 → done fun y => Lands x.array y.array (fun j => some ((off + j) % 0x100000)) rows
        ∧ ∀ rr j, rr < 64 → j < 256 → accAt y.harp.acc rr j = if z = true ∧ (rr + 64 - acc0 % 64) % 64 < n then 0 else accAt h.acc rr j)
    ∧ (o.kind = .save (.array snap off) false n acc0 → 1 ≤ n → n ≤ 64 → done fun y => y.harp.acc = h.acc
        ∧ Lands x.array y.array (fun j => some ((off + j) % 0x100000)) ([1, 0, BitVec.ofNat 8 (n - 1)] ++ List.replicate 61 0 ++ rows))
    ∧ (o.kind = .restore (.array snap off) n acc0 → n ≤ 64 → byte 0 = 1 → byte 1 = 0 → (byte 2).toNat + 1 = n → done fun y => y.array = x.array
        ∧ ∀ rr j, rr < 64 → j < 256 → let d := (rr + 64 - acc0 % 64) % 64
          accAt y.harp.acc rr j = if d < n then leNat ((List.range 4).map fun i => byte (64 + 4 * (256 * d + j) + i)) else accAt h.acc rr j)
    ∧ (o.kind = .ldw (.array snap off) none → Ty.ofCode o.fmtb.toNat = some .b → done fun y => y.array = x.array ∧ y.harp.active = h.active
        ∧ y.harp.acc = h.acc ∧ y.harp.shadow.fmtb = o.fmtb ∧ ∀ j, mget y.harp.shadow.bytes j = if j < 65536 then byte j else 0)

/-- The harp commands and their execution: `Piece.HarpCommands`, `Piece.HarpRun`. -/
def Obligations.HarpOperations : Prop :=
  Piece.HarpCommands ∧ Piece.HarpRun

/-- R46, R173, R181, R183: a free harp in service is granted to its first claim, by claim instant, then PRIO, then core, at once where the context is that of its last holder, and with planes
and accumulators zero (their FMTB kept, log 39) where it is not, or where there is none (log 28), and the queue is empty, which a park image waits for
too (log 42); the lease ends after 65,536 cycles of its holder's course clock, which it counts in thousandths (log 41), and no sooner; the step-down
of its clock is over 1 µs after its last timing error; and a row mapped out is disabled. -/
def Piece.HarpTurns : Prop :=
  ∀ (s : State) (k row : Nat) (q : HarpClaim) (l : Lease) (t0 : Word),
    let x := s.clusterAt k
    let h := x.harp
    let with_ (h : Harp) : Prop → Instr → Prop := fun p i => p → exec i s = .next (s.setCluster k { x with harp := h })
    let held : Harp := { h with lease := some ⟨q.core, q.tid, q.ctx, 0, [], s.instant, 0⟩, claims := [], lastCtx := some q.ctx }
    let free : Prop := h.lease = none ∧ h.disabled.length ≤ 8 ∧ h.claims = [q] ∧ q.core < 8192
      ∧ ∀ k, (s.slotAt q.core q.slot).task = some k → k.id = q.tid → k.image = none
    with_ held (free ∧ h.lastCtx = some q.ctx) (.harpGrant k)
    ∧ with_ { held with active := ⟨h.active.fmtb, [], []⟩, shadow := ⟨h.shadow.fmtb, [], []⟩, acc := [] } (free ∧ h.lastCtx ≠ some q.ctx ∧ h.queue = [])
        (.harpGrant k)
    ∧ (h.lease = none → h.disabled.length ≤ 8 → q ∈ h.claims → (∀ y ∈ h.claims, y.core < 8192) → h.lastCtx = some q.ctx →
        (∀ k, (s.slotAt q.core q.slot).task = some k → k.id = q.tid → k.image = none) →
        (∀ y ∈ h.claims, y ≠ q → q.at_ < y.at_ ∨ (q.at_ = y.at_ ∧ (y.prio < q.prio ∨ (q.prio = y.prio ∧ q.core < y.core)))) →
        exec (.harpGrant k) s = .next (s.setCluster k { x with harp := { held with claims := h.claims.filter fun y => y.core != q.core } }))
    ∧ (h.lease = some l → exec (.harpGrant k) s = .next s)
    ∧ with_ { h with lease := none } (h.lease = some l ∧ 65536000 ≤ l.spent) (.leaseLimit k)
    ∧ (h.lease = some l → l.spent < 65536000 → exec (.leaseLimit k) s = .next s)
    ∧ with_ { h with stepdown := none } (h.stepdown = some t0 ∧ t0.toNat + 1000 ≤ s.instant.toNat) (.harpStepdownExpiry k)
    ∧ (h.stepdown = some t0 → s.instant.toNat < t0.toNat + 1000 → exec (.harpStepdownExpiry k) s = .next s)
    ∧ with_ { h with disabled := h.disabled ++ [row] } (h.lease = none ∧ h.queue = [] ∧ row < 264 ∧ row ∉ h.disabled ∧ h.disabled.length < 7) (.harpRowRemap k row)

/-- The lease of a harp, and its turns: `Piece.HarpLease`, `Piece.HarpTurns`. -/
def Obligations.HarpLeases : Prop :=
  Piece.HarpLease ∧ Piece.HarpTurns

/-! ## Power (R347 to R354) -/

/-- R352: a claim no higher than the one held is done at once; another enters its die's queue, and is granted where the die has four permits and no
fall runs, without taking one: the course then runs at the highest claim of its threads, and RD and DETAIL read its level and the pool. `boost.off`
ends the claim. -/
def Piece.BoostClaims : Prop :=
  ∀ (s : State) (d : Fin 16) (ds : Sel), s.Plain → s.curCore < 8192 →
    let die := s.dieAt (dieOf s.curCore)
    let course := courseOf s.curCore
    let x := s.courseAt course
    let may : Prop := die.fall = 0 ∧ 4 ≤ die.pool.toNat
    let below (lv : BitVec 2) : Prop := ∀ e ∈ s.cores, courseOf e.1 = course → ∀ t : Fin 4, (e.2.slots.get t).claim ≤ lv
    let gives (i : Instr) (lv : BitVec 2) : Prop :=
      (lv ≤ s.sl.claim → x.inFall = false → GivesThread i s { s.th with g := s.th.g.set d.val (x.level.setWidth 64) d.isLt, ws := 0 })
      ∧ (s.sl.claim < lv → die.boostQ = [] → may → x.inFall = false → below lv → Completes i s fun t =>
          t.th = { s.th with g := s.th.g.set d.val (lv.setWidth 64) d.isLt, ws := die.pool.setWidth 64 * 2 ^ 32, pc := s.th.pc + 8 }
          ∧ t.sl.claim = lv ∧ (t.courseAt course).level = lv ∧ (t.dieAt (dieOf s.curCore)).pool = die.pool ∧ (t.dieAt (dieOf s.curCore)).boostQ = [])
      ∧ (s.sl.claim < lv → die.boostQ = [] → ¬may → s.mayWait ds →
          BeginsWait i s (s.setDie (dieOf s.curCore) { die with boostQ := [⟨s.curCore, s.curSlot, lv, s.instant⟩] }) ds 1)
    gives (.boost875 d ds) 1 ∧ gives (.boost1050 d ds) 2
    ∧ (s.sl.claim = 0 → die.boostQ = [] → x.inFall = false → GivesThread (.boostOff d) s { s.th with g := s.th.g.set d.val (x.level.setWidth 64) d.isLt, ws := 0 })
    ∧ (s.sl.claim ≠ 0 → die.boostQ = [] → Completes (.boostOff d) s fun t => t.sl.claim = 0 ∧ t.th.ws = 0 ∧ t.th.pc = s.th.pc + 8)

/-- R347, R350, R352: a rise of a course's clock to its level, the marks of a droop and of its end, and the grant of the claim that heads a die's
queue, but not to an annulled task (R309); an interval's end step is taken once the instant has passed its end, and the next interval then counts each course's highest level and whether
it is busy from what stands; a course that has run at level 0 in it is not charged. -/
def Piece.PowerSteps : Prop :=
  ∀ (s : State) (c die k : Nat) (q : BoostReq) (w : Wait) (d : Fin 16) (ds : Sel) (lv : BitVec 2),
    let x := s.courseAt c
    let y := s.dieAt die
    let t0 : Slot := s.slotAt q.core q.slot
    (x.clock < x.level → exec (.clockRise c) s = .next (s.setCourse c { x with clock := x.level }))
    ∧ (x.level ≤ x.clock → exec (.clockRise c) s = .next s)
    ∧ exec (.droop c) s = .next (s.setCourse c { x with droop := true })
    ∧ exec (.droopEnd c) s = .next (s.setCourse c { x with droop := false })
    ∧ (y.boostQ = [] → exec (.boostGrant die) s = .next s)
    ∧ (y.boostQ = [q] → s.slotAnnulled q.core q.slot = true → exec (.boostGrant die) s = .next s)
    ∧ (y.boostQ = [q] → s.slotAnnulled q.core q.slot = false → y.fall = 0 → 4 ≤ y.pool.toNat → q.core < 8192 → dieOf q.core = die → t0.wait = some w → t0.group = none → t0.stepping = false →
        t0.pendA = none → t0.newPc = none → (w.instr = .boost875 d ds ∧ lv = 1) ∨ (w.instr = .boost1050 d ds ∧ lv = 2) →
        Completes (.boostGrant die) s fun t => (t.slotAt q.core q.slot).claim = lv ∧ (t.slotAt q.core q.slot).wait = none ∧ (t.dieAt die).boostQ = []
          ∧ (t.dieAt die).pool = y.pool ∧ (t.slotAt q.core q.slot).thread.ws = y.pool.setWidth 64 * 2 ^ 32
          ∧ (t.slotAt q.core q.slot).thread.pc = t0.thread.pc + 8 ∧ t.curCore = s.curCore ∧ t.curSlot = s.curSlot)
    ∧ (s.instant.toNat < 5000 * (y.interval + 1) → exec (.intervalEnd die) s = .next s)
    ∧ (5000 * (y.interval + 1) ≤ s.instant.toNat → Completes (.intervalEnd die) s fun t => (t.dieAt die).interval = y.interval + 1
        ∧ (∀ j < 128, (t.courseAt (128 * die + j)).highest = (t.courseAt (128 * die + j)).level
          ∧ (t.courseAt (128 * die + j)).busy = s.holdsThread (128 * die + j))
        ∧ SameMem s t ∧ SameBufs s t
        ∧ ((∀ j < 128, (s.courseAt (128 * die + j)).highest = 0 ∧ (s.courseAt (128 * die + j)).busy = true) → (t.dieAt die).pool = y.pool)
        ∧ (128 * die ≤ k → k < 128 * (die + 1) → (∀ j < 128, 128 * die + j ≠ k → (s.courseAt (128 * die + j)).highest = 0 ∧ (s.courseAt (128 * die + j)).busy = true) →
            (s.courseAt k).highest = 2 → (s.courseAt k).inFall = false → (s.courseAt k).busy = true → (t.dieAt die).pool = y.pool - (if y.pool = 0 then 0 else 1)))

/-- `boost`, and the steps of the power controller: `Piece.BoostClaims`, `Piece.PowerSteps`. -/
def Obligations.BoostAndPower : Prop :=
  Piece.BoostClaims ∧ Piece.PowerSteps

/-! ## The decode dictionary (R68 to R78) -/

/-- R75 to R77: `dset` makes the bank of its handle active, which units already fetched do not see yet, and refuses a handle that neither bank holds;
`dfence` ends that lag; `dload` reads an image and fills the entries that it carries in the bank of its handle, or in the inactive bank alone where
neither has it; under `poll` it ends at once; a speculative task's from a register window first waits for the transition (R288). Stated for images in this chip's memory, an answer that is not late, and no stores of the thread on
their way. -/
def Obligations.DictionaryLoads : Prop :=
  ∀ (s : State) (a t : Fin 16) (m : CgAddr) (hd rest : List (Option Nat × Nat)), s.Plain →
    let d := s.sl.dict
    let act := if d.active then d.bank1 else d.bank0
    let other := if d.active then d.bank0 else d.bank1
    let va := s.cgVa m &&& ~~~63#64
    let bytes (as : List (Option Nat × Nat)) (j n : Nat) : Nat := leNat ((List.range n).map fun i => mget s.mem (as.getD (j + i) (none, 0)).2)
    let handle := bytes hd 0 4
    let first := bytes hd 4 1
    let last := bytes hd 5 1
    let n := if last < first then 0 else 16 * (last - first + 1)
    let as := hd ++ rest
    let u := s.noteRange s.curCtx va (64 + n)
    let refused (c : Nat) : Prop := GivesIn (.dload t m) s (State.waited { u with
      places := u.recalled fun g => as.any fun x => x.2 / 64 == g }) { s.th with ws := w64 (6 + c * 2 ^ 32) }
    SelectsBank (.dset a) s ((s.g a).setWidth 32)
    ∧ EndsIn .dfence s { s.sl.ended with dictLag := [], thread := { s.th with pc := s.th.pc + 8 } }
    ∧ (let tail := s.imageTail va
      s.spec = true → s.late = false → ∀ all, s.imageRange va (64 + tail) = .ok all → s.watchHit va.toNat (64 + tail) true false = none →
        (∃ x ∈ all, x.1 = none ∧ isWindow x.2 = true) → s.mayWait m.ds →
        BeginsWait (.dload t m) s (s.noteRange s.curCtx va (64 + tail)) m.ds 9)
    ∧ (s.spec = false → s.late = false → s.op = [] → s.lq = [] → s.imageRange va 64 = .ok hd → s.imageRange va (64 + n) = .ok as →
      s.watchHit va.toNat (64 + n) true false = none → (∀ x ∈ as, x.1 = none ∧ x.2 < 0x8000000000) →
      (m.ds = .poll → GivesIn (.dload t m) s u.waited { s.th with ws := 1 })
      ∧ (m.ds ≠ .poll → handle = 0 → refused 1) ∧ (m.ds ≠ .poll → handle ≠ 0 → last < first → refused 2)
      ∧ (m.ds ≠ .poll → handle ≠ 0 → first ≤ last → (act.entries.map (·.1)).Pairwise (· < ·) → (other.entries.map (·.1)).Pairwise (· < ·) →
          Completes (.dload t m) s fun u =>
            let isAct : Bool := act.handle.toNat == handle
            let bank (x : Dict) (on : Bool) : Bank := if x.active == on then x.bank1 else x.bank0
            u.th = { s.th with g := s.th.g.set t.val (w64 handle) t.isLt, ws := w64 ((last - first + 1) * 2 ^ 32), pc := s.th.pc + 8 }
            ∧ u.sl.dict.active = d.active ∧ bank u.sl.dict (!isAct) = bank d (!isAct) ∧ (bank u.sl.dict isAct).handle.toNat = handle
            ∧ ∀ j, tget (bank u.sl.dict isAct).entries j =
              if first ≤ j ∧ j ≤ last then some ⟨w64 (bytes rest (16 * (j - first)) 8), BitVec.ofNat 32 (bytes rest (16 * (j - first) + 8) 4)⟩
              else if (bank d isAct).handle.toNat = handle then tget (bank d isAct).entries j else none))

/-- R69, R71, R72: `dx` and `dxa` run, at their own address, what decoding their entry's filled template gives, for every template of their slot's class
and width: each bit is that of the last hole that covers it, else the template's. So run the worked expansion of R71's chapter, an `addi` of either
slot with both registers as holes, and a wide `ldi` with its register and the low bits of its literal; a template that does not decode, or of the
other width or the other slot's class, is an illegal instruction, and an entry that is not valid raises the undefined-dictionary-entry fault with the
bank's handle and the index. -/
def Obligations.Expansion : Prop :=
  ∀ (s : State) (idx : BitVec 8) (h0 h1 : BitVec 6) (h2 : BitVec 4) (k2 : BitVec 5) (tp : Word), s.Plain → s.sl.dictLag = [] →
    let b := if s.sl.dict.active then s.sl.dict.bank1 else s.sl.dict.bank0
    let holds (t : Word) (desc : BitVec 32) : Prop := tget b.entries idx.toNat = some ⟨t, desc⟩
    let r0 : Fin 16 := ⟨h0.toNat % 16, by omega⟩
    let r1 : Fin 16 := ⟨h1.toNat % 16, by omega⟩
    let bad : Prop := tget b.entries idx.toNat = none ∨ ∃ e, tget b.entries idx.toNat = some e ∧ (e.desc.getLsbD 31 = false ∨ e.desc.toNat / 2 ^ 29 % 4 = 3)
    (∀ e, tget b.entries idx.toNat = some e → e.desc.getLsbD 31 = true →
      let hole (k : Nat) : Nat := e.desc.toNat / 2 ^ (9 * k) % 512
      let covers (k j : Nat) : Bool := decide (hole k % 64 ≤ j) && decide (j < hole k % 64 + hole k / 64)
      let cls := e.desc.toNat / 2 ^ 29 % 4
      let filled (g0 g1 g2 x : Nat) : Prop := x < 2 ^ 64 ∧ ∀ j < 64, x.testBit j =
        if covers 2 j then g2.testBit (j - hole 2 % 64) else if covers 1 j then g1.testBit (j - hole 1 % 64)
        else if covers 0 j then g0.testBit (j - hole 0 % 64) else e.template.getLsbD j
      let dx := Instr.dx idx h0 h1 h2
      let dxa := Instr.dxa idx h0 h1 k2
      (∀ x, filled h0.toNat h1.toNat h2.toNat x →
        let op := x / 2 ^ 24 % 128
        let fits : Prop := (cls = 0 ∧ loneC op = false ∧ op ≠ 0x7F) ∨ (cls = 1 ∧ loneC op = true)
        let read := decodeC (x % 2 ^ 31) (if cls = 0 then 0 else x / 2 ^ 32)
        (∀ i, fits → read = some i → exec dx s = exec i s)
        ∧ (cls ≠ 3 → ¬fits ∨ read = none → RaisesTrap dx s 4 0 0 0 0 s.th.pc))
      ∧ (∀ x, filled h0.toNat h1.toNat k2.toNat x →
        let fits : Prop := cls = 2 ∧ x / 2 ^ 25 % 128 ≠ 0x7F
        let read := decodeA (x % 2 ^ 32)
        (∀ i, fits → read = some i → exec dxa s = exec i s)
        ∧ (cls ≠ 3 → ¬fits ∨ read = none → RaisesTrap dxa s 4 1 0 0 0 s.th.pc)))
    ∧ (holds 0x6C000040 0x80022114 → exec (.dx idx h0 h1 h2) s = exec (.dload r0 ⟨r1, .dla, 0x040⟩) s)
    ∧ (holds 0x11000004 0x80022114 → GivesG (.dx idx h0 h1 h2) s r0 (s.g r1 + 4))
    ∧ (holds 0x38000004 0xC0022315 → GivesG (.dxa idx h0 h1 k2) s r0 (s.g r1 + 4))
    ∧ (holds 0x1000F000000 0xA0034114 → GivesG (.dx idx h0 h1 h2) s r0 (0x100 + h1.setWidth 64))
    ∧ (holds 0xF000000 0x80000000 ∨ holds 0x6C000040 0xA0000000 → RaisesTrap (.dx idx h0 h1 h2) s 4 0 0 0 0 s.th.pc)
    ∧ (bad → RaisesTrap (.dx idx h0 h1 h2) s 3 0 0 b.handle.toNat (idx.setWidth 64) s.th.pc
        ∧ RaisesTrap (.dxa idx h0 h1 k2) s 3 1 0 b.handle.toNat (idx.setWidth 64) s.th.pc)
    ∧ (holds tp 0xC0000000 → RaisesTrap (.dx idx h0 h1 h2) s 4 0 0 0 0 s.th.pc)
    ∧ (holds tp 0x80000000 ∨ holds tp 0xA0000000 → RaisesTrap (.dxa idx h0 h1 k2) s 4 1 0 0 0 s.th.pc)

/-! ## The scheduler and the clock's steps (R33, R243 to R253, R300, R301) -/

/-- R33, R248, R249: a free slot starts the candidate that comes before every other (entries without an index rank last, log 44), here a record in the
inbox; without a candidate of its own it examines its next victim (by core number at equal distance, log 35) and takes the oldest record of its deque
where the recorded domain and the context admit it. Either leaves memory, the buffers and every other slot alone. Stated for work of lineages that
live, and records without a dictionary. -/
def Obligations.TaskStarts : Prop :=
  ∀ (s : State) (c victim ctx n : Nat) (u : Fin 4) (x : Cand) (q : Queued) (d : DequeEntry) (rest : List DequeEntry) (y : Context) (k : Kernel),
    s.freeFor c u ctx → s.unannulled c → s.ctx? q.ctx = some y → tget y.kernels (recKHandle q.record).toNat = some k → recDict q.record = 0 →
    let admits : Prop := match d.dom with
      | 0 => courseOf c = courseOf victim
      | 1 => clusterOf c = clusterOf victim
      | 2 => dieOf c = dieOf victim
      | _ => True
    let cands := s.candidates c
    (x ∈ cands → x.passed cands = false → (∀ z ∈ cands, z ≠ x → z.passed cands = false → x.precedes z) → x.kind = .record n q → Rising (s.coreAt c).inbox →
      Completes (.taskStart c u) s fun t => Starts s t c u q k ∧ tget (t.coreAt c).inbox n = none
        ∧ (∀ m, m ≠ n → tget (t.coreAt c).inbox m = tget (s.coreAt c).inbox m) ∧ SameMem s t ∧ SameBufs s t ∧ SameSlotsBut s t c u)
    ∧ (cands = [] → exec (.taskStart c u) s = .next s)
    ∧ (cands = [] → nextVictim c (s.slotAt c u).scan = victim → victim ≠ c → s.unannulled victim → (s.coreAt victim).deque = d :: rest → d.rec? = some q →
      (admits ∧ q.ctx = ctx → Completes (.steal c u victim) s fun t => Starts s t c u q k
        ∧ (t.coreAt victim).deque = (d :: rest).filter (fun e => e.place != d.place) ∧ SameMem s t ∧ SameBufs s t ∧ SameSlotsBut s t c u)
      ∧ (¬(admits ∧ q.ctx = ctx) → exec (.steal c u victim) s = .next (s.setSlot c u { s.slotAt c u with scan := some victim })))

/-- R243 to R245, R252, R300, R301: the deadline step, once it is due, ends a wait whose condition does not hold by then with DEADLINE or CAP and the
next unit, a CAP ending with its wait-cap event (its DICT and BUDGET are 0, log 119); a budget that has run out parks the thread under the action table, or gives it its record's budget
again, unless its task is annulled (R309); a parked thread is killed once its PTIME has passed, and replayed 10 µs after its precise point where EVT asks for that. -/
def Piece.TimedSteps : Prop :=
  ∀ (s : State) (c : Nat) (u : Fin 4) (k : Task) (w : Wait) (p : Park) (dr ra rb : Fin 16) (m : CgAddr) (ds : Sel) (item : Word)
    (ps : List (Option Nat × Nat × Nat)),
    let sl := s.slotAt c u
    let th := sl.thread
    let at19 (a : Fin 5) : Slot := sl.parkedOn ⟨19, 2, 0, 0, 0, th.pc, a, s.evtOf k.ctx 19, s.instant, s.ptimeOf k.ctx 19⟩
    let due : Word := if w.sel ≤ w.capAt then w.sel else w.capAt
    sl.group = none → sl.stepping = false → sl.pendA = none → sl.newPc = none → sl.task = some k →
    let ring := s.descWord k.ctx 6 + 4 * ((th.g.get ra * 0x9E3779B97F4A7C15 + th.g.get rb * 0xC2B2AE3D27D4EB4F) >>> 52)
    let reads : Prop :=
      (w.instr = .ldgD dr m ∧ m.ds ≠ .poll ∧ s.translateRange k.ctx th.priv (th.g.get m.rb + m.disp.signExtend 64) 8 needR = .ok ps)
      ∨ (w.instr = .home dr ra rb ds ∧ ds ≠ .poll ∧ s.translateRange k.ctx 1 ring 4 needR = .ok ps)
    (sl.wait = some w → reads → (∀ p ∈ ps, p.1 = none ∧ p.2.1 + p.2.2 < 0xF000000000000) → w.suspended = none → s.annulled k.ctx th.lid = false → sl.remote = none →
      let gives (t : State) (code : Word) : Prop := t.slotAt c u = { sl.ended with
          capEvents := (t.slotAt c u).capEvents, thread := { th with ws := code, pc := th.pc + 8 } } ∧ SameMem s t ∧ SameBufs s t ∧ SameSlotsBut s t c u
      (s.instant < due → exec (.deadlineStep c u) s = .next s)
      ∧ (due ≤ s.instant → w.sel ≤ w.capAt → Completes (.deadlineStep c u) s fun t => gives t 1 ∧ t.priv = s.priv)
      ∧ (due ≤ s.instant → w.capAt < w.sel → (∀ r ∈ s.priv, r.src ≠ .waitCap c u) → Completes (.deadlineStep c u) s fun t => gives t 2
          ∧ (t.slotAt c u).capEvents = 1
          ∧ t.priv = s.priv ++ [⟨s.nextTask, c, k.ctx, mkRec ((s.descWord k.ctx 10).setWidth 32) ((s.descWord k.ctx 10 >>> 32).setWidth 32) 0 0 0 0 0xD s.instant
              (w64 (opcodeOf w.instr * 2 ^ 56 + th.lid.toNat * 2 ^ 36 + u.val * 2 ^ 34 + (s.logOf c).toNat)) th.pc
              (w64 ((if w.cap.toNat < 2 ^ 32 then w.cap.toNat else 2 ^ 32 - 1) * 2 ^ 32 + 1)), none, .waitCap c u, s.instant, false⟩]))
    ∧ (s.annulled k.ctx th.lid = true → exec (.budgetOverrun c u) s = .next s)
    ∧ (c < 8192 → th.remain = 0 → sl.park = none → sl.halt = none → sl.wait = none → k.ordinary → s.annulled k.ctx th.lid = false →
      (s.actionOf k.ctx 19 = 1 → s.evtOf k.ctx 19 = 0 → exec (.budgetOverrun c u) s = .next (s.setSlot c u { sl.dropped with
        thread := { th with remain := if recBudget k.record = 0 then 0xFFFFFFFF else recBudget k.record } }))
      ∧ (s.actionOf k.ctx 19 = 1 → s.evtOf k.ctx 19 ≠ 0 → exec (.budgetOverrun c u) s = .next (s.setSlot c u (at19 1)))
      ∧ (s.actionOf k.ctx 19 = 2 → exec (.budgetOverrun c u) s = .next (s.setSlot c u (at19 2))))
    ∧ (s.namesParked k.ctx item c u p →
      (p.ptime = 0 ∨ s.instant.toNat < p.since.toNat + 1000 * p.ptime.toNat → exec (.parkTimeExpiry item) s = .next s)
      ∧ (p.ptime ≠ 0 → p.since.toNat + 1000 * p.ptime.toNat ≤ s.instant.toNat → recCtask k.record = 0 → sl.wait = none → Completes (.parkTimeExpiry item) s fun t =>
          (t.slotAt c u).task = none ∧ (t.slotAt c u).park = none ∧ SameMem s t ∧ SameBufs s t)
      ∧ (p.action = 1 → p.evt = 2 → p.since.toNat + 10000 ≤ s.instant.toNat → p.cause ≠ 19 → sl.token = none →
          (∀ e ∈ s.clusters, ∀ o ∈ e.2.harp.queue, o.who.tid = k.id → o.park = none) →
          exec (.replayTimer item) s = .next (s.setSlot c u { sl with park := none, dictLag := [] }))
      ∧ (p.action ≠ 1 ∨ p.evt ≠ 2 ∨ s.instant.toNat < p.since.toNat + 10000 → exec (.replayTimer item) s = .next s))

/-- R253: an absence token from a peer is kept where there is room, and goes by its own message; the notices suspend and resume every wait of
`bar.wait` and `bar.sync` on the object (log 66), whose bounds then move later by the length of the suspension, and no other slot changes. -/
def Piece.AbsenceTokens : Prop :=
  ∀ (s : State) (chip obj : Nat) (tk : Token), tk.chip = some chip →
    let known : Prop := ∃ e ∈ s.contexts, ∃ p ∈ e.2.peers.toList, p.valid = true ∧ p.dead = false ∧ p.chip.toNat = chip
    let others (t : State) : Prop := ∀ c u, (∀ w, ¬s.waitsOn (s.slotAt c u) w obj) → t.slotAt c u = s.slotAt c u
    (known → s.tokens.length < 1024 → tk ∉ s.tokens → exec (.absenceToken tk) s = .next { s with tokens := s.tokens ++ [tk] })
    ∧ (¬known ∨ 1024 ≤ s.tokens.length → exec (.absenceToken tk) s = .next s)
    ∧ exec (.tokenRemoval tk) s = .next { s with tokens := s.tokens.filter fun k => k != tk }
    ∧ (obj ∉ s.suspended → (2 ^ 52 ≤ obj ∨ ∃ k ∈ s.tokens, k.obj = obj) → Completes (.suspendNotice obj) s fun t =>
        t = { s with suspended := s.suspended ++ [obj], cores := t.cores } ∧ others t
        ∧ ∀ c u w, s.waitsOn (s.slotAt c u) w obj → w.suspended = none →
            t.slotAt c u = { s.slotAt c u with wait := some { w with suspended := some s.instant } })
    ∧ (obj ∈ s.suspended → (∀ k ∈ s.tokens, k.obj ≠ obj) → Completes (.resumeNotice obj) s fun t =>
        t = { s with suspended := s.suspended.filter (fun o => o != obj), cores := t.cores } ∧ others t
        ∧ ∀ c u w t0, s.waitsOn (s.slotAt c u) w obj → w.suspended = some t0 →
            t.slotAt c u = { s.slotAt c u with wait := some { w with
              suspended := none, sel := satAdd w.sel (s.instant - t0), capAt := satAdd w.capAt (s.instant - t0) } })

/-- Steps of time, and absence tokens: `Piece.TimedSteps`, `Piece.AbsenceTokens`. -/
def Obligations.TimedStepsAndAbsence : Prop :=
  Piece.TimedSteps ∧ Piece.AbsenceTokens

/-! ## What the silicon does to itself (R181, R290, R310, R312, R314, R315, R356) -/

/-- R183, R310: a timing error takes the core's step-down one step deeper for a microsecond, counts in its second (log 32), and costs the unit's
budget the replay's cycles, Config.cycles of the step (a free value, log 3); the unit goes on from where it stood, and the step-down goes whole once a microsecond has passed. -/
def Piece.TimingErrors : Prop :=
  ∀ (s : State) (c k : Nat) (u : Fin 4) (task : Task),
    let x := s.coreAt c
    let sl := s.slotAt c u
    let same : Prop := x.timingErrors ≠ 0 ∧ s.instant.toNat < x.errorWindow.toNat + 1000000000
    let slow : Core := { x with
      stepdown := if x.stepdown = 3 then 3 else x.stepdown + 1, stepdownAt := s.instant
      timingErrors := if same then x.timingErrors + 1 else 1, errorWindow := if same then x.errorWindow else s.instant }
    let y := s.clusterAt k
    (c < 8192 → sl.task = some task → let n := Config.cycles s.tick c
      exec (.timingError (.unit c u)) s = .next ((s.setCore c slow).setSlot c u { sl with
      thread := { sl.thread with remain := BitVec.ofNat 32 (sl.thread.remain.toNat - n) }, task := some { task with ran := task.ran + n } }))
    ∧ (c < 8192 → x.cmu ≠ [] → exec (.timingError (.cmu c)) s = .next (s.setCore c slow))
    ∧ (y.harp.queue ≠ [] → exec (.timingError (.harp k)) s = .next (s.setCluster k { y with harp := { y.harp with stepdown := some s.instant } }))
    ∧ (x.stepdown ≠ 0 → x.stepdownAt.toNat + 1000 ≤ s.instant.toNat → exec (.stepdownExpiry c) s = .next (s.setCore c { x with stepdown := 0 }))
    ∧ (x.stepdown = 0 ∨ s.instant.toNat < x.stepdownAt.toNat + 1000 → exec (.stepdownExpiry c) s = .next s)

/-- R312, R315: an uncorrectable error is counted in its hour (log 32), and goes by where it is found: a thread's device read and an engine's read
raise cause 23 with KIND 3 (log 70) and write no register (log 77), so do a wait on a barrier object and an arrival there, a fetch names SLOT 2, a typed
buffer's error queues its record with SLOT 3, KIND 3, the loading unit's address and an ADDR of 0 (log 70), a harp command is stopped where it stands, its thread's handle naming it (log 98), a dictionary entry is
lost, a lineage is annulled (LID 0 apart: the model's reading, log 60), and a graph node is freed. A corrected one is only counted. Stated for the
park action where an action decides. -/
def Piece.SoftErrors : Prop :=
  ∀ (s : State) (c d i : Nat) (u : Fin 4) (ch : Fin 8) (idx : BitVec 8) (l : BitVec 20) (va : Word) (k : Task) (w : Wait) (r : Fin 16) (m : CgAddr)
    (x : Copy) (rest : List Copy) (nd : Node) (o : HarpCmd) (hq : List HarpCmd) (pages : List (Nat × Option Nat × Nat)) (off : Nat)
    (bo : CqAddr) (port : Bool),
    let sl := s.slotAt c u
    let same : Prop := s.fw.softErrors ≠ 0 ∧ s.instant.toNat < s.fw.softWindow.toNat + 3600000000000
    let n := if same then s.fw.softErrors + 1 else 1
    let counted : State := { s with fw := { s.fw with
      softErrors := n, softWindow := if same then s.fw.softWindow else s.instant
      hstat := if s.thSoft < n then s.fw.hstat ||| 0x40 else s.fw.hstat } }
    exec .correctedError s = .next { s with fw := { s.fw with correctedErrors := s.fw.correctedErrors + 1 } }
    ∧ exec (.uncorrectableData (.lineage d 0)) s = .next counted
    ∧ (l ≠ 0 → exec (.uncorrectableData (.lineage d l)) s = .next (counted.annulLineage d l))
    ∧ (∃ es, (let b := if sl.dict.active then sl.dict.bank1 else sl.dict.bank0
        Rising b.entries → ∀ j, tget es j = if j = idx.toNat then none else tget b.entries j)
      ∧ exec (.uncorrectableData (.dict c u idx)) s = .next (counted.setSlot c u { sl with dict :=
          if sl.dict.active then { sl.dict with bank1 := { sl.dict.bank1 with entries := es } }
          else { sl.dict with bank0 := { sl.dict.bank0 with entries := es } } }))
    ∧ (sl.task = some k → k.ordinary → sl.newPc = none → s.actionOf k.ctx 23 = 2 →
        let stops (slotF : BitVec 2) : Prop := Completes (.uncorrectableData (.threadRead c u va)) s fun t => t.fw = counted.fw ∧ (t.slotAt c u).wait = none
          ∧ (t.slotAt c u).park = some ⟨23, slotF, 3, 0, va, sl.thread.pc, 2, s.evtOf k.ctx 23, s.instant, s.ptimeOf k.ctx 23⟩
          ∧ (t.slotAt c u).thread = sl.thread ∧ SameMem s t ∧ SameBufs s t
        (sl.wait = some w → w.instr = .ldgD r m → stops 0)
        ∧ (sl.wait = some w → w.instr = .barWait r bo → w.obj = some (.dev i port) → sl.remote = none → stops 0)
        ∧ (sl.wait = some w → w.instr = .barArrive r bo → sl.remote = some ⟨.barArrive (.dev i port), none⟩ → stops 0)
        ∧ (sl.wait = none → c < 8192 → sl.park = none → sl.halt = none → va >>> 3 = sl.thread.pc >>> 3 → stops 2))
    ∧ (sl.task = some k → sl.wait = none → sl.stalled = false →
        (∀ pc, sl.lastLoad = some pc → Completes (.uncorrectableData (.buffer c u)) s fun t =>
          t = { counted with priv := t.priv, lineages := t.lineages, nextTask := s.nextTask + 1, dq := s.dq ++ [⟨s.nextTask, k.ctx, 0, 0⟩] }
          ∧ ∃ q, t.priv = s.priv ++ [q] ∧ q.id = s.nextTask ∧ q.ctx = k.ctx ∧ q.src = .thread c u ∧ q.core = s.recordCore k.ctx 23 c
            ∧ recArg q.record 0 = w64 (23 * 2 ^ 58 + 3 * 2 ^ 56 + 3 * 2 ^ 54 + sl.thread.lid.toNat * 2 ^ 32) ∧ recArg q.record 1 = pc
            ∧ recArg q.record 2 = 0 ∧ recArg q.record 3 = s.threadItem c u)
        ∧ (sl.lastLoad = none → exec (.uncorrectableData (.buffer c u)) s = .next s))
    ∧ (c < 8192 → ((s.coreAt c).chans.get ch).queue = x :: rest → x.park = none → x.failed = false → x.done < x.len → x.src = .dev va →
        s.actionOf x.who.ctx 23 = 2 → exec (.uncorrectableData (.engineRead c ch)) s = .next (counted.setHead c ch { x with
          park := some ⟨23, 3, 3, 0, va + w64 x.done, x.who.pc, 2, s.evtOf x.who.ctx 23, s.instant, s.ptimeOf x.who.ctx 23⟩ }))
    ∧ (let y := s.clusterAt d
      y.harp.queue = o :: hq → o.waiting = false → o.park = none → o.kind = .ldw (.device va pages) none → Ty.ofCode o.fmtb.toNat = some .b → off < 65536 →
      s.actionOf o.who.ctx 23 = 2 → exec (.uncorrectableData (.harp d off)) s = .next (counted.setCluster d { y with harp := { y.harp with
        queue := y.harp.queue.map fun q => if q.id = o.id then { q with
          park := some ⟨23, 3, 3, 0, va + w64 off, o.who.pc, 2, s.evtOf o.who.ctx 23, s.instant, s.ptimeOf o.who.ctx 23⟩ } else q } }))
    ∧ (Rising (s.dieAt d).nodes → tget (s.dieAt d).nodes i = some nd → Completes (.uncorrectableData (.node d i)) s fun t =>
        tget (t.dieAt d).nodes i = none ∧ i ∉ (t.dieAt d).ready ∧ tget (t.dieAt d).gens i = some ((tget (s.dieAt d).gens i).getD 0 + 1)
        ∧ (∀ j, j ≠ i → tget (t.dieAt d).nodes j = tget (s.dieAt d).nodes j) ∧ (∀ e ∈ t.dq, e.id ≠ nd.task.id) ∧ SameMem s t ∧ SameBufs s t)

/-- Timing and soft errors: `Piece.TimingErrors`, `Piece.SoftErrors`. -/
def Obligations.Errors : Prop :=
  Piece.TimingErrors ∧ Piece.SoftErrors

/-- R290, R314, R315, R356: a retired lane is counted and raises HSTAT where too many are out or its port is down (which port leads to which peer is
open, log 33); a remapped channel uses reserve frames; a dropped packet is counted at its router; a core above THERMLIM that holds no RUNNING task
moves, with its logical number and without a byte lost, in exchange for the contents (log 27) of the lowest-numbered core of its cluster that is free
and cool enough, and its dictionary banks are reloaded (R78); a core with too many timing errors leaves the table. -/
def Obligations.WornParts : Prop :=
  ∀ (s : State) (port p frames phys hot target n m th : Nat) (e : BitVec 32) (temps : List (Nat × Nat)), hot < 8192 →
    let lanes := (tget s.fw.lanes port).getD 0
    let x := s.coreAt hot
    let resting : Prop := ∀ u : Fin 4, (x.slots.get u).task = none ∨ (x.slots.get u).park ≠ none
    let fits (c : Nat) : Prop := c ≠ hot ∧ s.logOf? c ≠ none ∧ (∀ u : Fin 4, (s.slotAt c u).task = none ∧ (s.slotAt c u).reserved = none)
      ∧ ∃ v, (temps.find? fun q => q.1 == c) = some (c, v) ∧ v ≤ 4 * (s.thermLim - 15)
    let used := min s.reserve (s.fw.reserveUsed + frames)
    (port < 16 → lanes < 8 → p < 16 → p ≠ port → (tget s.fw.lanes p).getD 0 ≤ 4 → exec (.laneRetire port) s = .next { s with fw := { s.fw with
      lanes := tset s.fw.lanes port (lanes + 1), lanesRetired := s.fw.lanesRetired + 1
      hstat := if s.thLane < s.fw.lanesRetired + 1 ∨ 4 < lanes + 1 then s.fw.hstat ||| 0x20 else s.fw.hstat } })
    ∧ exec (.memoryRemap frames) s = .next { s with fw := { s.fw with
        reserveUsed := used, hstat := if s.reserve ≤ used then s.fw.hstat ||| 0x10 else s.fw.hstat } }
    ∧ (tget s.fw.fwctl phys = some e →
        (e.getLsbD 30 = false → exec (.firewallDrop phys) s = .next s)
        ∧ (e.getLsbD 30 = true → exec (.firewallDrop phys) s = .next { s with fw := { s.fw with
            fwctl := tset s.fw.fwctl phys (if e &&& 0xFFFFFF = 0xFFFFFF then e else e + 1), hstat := s.fw.hstat ||| 0x80 } }))
    ∧ (target < 8192 → clusterOf target = clusterOf hot → fits target → (∀ c < target, clusterOf c = clusterOf hot → ¬fits c) → 4 * s.thermLim < th →
      (temps.find? fun q => q.1 == hot) = some (hot, th) → s.logOf? hot = some n → s.logOf? target = some m → n ≠ m → Rising s.cores → resting →
      Completes (.thermalMigration hot temps) s fun t =>
        tget t.fw.l2p n = some (0x80000000#32 + BitVec.ofNat 32 target) ∧ tget t.fw.l2p m = some (0x80000000#32 + BitVec.ofNat 32 hot)
        ∧ (∀ u, (t.slotAt target u).thread = (x.slots.get u).thread ∧ (t.slotAt target u).v = (x.slots.get u).v ∧ (t.slotAt target u).m = (x.slots.get u).m
            ∧ (t.slotAt target u).rs = (x.slots.get u).rs ∧ (t.slotAt target u).claim = 0
            ∧ ∀ d, s.switchDict (x.ctx.getD 0) (x.slots.get u).dict = .ok d → (t.slotAt target u).dict = d)
        ∧ (t.coreAt target).ctx = x.ctx ∧ (∀ b a, mget ((t.coreAt target).bufMem b) a = mget (x.bufMem b) a) ∧ (t.coreAt target).sync = x.sync
        ∧ (t.coreAt target).deque = x.deque ∧ (t.coreAt target).tagen = x.tagen ∧ SameMem s t)
    ∧ ((temps.find? fun q => q.1 == hot) = some (hot, th) → th ≤ 4 * s.thermLim → exec (.thermalMigration hot temps) s = .next s)
    ∧ (¬resting → exec (.thermalMigration hot temps) s = .next s ∧ (x.ctx ≠ none → exec (.coreMapOut hot temps) s = .next s))
    ∧ (x.timingErrors ≤ s.thTerr → exec (.coreMapOut hot temps) s = .next s)
    ∧ (s.thTerr < x.timingErrors → s.logOf? hot = some n → x.ctx = none → Completes (.coreMapOut hot temps) s fun t =>
        tget t.fw.l2p n = some (BitVec.ofNat 32 hot) ∧ (∀ j, j ≠ n → tget t.fw.l2p j = tget s.fw.l2p j) ∧ (t.coreAt hot).ctx = none
        ∧ SameMem s t ∧ SameBufs s t)

/-! ## What peers ask and tell (R313, R341, R342) -/

/-- R29, R341: a held message waits while its core is not resident for its context or has no room, is refused where its target is one no more, and is
bound to the live mirror of its key and appended with the mirror's LID, SKIND 2 and the count of its forwards (R343), in the lowest free place (log 65),
where it can be; once its expiry has passed it is removed. What is read of the core set and the stub table is recalled (R192, log 105). -/
def Piece.PortMessages : Prop :=
  ∀ (s : State) (i c n : Nat) (h : HeldMsg) (l : BitVec 20) (x : Lineage), s.heldMsgs[i]? = some h → h.stubbed = false →
    let y := s.coreAt c
    let u := s.sawCore h.pctx h.core
    let gone (v : State) (o : PeerOut) : State := { v with heldMsgs := s.heldMsgs.eraseIdx i, sent := s.sent ++ [o] }
    (h.expiry ≤ s.instant → exec (.portRelease i) s = .next s ∧ exec (.heldExpiry i) s = .next (gone s (.ack h.chip)))
    ∧ (s.instant < h.expiry → exec (.heldExpiry i) s = .next s
      ∧ (s.targetCore h.pctx h.core = none → exec (.portRelease i) s = .next (gone u (.refusal h.chip)))
      ∧ (s.targetCore h.pctx h.core = some c → y.ctx ≠ some h.pctx ∨ y.msgRoom = false → exec (.portRelease i) s = .next s)
      ∧ (s.targetCore h.pctx h.core = some c → y.ctx = some h.pctx → y.msgRoom = true → LowestFree y n →
        s.mirrorOf h.pctx (h.chip, h.sctx, h.lid, h.expiry) = some l → s.lineage? h.pctx l = some x →
        (∀ m, s.stubTarget h.pctx c m = none) → ∃ m, msgTag m = msgTag h.msg ∧ msgLen m = msgLen h.msg ∧ msgLid m = l ∧ msgSkind m = 2
          ∧ recBits m 128 384 = recBits h.msg 128 384
          ∧ exec (.portRelease i) s = .next { ((u.sawStubs h.pctx c m).setCore c { y with
                inbox := tset y.inbox n ⟨.message m h.hops, h.pctx, s.instant, y.nextOrder, false, none, false⟩, nextOrder := y.nextOrder + 1 }).setLineage h.pctx l
              { x with live := x.live + 1 } with heldMsgs := s.heldMsgs.eraseIdx i, sent := s.sent ++ [.ack h.chip] }))

/-- R313, R342: an annul notice annuls every mirror of its lineage and removes what is held of it (log 26); a reset notice is acknowledged once none
of its mirrors is left; a queue's reset ends with the last peer that acknowledges, or that has not for 100 ms, with RSTAT and the RESET event. -/
def Piece.Notices : Prop :=
  ∀ (s : State) (chip ctx die q peer : Nat) (l : BitVec 20) (ls : List (BitVec 20)) (h : HostQueue) (t0 : Word),
    let u := (s.mirrorsFrom chip ctx l).foldl (fun y e => y.annulLineage e.1 e.2) s
    let mine (h : HeldMsg) : Bool := !h.stubbed && h.chip == chip && h.sctx == ctx && h.lid == l
    let freed (n : Nat × Nat × List (BitVec 20)) : Prop := ∀ j ∈ n.2.2, s.mirrorsFrom n.1 n.2.1 j = []
    let left := h.resetPeers.filter fun p => p != peer
    let ended (mask : BitVec 32) (i : Instr) : Prop :=
      let v := (if mask = 0 then 2 else 3) * 2 ^ 62 + mask.toNat
      Completes i s fun t => BytesWritten s.mem t.mem (h.pa + 0x20) (leBytes 8 v) ∧ t.queueAt die q = some { h with
        resetting := false, resetNoticed := none, resetLids := [], resetPeers := [], resetMask := mask
        events := h.events ++ [eventWord 3 0 0 h.resetCookie s.instant (w64 v) 0] }
    exec (.annulNotice chip ctx l) s = .next { u with
      heldMsgs := u.heldMsgs.filter (fun h => !mine h), sent := u.sent ++ List.replicate (u.heldMsgs.filter mine).length (.ack chip) }
    ∧ ((∀ n ∈ s.fw.resetNotices, ¬freed n) →
      (freed (chip, ctx, ls) → exec (.resetNotice chip ctx ls) s = .next { s with sent := s.sent ++ [.resetAck chip] })
      ∧ (¬freed (chip, ctx, ls) → exec (.resetNotice chip ctx ls) s = .next { s with fw := { s.fw with
          resetNotices := s.fw.resetNotices ++ [(chip, ctx, ls)] } }))
    ∧ (s.queueAt die q = some h → h.resetting = true → h.resetNoticed = some t0 → peer ∈ h.resetPeers →
      (∀ e ∈ s.lineages, e.2.resetBy ≠ some (die, q)) → (∀ p ∈ h.resetPeers, s.deadPeer h.qctx p = false) →
      (left ≠ [] → exec (.resetAck die q peer) s = .next (s.setQueue die q { h with resetPeers := left }))
      ∧ (s.instant.toNat < t0.toNat + 100000000 → exec (.resetTimeout die q peer) s = .next s)
      ∧ (left ≠ [] → t0.toNat + 100000000 ≤ s.instant.toNat → exec (.resetTimeout die q peer) s = .next (s.setQueue die q { h with
          resetPeers := left, resetMask := h.resetMask ||| BitVec.twoPow 32 peer }))
      ∧ (left = [] → h.closing = false → s.memWf = true → (∀ g, s.unread g none) → ended h.resetMask (.resetAck die q peer)
        ∧ (t0.toNat + 100000000 ≤ s.instant.toNat → ended (h.resetMask ||| BitVec.twoPow 32 peer) (.resetTimeout die q peer))))

/-- Messages held at the ports, and notices: `Piece.PortMessages`, `Piece.Notices`. -/
def Obligations.PortMessagesAndNotices : Prop :=
  Piece.PortMessages ∧ Piece.Notices

/-! ## Monitors, energy, time and bring-up (R241, R332, R357 to R359, R380) -/

/-- R347, R357, R358: a sample of a course's voltage (under droop, 25 mV or more below its set point) or of a core's temperature counts in the figures
of the unit's epoch, with its bin; the end of an epoch, once it has come, makes the figures the reported ones in one step and begins a new epoch with
empty counts. -/
def Piece.Monitors : Prop :=
  ∀ (s : State) (die u v : Nat) (m : Monitor), tget (s.dieAt die).monitors u = some m → v < 2 ^ 64 →
    let y := s.dieAt die
    let f := m.now
    let src := m.sel.toNat % 16
    let epoch := 1000 * max 1 (m.sel.toNat / 2 ^ 32)
    let course := s.courseAt (m.sel.toNat / 2 ^ 16 % 2 ^ 13)
    (src = 6 ∧ (course.droop = false ∨ v + 25 ≤ s.setPoint (m.sel.toNat / 2 ^ 16 % 2 ^ 13)) ∨ src = 7 → ∃ bins,
      (∀ j : Nat, bins[j]? = (f.bins[j]?).map fun b =>
        if j = min 15 (Nat.log2 (max (v / 2 ^ (m.sel.toNat / 2 ^ 8 % 32)) 1)) ∧ b ≠ 0xFFFFFFFF then b + 1 else b)
      ∧ exec (.monitorSample die u v) s = .next (s.setDie die { y with monitors := tset y.monitors u { m with now :=
          ⟨if f.count = 0 ∨ v < f.min.toNat then w64 v else f.min, if f.count = 0 ∨ f.max.toNat < v then w64 v else f.max, f.count + 1, bins⟩ } }))
    ∧ (src ≠ 6 → src ≠ 7 → exec (.monitorSample die u v) s = .next s)
    ∧ (0 < src → src < 8 → m.start.toNat + epoch ≤ s.instant.toNat → exec (.monitorEpoch die u) s = .next (s.setDie die { y with
        monitors := tset y.monitors u { m with
          epno := m.epno + 1, start := m.start + w64 epoch, now := ⟨0, 0, 0, List.replicate 16 0⟩, rep := m.now } }))
    ∧ (src = 0 ∨ 8 ≤ src ∨ s.instant.toNat < m.start.toNat + epoch → exec (.monitorEpoch die u) s = .next s)

/-- R359: an accumulator counts modulo 2^64 and keeps WRAP once it has wrapped; a read of LO latches the high half for its reader (the host, or each
firmware core for itself), and the host's is answered with the low half. -/
def Piece.EnergyCounters : Prop :=
  ∀ (s : State) (acc core n : Nat), acc < 516 → n < 2 ^ 64 →
    let e : Energy := match tget s.energy acc with
      | some e => e
      | none => ⟨0, false, 0, []⟩
    let hi : BitVec 32 := (e.count >>> 32).setWidth 32
    exec (.energyCount acc n) s = .next { s with energy := tset s.energy acc { e with
      count := e.count + w64 n, wrap := e.wrap || decide (2 ^ 64 ≤ e.count.toNat + n) } }
    ∧ exec (.energyLoRead none acc) s = .next { s with
        energy := tset s.energy acc { e with latchHost := hi }, replies := s.replies ++ [⟨0, leBytes 4 (e.count.toNat % 2 ^ 32)⟩] }
    ∧ exec (.energyLoRead (some core) acc) s = .next { s with energy := tset s.energy acc { e with latchFw := tset e.latchFw core hi } }

/-- R241, R332, R380, R381: a measurement (this chip's time less the transmitter's, log 54) from the port in use is shown in TSYNC and brings the chip
to READY, where FSEC rises to the image's SECVER and FWMEAS is its digest; the first one sets INSTANT where no context has been created, and no other
step of precision time moves INSTANT; without one bring-up goes on after 5 s, and HOLD is set where the protocol has been silent. -/
def Piece.PrecisionTime : Prop :=
  ∀ (s : State) (offs : Int) (port : Nat),
    let image := (imageIn s.fw.fsec (if s.fw.fwRun then s.fw.fwSlot1 else s.fw.fwSlot0)).getD []
    let trailer := image.drop (image.length - 144)
    let up : Firmware := if s.fw.boot = .ready then s.fw else { s.fw with
      boot := .ready, fsec := BitVec.ofNat 32 (max s.fw.fsec.toNat (leNat (trailer.take 4))), fwMeas := sha512 image }
    let restarted (t : State) : Prop := ∀ d < 4, t.dieAt d = { s.dieAt d with
      interval := t.instant.toNat / 5000, monitors := (s.dieAt d).monitors.map fun e => (e.1, { e.2 with start := t.instant }) }
    let f : Firmware := { up with
      instantSet := true, tsyncHold := false
      tsyncOffs := BitVec.ofInt 32 (max (-2147483648) (min 2147483647 offs)), offsets := (s.fw.offsets ++ [offs]).drop (s.fw.offsets.length - 15) }
    (s.ptpPort = some port → s.fw.boot = .ready ∨ s.fw.boot = .timing →
      (s.fw.instantSet = true ∨ s.fw.ctxEver = true → exec (.ptpMeasurement offs port) s = .next { s with fw := f })
      ∧ (s.fw.instantSet = false → s.fw.ctxEver = false → Completes (.ptpMeasurement offs port) s fun t =>
          t = { s with fw := f, instant := w64 ((s.instant.toNat : Int) - offs).toNat, dies := t.dies }
          ∧ restarted t))
    ∧ (s.ptpPort ≠ some port → exec (.ptpMeasurement offs port) s = .next s)
    ∧ (s.fw.boot = .ready → exec .ptpHold s = .next { s with fw := { s.fw with tsyncHold := true } })
    ∧ (s.fw.boot = .timing → 5000000000 ≤ s.instant.toNat → Completes .ptpFirstTimeout s fun t =>
        t = { s with fw := { up with tsyncHold := true }, dies := t.dies } ∧ restarted t)
    ∧ (s.fw.boot ≠ .timing ∨ s.instant.toNat < 5000000000 → exec .ptpFirstTimeout s = .next s)

/-- Monitors, energy counters and precision time: `Piece.Monitors`, `Piece.EnergyCounters`, `Piece.PrecisionTime`. -/
def Obligations.Measurements : Prop :=
  Piece.Monitors ∧ Piece.EnergyCounters ∧ Piece.PrecisionTime

/-- R17, R290, R355, R380: device reset leaves nothing running, memory empty (log 55), and keeps the store and the fused counter; it stops at step 1
or 2 without an image or a table that passes; with both it waits in step 5 for precision time, with every router locked, each good core outside the
nut column in the table, and every pool full. R381: the image of a slot is the shortest run from its start, of body and trailer, whose LENGTH, SECVER and
signature pass (log 121). The keys that sign images and tables are the model's free values (log 40). -/
def Obligations.Bringup : Prop :=
  (∀ (fsec : BitVec 32) (slot : List Byte),
    let good (n : Nat) : Prop := n + 144 ≤ slot.length ∧ leNat ((slot.drop (n + 4)).take 4) = n ∧ fsec.toNat ≤ leNat ((slot.drop n).take 4)
      ∧ ecdsaValid Config.bootKey (sha512 (slot.take (n + 8))) ((slot.drop (n + 8)).take 132) = true
    (∀ n, good n → (∀ j < n, ¬good j) → imageIn fsec slot = some (slot.take (n + 144))) ∧ ((∀ n, ¬good n) → imageIn fsec slot = none))
  ∧ ∀ (s : State) (bad : List Nat) (rows : List (Nat × Nat)),
    let f := s.fw
    let image := if f.fwActive then f.fwSlot1 else f.fwSlot0
    let table := if f.tabActive then f.tabSlot1 else f.tabSlot0
    let w := if leNat ((table.drop 10).take 1) = 0 then 1 else leNat ((table.drop 10).take 1)
    let kept (t : State) : Prop := t.cores = [] ∧ t.contexts = [] ∧ t.lineages = [] ∧ t.frames = [] ∧ t.mem = [] ∧ t.op = [] ∧ t.lq = [] ∧ t.ft = []
      ∧ t.priv = [] ∧ t.instant = 0 ∧ t.fw.fwSlot0 = f.fwSlot0 ∧ t.fw.fwSlot1 = f.fwSlot1 ∧ t.fw.tabSlot0 = f.tabSlot0 ∧ t.fw.tabSlot1 = f.tabSlot1
    (imageOk f.fsec f.fwSlot0 = false → imageOk f.fsec f.fwSlot1 = false →
      Completes (.deviceReset bad rows) s fun t => kept t ∧ t.fw.boot = .stopped 1 ∧ t.fw.fsec = f.fsec)
    ∧ (imageOk f.fsec image = true →
      (tableOk f.fsec f.tabSlot0 = false → tableOk f.fsec f.tabSlot1 = false →
        Completes (.deviceReset bad rows) s fun t => kept t ∧ t.fw.boot = .stopped 2 ∧ t.fw.fsec = f.fsec)
      ∧ (tableOk f.fsec table = true → 1024 ≤ ((List.range 8192).filter fun n => decide (n % 32 < 32 - w) && !bad.contains n).length →
        Completes (.deviceReset bad rows) s fun t => kept t ∧ t.fw.boot = .timing ∧ t.fw.table = table
          ∧ (∀ n, tget t.fw.l2p n = if n < 8192 ∧ n % 32 < 32 - w then some (BitVec.ofNat 32 ((if n ∈ bad then 0 else 2 ^ 31) + n)) else none)
          ∧ (∀ n, tget t.fw.fwctl n = if n < 8192 then some (if n % 32 < 32 - w then 0x80000000 else 0xC0000000) else none)
          ∧ (∀ d < 4, (t.dieAt d).pool = BitVec.ofNat 16 (if leNat ((table.drop 12).take 4) = 0 then 64 else leNat ((table.drop 12).take 4)))
          ∧ t.fw.fsec = f.fsec)
      ∧ (tableOk f.fsec table = true → ((List.range 8192).filter fun n => decide (n % 32 < 32 - w) && !bad.contains n).length < 1024 →
        Completes (.deviceReset bad rows) s fun t => kept t ∧ t.fw.boot = .stopped 3 ∧ t.fw.fsec = f.fsec))

/-! ## The management endpoint (R278, R291, R292, R333 to R335, R386) -/

/-- R333, R380: before bring-up is over every command but QUOTE, HREAD and the slot writes is answered with error 14 and does nothing else; that QCERT
is among them is log 56. -/
def Piece.CommandsBeforeReady : Prop :=
  ∀ (s : State) (k n pa die q : Nat) (u : Fin 4) (j : Option Nat) (v : Word), s.fw.boot ≠ .ready →
    ∀ i ∈ [Instr.ctxNew k pa, .ctxDel k, .peers k, .reload k, .switch n j, .mapq die q pa, .unmapq die q, .kick die q, .qcert, .dbgClaim k, .dbgRel k,
      .dbgHalt n u, .dbgRun n u, .dbgStep n u, .dbgRd pa, .dbgWr pa v], exec i s = .next (s.told 14 [])

/-- R27, R278, R291, R292, R299, R333, R340: CTXNEW holds a descriptor and makes the context's root lineage, also where the lineage table is full (log
101), CTXDEL ends all that is the context's,
PEERS and RELOAD copy its tables again where they can be read (a dead link stays dead until its entry is rewritten, log 102), which recalls the cells
they read (log 105), and SWITCH, which drains
the matrix work (log 48), takes a core whose slots are free from its context, whose image it writes, and gives it to another, with every register 0 or
with the buffers of its image; while a slot has a task it waits, unless the supervisor forces the park (log 83); each is answered, and refused with
its error (a context number of 16 with error 2, a table of peers that cannot be read left as it is, log 49; a core number that names no core with
error 3, log 48). -/
def Piece.ContextCommands : Prop :=
  ∀ (s : State) (k pa n c : Nat) (x : Context) (l : List Byte) (e : Nat × Word), s.fw.boot = .ready →
    let m := BitVec.ofNat 13 n
    let y := s.coreAt c
    let noQueue (k : Nat) : Prop := ∀ d ∈ s.dies, ∀ q ∈ d.2.queues, q.2.qctx ≠ k
    let noSync : Prop := ∀ e ∈ s.cores, ∀ t : Fin 4, ∀ w, (e.2.slots.get t).wait = some w → ∀ ds o, w.instr ≠ .barSync ds o
    (s.ctx? k ≠ none → exec (.ctxNew k pa) s = .next (s.told 1 []))
    ∧ (s.ctx? k = none → 16 ≤ k ∨ 0x8000000000 < pa + 0x80 → exec (.ctxNew k pa) s = .next (s.told 2 []))
    ∧ (s.ctx? k = none → k < 16 → pa + 0x80 ≤ 0x8000000000 → Completes (.ctxNew k pa) s fun t =>
        t = { s with contexts := t.contexts, lineages := t.lineages, places := t.places, fw := { s.fw with ctxEver := true }, replies := s.replies ++ [⟨0, []⟩] }
        ∧ (∃ y, t.ctx? k = some y ∧ (∀ i : Fin 14, (y.desc.get i).toNat = s.field (pa + 8 * i.val) 8) ∧ y.kernels = [] ∧ y.kbusy = none ∧ y.debug = none
          ∧ y.notices = [])
        ∧ (∀ j, j ≠ k → t.ctx? j = s.ctx? j) ∧ t.lineage? k 0 = some ⟨BitVec.allOnes 64, none, 0, 0, .live, none, [], none, none⟩)
    ∧ (s.ctx? k = none → ∀ i ∈ [Instr.ctxDel k, .peers k, .reload k], exec i s = .next (s.told 3 []))
    ∧ (s.ctx? k = some x → Rising s.contexts → Completes (.ctxDel k) s fun t => t.ctx? k = none ∧ (∀ e ∈ t.lineages, e.1 / 1048576 ≠ k)
        ∧ (∀ e ∈ t.cores, e.2.ctx ≠ some k) ∧ (∀ e ∈ t.tlb, e.ctx ≠ k) ∧ (∀ r ∈ t.priv, r.ctx ≠ k) ∧ (∀ j, j ≠ k → t.ctx? j = s.ctx? j) ∧ (noSync → SameMem s t)
        ∧ t.replies = s.replies ++ [⟨0, []⟩])
    ∧ (s.ctx? k = some x → s.vread k (x.desc.get 7) 512 = .ok l → ∃ ps : Vector Peer 32, exec (.peers k) s = .next (((s.sawPeers k).setCtx k { x with peers := ps }).told 0 [])
        ∧ ∀ i : Fin 32, let b (off n : Nat) : Nat := leNat ((l.drop (16 * i.val + off)).take n)
            (ps.get i).chip.toNat = b 0 2 ∧ (ps.get i).pctx.toNat = b 2 1 % 16 ∧ ((ps.get i).valid = true ↔ b 3 1 % 2 = 1) ∧ (ps.get i).endpt.toNat = b 8 8
              ∧ (ps.get i).rewritten = false ∧ ((ps.get i).dead = true ↔ (x.peers.get i).dead = true ∧ (x.peers.get i).rewritten = false
                ∧ (x.peers.get i).chip.toNat = b 0 2 ∧ (x.peers.get i).pctx.toNat = b 2 1 % 16 ∧ ((x.peers.get i).valid = true ↔ b 3 1 % 2 = 1)
                ∧ (x.peers.get i).endpt.toNat = b 8 8))
    ∧ (s.ctx? k = some x → s.vread k (x.desc.get 7) 512 = .error e → exec (.peers k) s = .next (((s.sawPeers k).setCtx k x).told 0 []))
    ∧ (s.ctx? k = some x → s.vread k (x.desc.get 5) 1040 = .ok l → exec (.reload k) s = .next (((s.saw k (x.desc.get 5) 1040).setCtx k { x with actions := some l }).told 0 []))
    ∧ (s.ctx? k = some x → s.vread k (x.desc.get 5) 1040 = .error e → exec (.reload k) s = .next ((s.saw k (x.desc.get 5) 1040).told 0 []))
    ∧ (8192 ≤ n ∨ s.physOf m = none ∨ s.ctx? k = none → exec (.switch n (some k)) s = .next (s.told 3 []))
    ∧ (n < 8192 → s.physOf m = some c → s.logOf? c = some n → y.switches = [] →
      ((∃ t : Fin 4, (y.slots.get t).task ≠ none) → Config.forcesPark s.tick = false → s.ctx? k = some x →
        exec (.switch n (some k)) s = .next (s.setCore c { y with switches := [⟨some k, false⟩] }))
      ∧ ((∀ t : Fin 4, (y.slots.get t).task = none ∧ (y.slots.get t).wait = none) →
        (y.ctx = none → exec (.switch n none) s = .next ((s.setCore c y).told 0 []))
        ∧ (y.ctx = none → s.ctx? k = some x → noQueue k → (tget s.cores (savedNum k m) = none → Completes (.switch n (some k)) s fun t =>
            t = { s with cores := t.cores, courses := t.courses, replies := s.replies ++ [⟨0, []⟩] }
            ∧ t.coreAt c = { Core.reset with
                fmtc := 0, ctx := some k, stepdown := y.stepdown, stepdownAt := y.stepdownAt, timingErrors := y.timingErrors
                errorWindow := y.errorWindow, lastIssued := y.lastIssued }
            ∧ (∀ j, j ≠ c → t.coreAt j = s.coreAt j) ∧ (t.courseAt (courseOf c)).busy = true
            ∧ ∀ j, j ≠ courseOf c → t.courseAt j = s.courseAt j)
          ∧ (tget s.cores (savedNum k m) ≠ none → s.vread k (s.saveArea k m) 0x20000 = .ok l → Completes (.switch n (some k)) s fun t =>
            (t.coreAt c).ctx = some k ∧ (∀ j < 0xC000, mget (t.coreAt c).bufW j = l.getD j 0) ∧ (∀ j < 0x8000, mget (t.coreAt c).bufA j = l.getD (0xC000 + j) 0)
            ∧ (∀ j < 0x4000, mget (t.coreAt c).bufC j = l.getD (0x14000 + j) 0) ∧ SameMem s t ∧ t.replies = s.replies ++ [⟨0, []⟩]))
        ∧ (∀ j, y.ctx = some j → y.cmu = [] → (s.clusterAt (clusterOf c)).harp.queue = [] → (s.clusterAt (clusterOf c)).harp.lease = none →
          let saved := s.vwrite j (s.saveArea j m) ((List.range 0x28000).map fun i => s.imageAt c i)
          (saved = .error e → exec (.switch n none) s = .next ((s.setCore c y).told 4 []))
          ∧ (∀ s', saved = .ok s' → noQueue j → Completes (.switch n none) s fun t =>
              (t.coreAt c).ctx = none ∧ SameMem s' t ∧ t.replies = s.replies ++ [⟨0, []⟩]))))

/-- Management commands about contexts: `Piece.CommandsBeforeReady`, `Piece.ContextCommands`. -/
def Obligations.ContextManagement : Prop :=
  Piece.CommandsBeforeReady ∧ Piece.ContextCommands

/-- R333 to R335, R338, R339: MAPQ takes a queue as its descriptor in memory describes it, and refuses what R334 refuses: a descriptor outside device
memory, a SIZE or EVSIZE that is no power of two from 16 to 65,536, a misaligned ring, a context that is not live (log 51); UNMAPQ lets an idle
queue go, and marks one whose command is in progress, or whose events wait (log 84) or whose reset runs (log 52), as closing; KICK and the die's scanner visit a queue: its interval starts again with new commands and doubles without, and a TAIL too far ahead stops
it. -/
def Piece.QueueMapping : Prop :=
  ∀ (s : State) (die q pa j k : Nat) (h : HostQueue) (x : Context), s.fw.boot = .ready →
    let f (off n : Nat) : Nat := s.field (pa + off) n
    let tail := BitVec.ofNat 32 (s.field (h.pa + 0x10) 4)
    let prog := BitVec.ofNat 32 (s.field (h.pa + 0x18) 4)
    let ctx := f 0x0C 1 % 16
    let runs : Prop := h.parked = false ∧ h.stopped = false ∧ h.closing = false ∧ (tail - prog).toNat ≤ h.size
    (s.queueAt die q = some h → die < 4 → q < 4096 → exec (.mapq die q pa) s = .next (s.told 5 []))
    ∧ (4 ≤ die ∨ 4096 ≤ q → exec (.mapq die q pa) s = .next (s.told 6 []))
    ∧ (s.queueAt die q = none → die < 4 → q < 4096 → 0x8000000000 < pa + 64 ∨ f 0x00 8 % 128 ≠ 0 ∨ f 0x28 8 % 64 ≠ 0
        ∨ ¬ (16 ≤ f 0x08 4 ∧ f 0x08 4 ≤ 65536 ∧ ∃ i, f 0x08 4 = 2 ^ i) ∨ ¬ (16 ≤ f 0x30 4 ∧ f 0x30 4 ≤ 65536 ∧ ∃ i, f 0x30 4 = 2 ^ i)
        ∨ s.ctx? ctx = none → exec (.mapq die q pa) s = .next ((s.sawPhys pa 64).told 6 []))
    ∧ (s.queueAt die q = none → die < 4 → q < 4096 → pa + 64 ≤ 0x8000000000 → f 0x00 8 % 128 = 0 → f 0x28 8 % 64 = 0 → 4 ≤ j → j ≤ 16 → f 0x08 4 = 2 ^ j →
        4 ≤ k → k ≤ 16 → f 0x30 4 = 2 ^ k → s.ctx? ctx = some x → s.residentSomewhere ctx = true → (∀ d ∈ s.dies, ∀ p ∈ d.2.queues, p.2.qctx ≠ ctx) →
        Completes (.mapq die q pa) s fun t => (∃ h', t.queueAt die q = some h' ∧ h'.pa = pa ∧ h'.ring = f 0x00 8 ∧ h'.size = 2 ^ j ∧ h'.qctx = ctx
          ∧ h'.evring = f 0x28 8 ∧ h'.evsize = 2 ^ k ∧ h'.notify = decide (f 0x0C 1 / 16 % 2 = 1) ∧ h'.interval = 1 ∧ h'.stopped = false
          ∧ h'.closing = false ∧ h'.parked = false ∧ h'.cur = none ∧ h'.resetting = false ∧ h'.events = if h'.notify then x.notices else [])
          ∧ SameMem s t ∧ t.replies = s.replies ++ [⟨0, []⟩])
    ∧ (s.queueAt die q = none → ∀ i ∈ [Instr.unmapq die q, .kick die q], exec i s = .next (s.told 7 []))
    ∧ (s.queueAt die q = some h →
      (h.cur = none ∨ h.stopped = true → h.events = [] → h.resetting = false → ∃ qs, exec (.unmapq die q) s = .next ((s.setDie die { s.dieAt die with queues := qs }).told 0 [])
        ∧ (Rising (s.dieAt die).queues → ∀ p, tget qs p = if p = q then none else tget (s.dieAt die).queues p))
      ∧ ((h.cur ≠ none ∧ h.stopped = false) ∨ h.events ≠ [] ∨ h.resetting = true → exec (.unmapq die q) s = .next ((s.setQueue die q { h with closing := true }).told 0 []))
      ∧ (runs → exec (.queueScan die q) s = .next ((s.sawPhys h.pa 64).setQueue die q { h with
            lastTail := tail, interval := if tail = h.lastTail then min 1024 (2 * h.interval) else 1 })
        ∧ exec (.kick die q) s = .next (((s.sawPhys h.pa 64).setQueue die q { h with lastTail := tail, interval := if tail = h.lastTail then 2 else 1 }).told 0 []))
      ∧ (h.parked = true ∨ h.stopped = true ∨ h.closing = true → exec (.queueScan die q) s = .next s)
      ∧ (h.parked = false → h.stopped = false → h.closing = false → h.size < (tail - prog).toNat → s.memWf = true → (∀ g, s.unread g none) →
        Completes (.queueScan die q) s fun t => t.queueAt die q = some { h with
            stopped := true, lastTail := tail, events := h.events ++ [eventWord 4 0 0 0 s.instant 0 0] }
          ∧ BytesWritten s.mem t.mem (h.pa + 0x18) (leBytes 8 (s.field (h.pa + 0x18) 8 % 2 ^ 62 + 2 ^ 62))))

/-- R333, R380, R383, R384, R386: HREAD answers with the registers of the firmware windows, here HSTAT and BOOTST, and refuses what lies below them;
QUOTE answers at any time with its nonce, the instant and the fused counter in their places, and measurements of 0 before READY; QCERT answers with
the certificate; a slot write changes the slot that is not in use, which is the active one from then on (log 99), within the slot's size, whose free
part is log 120's. The device's
signature and its certificate are free values (log 40). -/
def Piece.RegistersAndStore : Prop :=
  ∀ (s : State) (pa off : Nat) (nonce : BitVec 512) (table : Bool) (bytes : List Byte),
    let f := s.fw
    let old := if table then (if f.tabRun then f.tabSlot0 else f.tabSlot1) else (if f.fwRun then f.fwSlot0 else f.fwSlot1)
    let boot : Nat := match f.boot with
      | .booting => 0
      | .timing => 0
      | .ready => 2 ^ 62
      | .stopped e => 2 ^ 63 + e.toNat * 2 ^ 56
    exec (.hread 0xF800000010000) s = .next (s.told 0 (leBytes 8 ((if f.hstat = 0 then 0 else 2 ^ 63) + f.hstat.toNat)))
    ∧ exec (.hread 0xF800000010010) s = .next (s.told 0 (leBytes 8 (boot + f.fsec.toNat)))
    ∧ (pa < 0xF800000000000 → exec (.hread pa) s = .next (s.told 8 []))
    ∧ (∃ l, exec (.quote nonce) s = .next (s.told 0 l) ∧ l.length = 0x198 ∧ (l.drop 0x90).take 4 = leBytes 4 f.fsec.toNat
        ∧ (l.drop 0x98).take 64 = leBytes 64 nonce.toNat ∧ (l.drop 0xD8).take 8 = leBytes 8 s.instant.toNat
        ∧ (l.drop 0xE0).take 52 = List.replicate 52 0 ∧ (f.boot ≠ .ready → (l.drop 0x10).take 128 = List.replicate 128 0))
    ∧ (f.boot = .ready → ∃ l, exec .qcert s = .next (s.told 0 l))
    ∧ (slotSize table < off + bytes.length → exec (.slotWrite table off bytes) s = .next (s.told 8 []))
    ∧ (off + bytes.length ≤ slotSize table → ∃ l : List Byte, (∀ j, l.getD j 0 = if off ≤ j ∧ j < off + bytes.length then bytes.getD (j - off) 0 else old.getD j 0)
        ∧ exec (.slotWrite table off bytes) s = .next ({ s with fw :=
            if table then (if f.tabRun then { f with tabSlot0 := l, tabActive := false } else { f with tabSlot1 := l, tabActive := true })
            else (if f.fwRun then { f with fwSlot0 := l, fwActive := false } else { f with fwSlot1 := l, fwActive := true }) }.told 0 []))

/-- Management commands about queues, registers and the store: `Piece.QueueMapping`, `Piece.RegistersAndStore`. -/
def Obligations.QueuesAndRegisters : Prop :=
  Piece.QueueMapping ∧ Piece.RegistersAndStore

/-! ## Queue commands (R313, R336 to R339) -/

/-- R336, R337: a no-op is over at once, with ACCEPTED where ACK asks for it, and an opcode that names no command is refused with reason 5, as every
command is whose FAN or LMODE is out of range (log 52); SUBMIT is refused with the reason of its first failing check, and else makes the lowest free
lineage (log 65), and then its records one by one, each with the lineage's LID and its rank added to ARGS doubleword 1, the last of which ends it,
while none is written with the queue stopped, its event ring full or the lineage annulled, even as the queue is unmapped (log 84); ANNUL is refused for a lineage that is none, and annuls one
that lives. -/
def Piece.QueueCommands : Prop :=
  ∀ (s : State) (die q k n : Nat) (h : HostQueue) (l : List Byte) (j : BitVec 20) (c : QueueCmd) (x : Lineage), s.memWf = true → (∀ g, s.unread g none) →
    let b (off len : Nat) : Nat := leNat ((l.drop off).take len)
    let opc := b 0 1
    let fan := b 1 1
    let cookie := w64 (b 0x10 8)
    let expiry := w64 (b 8 8)
    let core (i : Nat) : Nat := b 4 4 % 8192 + i
    let record : Rec := BitVec.ofNat 512 (b 0x40 64)
    let acks (y : State) (lid : BitVec 20) : List (BitVec 512) := if b 3 1 % 2 = 1 then [eventWord 1 0 lid cookie y.instant 0 0] else []
    let refused (i : Instr) (reason : Nat) (lid : BitVec 20) : Prop :=
      Completes i s fun t => CommandOver s t die q h [eventWord 2 reason lid cookie s.instant 0 0]
    let seen := s.sawSlot h
    let looked := seen.sawCores h.qctx l
    (s.atCommand die q h l →
      (64 ≤ fan ∨ 2 ≤ b 2 1 → (opc = 0 → refused (.noOp die q) 5 0)
        ∧ (opc = 1 → refused (.submit die q) 5 (if b 2 1 = 1 then recLid record else 0))
        ∧ (opc = 2 → refused (.annul die q) 5 (BitVec.ofNat 20 (b 0x18 4))) ∧ (opc = 3 → refused (.queueReset die q) 5 0))
      ∧ (opc = 0 → fan < 64 → b 2 1 < 2 → Completes (.noOp die q) s fun t => CommandOver s t die q h (acks s 0))
      ∧ (4 ≤ opc → refused (.noOp die q) 5 0)
      ∧ (opc = 1 → b 2 1 = 0 →
        (fan < 64 → (∃ i ≤ fan, 8192 ≤ core i ∨ s.targetCore h.qctx (BitVec.ofNat 13 (core i)) = none) → refused (.submit die q) 2 0)
        ∧ (fan < 64 → (∀ i ≤ fan, core i < 8192 ∧ s.targetCore h.qctx (BitVec.ofNat 13 (core i)) ≠ none) →
          (expiry ≤ s.instant → refused (.submit die q) 3 0)
          ∧ (s.instant < expiry → s.freeLid h.qctx = none → refused (.submit die q) 1 0)
          ∧ (s.instant < expiry → s.freeLid h.qctx = some j → exec (.submit die q) s = .next ((looked.setLineage h.qctx j
              ⟨expiry, none, BitVec.ofNat 2 (b 3 1 / 2), 0, .live, none, [], some (die, q), none⟩).setQueue die q { h with cur := some ⟨j, 0, false⟩ }))))
      ∧ (opc = 1 → b 2 1 = 1 → fan < 64 → (∀ i ≤ fan, core i < 8192 ∧ s.targetCore h.qctx (BitVec.ofNat 13 (core i)) ≠ none) →
        (s.lineage? h.qctx (recLid record) ≠ none → s.annulled h.qctx (recLid record) = false →
            exec (.submit die q) s = .next (looked.setQueue die q { h with cur := some ⟨recLid record, 0, false⟩ }))
        ∧ (s.annulled h.qctx (recLid record) = true → refused (.submit die q) 4 (recLid record)))
      ∧ (opc = 2 → fan < 64 → b 2 1 < 2 →
        let a : BitVec 20 := BitVec.ofNat 20 (b 0x18 4)
        let u := seen.annulLineage h.qctx a
        (a = 0 ∨ s.lineage? h.qctx a = none → refused (.annul die q) 4 a)
        ∧ (a ≠ 0 → s.lineage? h.qctx a ≠ none → s.annulled h.qctx a = true → Completes (.annul die q) s fun t => CommandOver s t die q h (acks s a))
        ∧ (a ≠ 0 → s.lineage? h.qctx a ≠ none → s.annulled h.qctx a = false → u.memWf = true → (∀ g, u.unread g none) → u.queueAt die q = some h →
          Completes (.annul die q) s fun t => CommandOver u t die q h (acks u a) ∧ t.lineages = u.lineages)))
    ∧ (s.queueAt die q = some h → h.cur = some c → h.stopped = true ∨ (h.parked = true ∧ (h.closing = false ∨ (c.gone = false ∧ s.annulled h.qctx c.lid = false))) →
      exec (.submitRecord die q) s = .next s)
    ∧ (s.queueAt die q = some h → h.cur = some c → h.parked = false ∨ h.closing = true → h.stopped = false → ¬s.ringFull h →
      l = mbytes s.mem (h.ring + 128 * (s.field (h.pa + 0x18) 4 % h.size)) 128 → c.gone = true ∨ s.annulled h.qctx c.lid = true →
      Completes (.submitRecord die q) s fun t => CommandOver s t die q h [eventWord 2 3 c.lid cookie s.instant (w64 c.rank) 0])
    ∧ (s.queueAt die q = some h → h.cur = some c → h.parked = false → h.stopped = false → ¬s.ringFull h → h.closing = false → c.gone = false →
      s.annulled h.qctx c.lid = false →
      l = mbytes s.mem (h.ring + 128 * (s.field (h.pa + 0x18) 4 % h.size)) 128 → s.targetCore h.qctx (BitVec.ofNat 13 (core c.rank)) = some k →
      (s.coreAt k).ctx = some h.qctx → (s.coreAt k).recRoom 1 = true → LowestFree (s.coreAt k) n → s.lineage? h.qctx c.lid = some x →
      Completes (.submitRecord die q) s fun t =>
        (∃ r, tget (t.coreAt k).inbox n = some ⟨.record ⟨r, h.qctx, s.nextTask, none, s.instant, 0, 1⟩, h.qctx, s.instant, (s.coreAt k).nextOrder, false, none, false⟩
          ∧ recLid r = c.lid ∧ recArg r 1 = recArg record 1 + w64 c.rank ∧ recArg r 0 = recArg record 0 ∧ recArg r 2 = recArg record 2
          ∧ recArg r 3 = recArg record 3 ∧ recKHandle r = recKHandle record ∧ recEntry r = recEntry record ∧ recBudget r = recBudget record
          ∧ recFlags r = recFlags record ∧ recTstamp r = recTstamp record ∧ recDict r = recDict record
          ∧ t.dq = s.dq ++ [⟨s.nextTask, h.qctx, tsDomain (recTstamp record), tsSeq (recTstamp record)⟩])
        ∧ t.lineage? h.qctx c.lid = some { x with live := x.live + 1 }
        ∧ (c.rank ≠ fan → t.queueAt die q = some { h with cur := some ⟨c.lid, c.rank + 1, false⟩ } ∧ SameMem s t)
        ∧ (c.rank = fan → CommandOver s t die q h (acks s c.lid)))

/-- R313, R337, R339: RESET is refused while RSTAT in memory shows one in progress, and one without a lineage to annul is complete at once, with
ACCEPTED where ACK asks for it, RSTAT and the RESET event; the oldest waiting event goes into the ring once it has room, and EVTAIL follows it. Stated
for a queue that is not closing. -/
def Piece.ResetsAndEvents : Prop :=
  ∀ (s : State) (die q : Nat) (h : HostQueue) (l : List Byte) (ev : BitVec 512) (r : List (BitVec 512)), s.memWf = true → (∀ g, s.unread g none) →
    let cookie := w64 (leNat ((l.drop 0x10).take 8))
    let tail := s.field (h.pa + 0x38) 4
    let acks : List (BitVec 512) := if leNat ((l.drop 3).take 1) % 2 = 1 then [eventWord 1 0 0 cookie s.instant 0 0] else []
    (s.atCommand die q h l → leNat (l.take 1) = 3 → leNat ((l.drop 1).take 1) < 64 → leNat ((l.drop 2).take 1) < 2 →
      (s.field (h.pa + 0x20) 8 / 2 ^ 62 % 4 = 1 → Completes (.queueReset die q) s fun t => CommandOver s t die q h [eventWord 2 6 0 cookie s.instant 0 0])
      ∧ (s.field (h.pa + 0x20) 8 / 2 ^ 62 % 4 ≠ 1 → (∀ e ∈ s.lineages, e.2.origin ≠ some (die, q) ∧ e.2.resetBy ≠ some (die, q)) →
        Completes (.queueReset die q) s fun t => BytesWritten s.mem t.mem (h.pa + 0x18) (leBytes 8 (s.progNext h) ++ leBytes 8 (2 ^ 63))
          ∧ t.queueAt die q = some { h with
              resetting := false, resetNoticed := none, resetLids := [], resetPeers := [], resetMask := 0, resetCookie := cookie
              events := h.events ++ acks ++ [eventWord 3 0 0 cookie s.instant (w64 (2 ^ 63)) 0] }))
    ∧ (s.queueAt die q = some h → h.events = ev :: r →
      (s.ringFull h → exec (.eventWrite die q) s = .next s)
      ∧ (¬s.ringFull h → h.closing = false → Completes (.eventWrite die q) s fun t => t.queueAt die q = some { h with events := r }
          ∧ ∀ a, mget t.mem a =
            let slot := h.evring + 64 * (tail % h.evsize)
            if h.pa + 0x38 ≤ a ∧ a < h.pa + 0x3C then (leBytes 4 (tail + 1)).getD (a - (h.pa + 0x38)) 0
            else if slot ≤ a ∧ a < slot + 64 then (leBytes 64 ev.toNat).getD (a - slot) 0
            else mget s.mem a))

/-- R338, R339: while a queue's event ring is full, or the queue is parked, it executes no command and writes no record, and no event is dropped; the
last of a context's cores to be switched out parks its queue, whose PROG then shows PARKED and stands still, and the first to be switched in unparks
it, with its interval at 1 µs. Stated for the one mapped queue of a context. -/
def Piece.QueueParking : Prop :=
  ∀ (s s' : State) (die q k n c : Nat) (h : HostQueue) (x : Context), s.memWf = true → (∀ g, s.unread g none) →
    let m := BitVec.ofNat 13 n
    let y := s.coreAt c
    let free : Prop := y.switches = [] ∧ ∀ t : Fin 4, (y.slots.get t).task = none ∧ (y.slots.get t).wait = none
    let commands : List Instr := [.noOp die q, .submit die q, .annul die q, .queueReset die q]
    (s.queueAt die q = some h → s.ringFull h → (∀ i ∈ .submitRecord die q :: commands, exec i s = .next s) ∧ exec (.eventWrite die q) s = .next s)
    ∧ (s.queueAt die q = some h → h.parked = true → (∀ i ∈ commands, exec i s = .next s)
      ∧ (h.closing = false → ∀ i ∈ [Instr.submitRecord die q, .queueScan die q], exec i s = .next s))
    ∧ (s.fw.boot = .ready → n < 8192 → s.physOf m = some c → s.logOf? c = some n → free → s.soleQueue k die q h →
      (y.ctx = none → s.ctx? k = some x → tget s.cores (savedNum k m) = none → s.residentSomewhere k = false → h.parked = true →
        Completes (.switch n (some k)) s fun t => t.queueAt die q = some { h with parked := false, interval := 1 }
          ∧ BytesWritten s.mem t.mem (h.pa + 0x18) (leBytes 8 (s.field (h.pa + 0x18) 8 % 2 ^ 63)))
      ∧ (y.ctx = some k → Rising s.cores → (∀ e ∈ s.cores, e.1 < 8192 → e.2.ctx = some k → e.1 = c) → h.parked = false → y.cmu = [] →
        (s.clusterAt (clusterOf c)).harp.queue = [] → (s.clusterAt (clusterOf c)).harp.lease = none →
        s.vwrite k (s.saveArea k m) ((List.range 0x28000).map fun i => s.imageAt c i) = .ok s' → s' = { s with mem := s'.mem, places := s'.places } →
        Completes (.switch n none) s fun t => t.queueAt die q = some { h with parked := true }
          ∧ BytesWritten s'.mem t.mem (h.pa + 0x18) (leBytes 8 (2 ^ 63 + s'.field (h.pa + 0x18) 8 % 2 ^ 63))))

/-- The commands, the resets, the events and the parking of a host queue: `Piece.QueueCommands`, `Piece.ResetsAndEvents`, `Piece.QueueParking`. -/
def Obligations.HostQueues : Prop :=
  Piece.QueueCommands ∧ Piece.ResetsAndEvents ∧ Piece.QueueParking

/-! ## The control page and the host's writes (R5, R279, R287, R289, R338) -/

/-- R279, R289: a kernel load takes the handle while none is busy, and ends with the kernel as its descriptor gives it, or with the lowest code
of what is wrong (log 122), which leaves an earlier load standing; what it reads is recalled (log 105); an invalidation is complete once nothing that
passed translation is under way, and the cached translations it makes stale are then gone, those reached through a table in a lost frame among them; a share of an owned frame is set, and of another sets FSERR; a supervisor's writes of the page's registers
are these, and a user's do nothing. -/
def Piece.ControlPage : Prop :=
  ∀ (s : State) (k p : Nat) (v : BitVec 64) (fr : BitVec 32) (x : Context) (h : BitVec 16) (l d : List Byte) (r : List Nat) (e : Nat × Word) (level : BitVec 2),
    s.ctx? k = some x → k < 16 →
    let f (off n : Nat) : Nat := leNat ((d.drop off).take n)
    let fits (off whole : Nat) : Prop := 64 ≤ f off 4 % 65536 ∧ f off 4 % 65536 % 64 = 0 ∧ f off 4 / 65536 % 1024 * 64 + f off 4 % 65536 ≤ whole
    let ends (code : BitVec 8) (ks : Tab Kernel) : Prop := exec (.kernelDone k) s = .next ((s.sawKernel k h).setCtx k { x with
      kbusy := none, kcode := code, kernels := ks })
    let size := v.toNat % 4
    let page := v.toNat / 2 ^ 12 % 2 ^ 44
    let frame := v.toNat % 2 ^ 18
    let owned (fr : BitVec 32) : Prop := fr.getLsbD 24 = true ∧ fr.toNat / 2 ^ 20 % 16 = k
    let share : BitVec 16 := (v >>> 20).setWidth 16 &&& ~~~BitVec.twoPow 16 k
    let new : BitVec 32 := BitVec.ofNat 32 (2 ^ 24 + k * 2 ^ 20 + v.toNat / 2 ^ 36 % 2 * 2 ^ 16 + share.toNat)
    let at_ (off : Nat) : Instr := .registerWrite (0xF000000000000 + 4096 * k + off) v k level
    (x.kbusy = none → exec (.kload k v) s = .next (s.setCtx k { x with kbusy := some (v.setWidth 16) }))
    ∧ (x.kbusy ≠ none → exec (.kload k v) s = .next s)
    ∧ (x.kbusy = some h →
      ((x.desc.get 2).toNat % 2 ^ 32 ≤ h.toNat → ends 4 x.kernels)
      ∧ (h.toNat < (x.desc.get 2).toNat % 2 ^ 32 →
        (s.vread k (x.desc.get 1 + 8 * h.setWidth 64) 8 = .error e → ends 5 x.kernels)
        ∧ (s.vread k (x.desc.get 1 + 8 * h.setWidth 64) 8 = .ok l → s.vread k (w64 (leNat l)) 64 = .error e → ends 5 x.kernels)
        ∧ (s.vread k (x.desc.get 1 + 8 * h.setWidth 64) 8 = .ok l → s.vread k (w64 (leNat l)) 64 = .ok d →
          (f 0 8 % 8 ≠ 0 → ends 1 x.kernels)
          ∧ (f 0 8 % 8 = 0 → ¬(fits 0x08 0xC000 ∧ fits 0x0C 0x8000 ∧ fits 0x10 0x4000) → ends 2 x.kernels)
          ∧ (f 0 8 % 8 = 0 → fits 0x08 0xC000 → fits 0x0C 0x8000 → fits 0x10 0x4000 → 8 < f 0x14 4 / 4 % 16 → ends 3 x.kernels)
          ∧ (f 0 8 % 8 = 0 → fits 0x08 0xC000 → fits 0x0C 0x8000 → fits 0x10 0x4000 → f 0x14 4 / 4 % 16 ≤ 8 → ends 0 (tset x.kernels h.toNat
              ⟨w64 (f 0 8), BitVec.ofNat 32 (f 0x08 4), BitVec.ofNat 32 (f 0x0C 4), BitVec.ofNat 32 (f 0x10 4), BitVec.ofNat 32 (f 0x14 4),
                BitVec.ofNat 32 (f 0x18 4), BitVec.ofNat 48 (f 0x20 6), BitVec.ofNat 32 (f 0x28 4), BitVec.ofNat 16 (f 0x2C 2), 0⟩)))))
    ∧ exec (.invalidate k v) s = .next (s.setCtx k { x with ipend := x.ipend ++ [4 * page + size] })
    ∧ (x.ipend = p :: r → s.op = [] → s.lq = [] → (∀ c ∈ s.clusters, c.2.harp.queue = []) → s.colls = [] →
      (∀ c ∈ s.cores, ∀ t : Fin 4, (c.2.slots.get t).cb = [] ∧ (c.2.slots.get t).objects = []) → Completes (.invalidationDone k) s fun t =>
        t = { s.setCtx k { x with ipend := r } with tlb := t.tlb } ∧ ∀ y, y ∈ t.tlb ↔ y ∈ s.tlb
          ∧ ¬(if p < 2 ^ 60 then y.ctx = k ∧ (p % 4 = 3 ∨ y.vpn * 2 ^ (9 * y.level) / 2 ^ (9 * max (p % 4) y.level) = p / 4 / 2 ^ (9 * max (p % 4) y.level))
            else if p < 2 ^ 61 then y.ctx ≠ k ∧ y.reachesFrame (p - 2 ^ 60) = true
            else y.reachesFrame (p - 2 ^ 61) = true ∧ s.frameReach y.ctx ((p - 2 ^ 61) * 0x200000) false = false))
    ∧ (tget s.frames frame = none → exec (.shareWrite k v) s = .next (s.setCtx k { x with fserr := true }))
    ∧ (tget s.frames frame = some fr →
      (¬owned fr → exec (.shareWrite k v) s = .next (s.setCtx k { x with fserr := true }))
      ∧ (owned fr → (∀ i < 16, fr.getLsbD i = true → share.getLsbD i = true) → (v.getLsbD 36 = false ∨ fr.getLsbD 16 = true ∨ fr.setWidth 16 = 0#16) →
          exec (.shareWrite k v) s = .next { s with frames := tset s.frames frame new })
      ∧ (owned fr → (∃ i < 16, fr.getLsbD i = true ∧ share.getLsbD i = false)
          ∨ (v.getLsbD 36 = true ∧ fr.getLsbD 16 = false ∧ fr.setWidth 16 ≠ 0#16) →
          exec (.shareWrite k v) s = .next ({ s with frames := tset s.frames frame new }.setCtx k { x with ipend := x.ipend ++ [2 ^ 60 + frame] })))
    ∧ (level ≠ 0 → exec (at_ 0x000) s = exec (.kload k v) s ∧ exec (at_ 0x010) s = exec (.invalidate k v) s ∧ exec (at_ 0x020) s = exec (.shareWrite k v) s
      ∧ (v.getLsbD 0 = true → exec (at_ 0x028) s = .next (s.setCtx k { x with fserr := false })))
    ∧ (level = 0 → ∀ off < 4096, exec (at_ off) s = .next s)

/-- R192, R287, R331, R338: a frame changes hands with its sharing cleared, and the old owner's access is revoked; a write of the host lands in device
memory, and nowhere else: its cells are recalled to their home slices, and each dead peer entry that it reaches counts as rewritten (log 102). -/
def Piece.HostAccess : Prop :=
  ∀ (s : State) (f k pa : Nat) (bytes : List Byte) (fr : BitVec 32) (x : Context), f < 262144 →
    let was := fr.toNat / 2 ^ 20 % 16
    let owned : State := { s with frames := tset s.frames f (BitVec.ofNat 32 (2 ^ 24 + k * 2 ^ 20)) }
    (tget s.frames f = none → k < 16 → exec (.frameOwner f (some k)) s = .next owned)
    ∧ (tget s.frames f = some fr → fr.getLsbD 24 = true → s.ctx? was = some x →
      (k < 16 → k ≠ was → exec (.frameOwner f (some k)) s = .next (owned.setCtx was { x with ipend := x.ipend ++ [2 ^ 61 + f] }))
      ∧ exec (.frameOwner f (some was)) s = .next s
      ∧ exec (.frameOwner f none) s = .next ({ s with frames := terase s.frames f }.setCtx was { x with ipend := x.ipend ++ [2 ^ 61 + f] }))
    ∧ (pa + bytes.length ≤ 0x8000000000 → s.memWf = true → (∀ g, s.unread g none) → Completes (.hostWrite pa bytes) s fun t =>
        t = { s with mem := t.mem, places := s.recalled (fun g => decide (64 * g < pa + bytes.length) && decide (pa < 64 * (g + 1))), contexts := t.contexts }
        ∧ BytesWritten s.mem t.mem pa bytes ∧ ∀ j y, s.ctx? j = some y → ∃ ps, t.ctx? j = some { y with peers := ps } ∧ ∀ i : Fin 32,
          let hit : Prop := ∃ l, s.translateRange j 1 (y.desc.get 7 + w64 (16 * i.val)) 16 needR = .ok l
            ∧ ∃ q ∈ l, q.1 = none ∧ q.2.1 < pa + bytes.length ∧ pa < q.2.1 + q.2.2
          ((y.peers.get i).dead = true → hit → ps.get i = { y.peers.get i with rewritten := true })
          ∧ ((y.peers.get i).dead = false ∨ ¬hit → ps.get i = y.peers.get i))
    ∧ (0x8000000000 < pa + bytes.length → exec (.hostWrite pa bytes) s = .next s)

/-- The control page, frames and host writes: `Piece.ControlPage`, `Piece.HostAccess`. -/
def Obligations.PageAndHost : Prop :=
  Piece.ControlPage ∧ Piece.HostAccess

/-! ## Dispositions (R303, R304) -/

/-- R192, R303: what each disposition does to the item that its handle names: RESUME executes the unit again, CONTINUE goes on after it where its cause
allows, KILL ends a parked item, PARK asks a running thread to park, MAPPED resumes what waits for the page, RELOAD copies the action table again, whose cells it recalls (log 105), and
NONE does nothing. A handle that names nothing changes nothing. How far a KILL reaches is
`Piece.Containment`. -/
def Piece.DispositionSteps : Prop :=
  ∀ (s : State) (k c : Nat) (u : Fin 4) (ch : Fin 8) (item page size : Word) (task : Task) (p : Park) (x : Copy) (r : List Copy) (y : Context) (l : List Byte),
    let sl := s.slotAt c u
    let th (p : Park) (sl : Slot) (task : Task) : Thread := if p.cause = 19 then
      { sl.thread with remain := if recBudget task.record = 0 then 0xFFFFFFFF else recBudget task.record } else sl.thread
    let skips : Prop := (p.cause = 4 ∨ p.cause = 5 ∨ p.cause = 21 ∨ p.cause = 22 ∨ 32 ≤ p.cause.toNat) ∧ p.action ≠ 4
    let again : Slot := { sl with park := none, thread := th p sl task, dictLag := [] }
    let n := size.toNat % 4
    let waits (sl : Slot) (task : Task) (p : Park) : Prop := sl.task = some task ∧ task.ctx = k ∧ sl.park = some p ∧ (p.kind = 1 ∨ p.kind = 2)
      ∧ ((p.action = 1 ∧ p.evt = 1) ∨ p.action = 2 ∨ p.action = 3) ∧ (n = 3 ∨ p.addr.toNat / 2 ^ (12 + 9 * n) = page.toNat / 2 ^ (12 + 9 * n))
    exec (.dispNone k) s = .next s
    ∧ (s.item? k item = none → ∀ i ∈ [Instr.dispResume k item, .dispContinue k item, .dispKill k item, .dispPark k item], exec i s = .next s)
    ∧ (s.item? k item = some (.thread c u) → sl.task = some task → sl.token = none → s.slotHarp c u = none →
      (sl.park = some p → exec (.dispResume k item) s = .next (s.setSlot c u again) ∧ exec (.dispPark k item) s = .next s
        ∧ (¬skips → exec (.dispContinue k item) s = .next (s.setSlot c u again))
        ∧ (skips → sl.group = none → exec (.dispContinue k item) s = .next (s.setSlot c u { sl with
            park := none, thread := { sl.thread with pc := p.pc + 8 }, task := some { task with firstDone := true }, branchFrom := none, dictLag := [] }))
        ∧ (recCtask task.record = 0 → sl.group = none → sl.wait = none → Completes (.dispKill k item) s fun t =>
            (t.slotAt c u).task = none ∧ (t.slotAt c u).park = none ∧ SameMem s t ∧ SameBufs s t))
      ∧ (sl.park = none → exec (.dispPark k item) s = .next (s.setSlot c u { sl with parkAsked := true }) ∧ exec (.dispKill k item) s = .next s))
    ∧ (s.item? k item = some (.copy c ch) → ((s.coreAt c).chans.get ch).queue = x :: r → (∀ z q, r = z :: q → z.started = false) →
      let chan := (s.coreAt c).chans.get ch
      let on : State := s.setCore c { s.coreAt c with chans := (s.coreAt c).chans.set ch.val { chan with queue := { x with park := none } :: r } ch.isLt }
      exec (.dispResume k item) s = .next on ∧ exec (.dispContinue k item) s = .next on
      ∧ (x.park ≠ none → Completes (.dispKill k item) s fun t => (t.coreAt c).chans.get ch = nextCopy chan r ∧ LiveDown s t x.who ∧ SameMem s t ∧ SameBufs s t))
    ∧ ((∀ e ∈ s.cores, (∀ j : Fin 8, (e.2.chans.get j).queue = []) ∧ ∀ u : Fin 4, (e.2.slots.get u).token = none) → Completes (.dispMapped k page size) s fun t => t = { s with cores := t.cores }
        ∧ (∀ c u task p, waits (s.slotAt c u) task p → t.slotAt c u = { s.slotAt c u with park := none, thread := th p (s.slotAt c u) task, dictLag := [] })
        ∧ (∀ c u, (∀ task p, ¬waits (s.slotAt c u) task p) → t.slotAt c u = s.slotAt c u))
    ∧ (s.ctx? k = some y → s.vread k (y.desc.get 5) 1040 = .ok l → exec (.dispReload k) s = .next ((s.saw k (y.desc.get 5) 1040).setCtx k { y with actions := some l }))

/-- R219, R303, R305: how far the kill of a parked thread reaches, level by level: CTASK, CANC, CLIN and CCTX each stop it (0), have the task run again
from its record (1, three times), end the unit of the level (2), or pass the kill on (3); with no spawn parent and for LID 0 there is no unit to end.
The killed thread's task ends or runs again, whatever the levels say; the context's end is told to the host (log 123), and a kill that passes every
level asks every thread of the context to park and makes an escalation notice. Stated for a task that no message or handler made, in no group, and
not in a wait. -/
def Piece.Containment : Prop :=
  ∀ (s : State) (k c d : Nat) (u v : Fin 4) (item : Word) (task : Task) (p : Park) (x : Context) (l : List Byte) (y : Lineage),
    let sl := s.slotAt c u
    let lid := sl.thread.lid
    let parent := sl.parent.bind s.findThread
    let f0 := recCtask task.record
    let f1 := recCanc task.record
    let f2 := y.clin
    let f3 : BitVec 2 := BitVec.ofNat 2 (leNat (l.take 1))
    let again (f : BitVec 2) : Prop := f = 1 ∧ task.retries < 3
    let self (f : BitVec 2) : Prop := f = 2 ∨ (f = 1 ∧ 3 ≤ task.retries)
    let up1 : Prop := f0 = 3
    let up2 : Prop := up1 ∧ f1 = 3
    let up3 : Prop := up2 ∧ f2 = 3
    let args : Nat := p.cause.toNat * 2 ^ 58 + p.slotF.toNat * 2 ^ 56 + p.kind.toNat * 2 ^ 54 + lid.toNat * 2 ^ 32 + p.info.toNat
      + p.pc.toNat * 2 ^ 64 + p.addr.toNat * 2 ^ 128 + item.toNat * 2 ^ 192
    let kills (q : State → Prop) : Prop := Completes (.dispKill k item) s fun t =>
      (t.slotAt c u).task = none ∧ (∀ e ∈ t.clusters, ∀ w, e.2.harp.lease = some w → w.tid ≠ task.id) ∧ q t
    let others (t : State) (but : List (Nat × Fin 4)) : Prop := ∀ e, e ∉ but → (t.slotAt e.1 e.2).task = (s.slotAt e.1 e.2).task
    s.item? k item = some (.thread c u) → sl.task = some task → task.kind = .plain → sl.park = some p → sl.group = none → sl.wait = none →
    s.lineage? k lid = some y → s.ctx? k = some x → x.actions = some l →
    (again f0 ∨ (up1 ∧ again f1) ∨ (up2 ∧ again f2) ∨ (up3 ∧ again f3) → kills fun t => others t [(c, u)] ∧ t.dq = s.dq
        ∧ ∃ r ∈ (t.coreAt c).rerun, r.q.id = task.id ∧ r.q.ctx = k ∧ r.q.record = task.record ∧ r.q.retries = task.retries + 1)
    ∧ (f0 = 0 ∨ self f0 ∨ (up1 ∧ (f1 = 0 ∨ (self f1 ∧ parent = none))) ∨ (up2 ∧ (f2 = 0 ∨ (self f2 ∧ lid = 0))) ∨ (up3 ∧ f3 = 0) →
        kills fun t => others t [(c, u)] ∧ ∀ e ∈ t.dq, e.id ≠ task.id)
    ∧ (up1 → self f1 → parent = some (d, v) → (s.slotAt d v).group = none →
        kills fun t => others t [(c, u), (d, v)] ∧ (t.slotAt d v).task = none)
    ∧ (up2 → self f2 → lid ≠ 0 → kills fun t => (t.annulled k lid = true ∨ t.lineage? k lid = none) ∧ ∀ e w, (s.slotAt e w).task.map (·.ctx) = some k →
        (s.slotAt e w).thread.lid = lid → (s.slotAt e w).wait = none → (s.slotAt e w).group = none → (t.slotAt e w).task = none)
    ∧ (up3 → self f3 → kills fun t => t.ctx? k = none ∧ (∀ e ∈ t.cores, e.2.ctx ≠ some k) ∧ t.replies = s.replies ++ [⟨5, leBytes 32 args⟩])
    ∧ (up3 → f3 = 3 → kills fun t => others t [(c, u)] ∧ Noticed s t k (eventWord 5 0 lid 0 s.instant 0 args)
        ∧ ∀ e w, (s.coreAt e).ctx = some k → (e, w) ≠ (c, u) → (s.slotAt e w).task ≠ none → (s.slotAt e w).park = none → (t.slotAt e w).parkAsked = true)

/-- R296, R297, R300, R306: a fault-record task that faults before its first unit completes is parked, and a double-fault record (cause 20, NEST 1)
is queued under entry 20, whose ADDR is the item of the first fault; a record that cannot start, its kernel not loaded, is held with the same result;
in a double-fault handler either goes to the host as a notice instead, and no record is queued. Stated for the traps of `trap`, `udf` and `udfa`. -/
def Piece.DoubleFaults : Prop :=
  ∀ (s : State) (c k : Nat) (u : Fin 4) (a : Fin 16) (n : BitVec 5) (r : PrivRec),
    let first := (recArg r.record 0).toNat / 2 ^ 58
    let word := w64 (20 * 2 ^ 58 + 3 * 2 ^ 56 + 2 ^ 53 + first * 256 + 16)
    let addr := recArg r.record 3
    let item := w64 (2 ^ 63 + (s.logOf r.core).toNat)
    let held : State := { s.sawHandlers c with priv := s.priv.map fun q => if q = r then { q with held := true } else q }
    (s.Plain → RaisesNested (.trap a n) s (32 + n.toNat) 0 ∧ RaisesNested .udf s 4 0 ∧ RaisesNested .udfa s 4 1)
    ∧ (s.openFor c u k → s.unannulled c → s.privFor c = some r → (∀ e w, r.src ≠ .waitCap e w) →
      (∀ x, s.ctx? k = some x → tget x.kernels (recKHandle r.record).toNat = none) →
      (first ≠ 20 → exec (.taskStart c u) s = .next (held.pushPriv (s.faultRecord k 20 r.core word 0 addr item r.src)))
      ∧ (first = 20 → Completes (.taskStart c u) s fun t => t = { held with contexts := t.contexts, dies := t.dies } ∧ Noticed s t k
          (eventWord 6 0 0 0 s.instant 0 (word.toNat + addr.toNat * 2 ^ 128 + item.toNat * 2 ^ 192))))

/-- Dispositions, how far a kill reaches, and double faults: `Piece.DispositionSteps`, `Piece.Containment`, `Piece.DoubleFaults`. -/
def Obligations.Dispositions : Prop :=
  Piece.DispositionSteps ∧ Piece.Containment ∧ Piece.DoubleFaults

/-! ## The debugger (R364 to R370) -/

/-- R364, R365, R367, R368: DBGCLAIM gives a live context its debug page, DBGREL takes it back, lets every halted thread of the context go, one that a
stepped `migrate` or `yield` has put in a package among them, and ends every step; on a slot with a task of a claimed context's core DBGHALT halts the thread, DBGRUN lets it go past the point that halted it, and DBGSTEP
lets it go for one unit, but for an attached follower; each is answered, and refused with its error. -/
def Piece.DebugCommands : Prop :=
  ∀ (s : State) (k n c : Nat) (u : Fin 4) (x : Context) (h : Halt), s.fw.boot = .ready →
    let sl := s.slotAt c u
    let lets (sl : Slot) (h : Halt) : Slot := { sl with
      halt := none, stepping := false, dictLag := [], loopRaw := none, skip := if h.why = 2 ∨ h.why = 3 then some h else none }
    let still (sl : Slot) : List Fwd := sl.fwd.map fun f => { f with stepped := false }
    let unhalted (pk : Package) : Package := if pk.task.ctx = k then { pk with halt := none } else pk
    let reached : Prop := n < 8192 ∧ s.physOf (BitVec.ofNat 13 n) = some c ∧ (s.coreAt c).ctx = some k ∧ s.ctx? k = some x ∧ x.debug ≠ none
    (s.ctx? k = none → exec (.dbgClaim k) s = .next (s.told 3 []) ∧ exec (.dbgRel k) s = .next (s.told 10 []))
    ∧ (s.ctx? k = some x →
      (x.debug ≠ none → exec (.dbgClaim k) s = .next (s.told 9 []))
      ∧ (x.debug = none → exec (.dbgRel k) s = .next (s.told 10 [])
        ∧ exec (.dbgClaim k) s = .next ((s.setCtx k { x with
            debug := some ⟨Vector.replicate 8 0, Vector.replicate 4 0, Vector.replicate 4 0x30⟩ }).told 0 []))
      ∧ (x.debug ≠ none → Completes (.dbgRel k) s fun t =>
          t = { s.setCtx k { x with debug := none } with
              cores := t.cores, transit := s.transit.map unhalted, replies := s.replies ++ [⟨0, []⟩] }
          ∧ (∀ c u h task, (s.slotAt c u).task = some task → task.ctx = k → (s.slotAt c u).halt = some h →
            t.slotAt c u = { lets (s.slotAt c u) h with fwd := still (s.slotAt c u) })
          ∧ (∀ c u task, (s.slotAt c u).task = some task → task.ctx = k → (s.slotAt c u).halt = none →
            t.slotAt c u = { s.slotAt c u with stepping := false, fwd := still (s.slotAt c u) })
          ∧ (∀ c n, tget (t.coreAt c).inbox n = (tget (s.coreAt c).inbox n).map fun e => match e.entry with
            | .package p i pk => { e with entry := .package p i (pk.map unhalted) }
            | _ => e)
          ∧ (∀ c u, (∀ task, (s.slotAt c u).task = some task → task.ctx ≠ k) → t.slotAt c u = s.slotAt c u)))
    ∧ (8192 ≤ n ∨ s.physOf (BitVec.ofNat 13 n) = none → ∀ i ∈ [Instr.dbgHalt n u, .dbgRun n u, .dbgStep n u], exec i s = .next (s.told 10 []))
    ∧ (reached → sl.task = none → ∀ i ∈ [Instr.dbgHalt n u, .dbgRun n u, .dbgStep n u], exec i s = .next (s.told 11 []))
    ∧ (reached → sl.task ≠ none →
      (sl.halt = none → exec (.dbgRun n u) s = .next (s.told 11 []) ∧ exec (.dbgStep n u) s = .next (s.told 11 [])
        ∧ exec (.dbgHalt n u) s = .next ((s.setSlot c u { sl with halt := some ⟨1, 0⟩, dictLag := [] }).told 0 []))
      ∧ (sl.halt = some h → exec (.dbgRun n u) s = .next ((s.setSlot c u (lets sl h)).told 0 [])
        ∧ exec (.dbgHalt n u) s = .next ((s.setSlot c u { sl with dictLag := [] }).told 0 [])
        ∧ ((∃ l v p, sl.group = some (.follower l v p true)) → exec (.dbgStep n u) s = .next (s.told 12 []))
        ∧ ((∀ l v p, sl.group ≠ some (.follower l v p true)) → exec (.dbgStep n u) s = .next ((s.setSlot c u { lets sl h with stepping := true }).told 0 []))))

/-- R364, R365, R369, R370: DBGRD and DBGWR reach the debug page of a claimed context and the windows of its resident threads, of which a halted one's
may be written: here pc (in a wait, the pc of the unit that follows it), the general registers, both deadlines and ws; an address that is neither is
refused. -/
def Piece.DebugWindows : Prop :=
  ∀ (s : State) (k n c pa : Nat) (u : Fin 4) (j : Fin 16) (b : Fin 8) (v : Word) (x : Context) (pg : DebugPage), s.fw.boot = .ready →
    let sl := s.slotAt c u
    let th := sl.thread
    let at_ (o : Nat) : Nat := 0xF800080000000 + 65536 * (4 * n + u.val) + o
    let page (o : Nat) : Nat := 0xF800002000000 + 4096 * k + o
    let reads (pa : Nat) (v : Word) : Prop := exec (.dbgRd pa) s = .next (s.told 0 (leBytes 8 v.toNat))
    let writes (o : Nat) (sl : Slot) : Prop := exec (.dbgWr (at_ o) v) s = .next ((s.setSlot c u sl).told 0 [])
    (pa % 8 ≠ 0 ∨ pa < 0xF800002000000 → exec (.dbgRd pa) s = .next (s.told 8 []) ∧ exec (.dbgWr pa v) s = .next (s.told 8 []))
    ∧ (k < 16 → s.ctx? k = none → exec (.dbgRd (page 0)) s = .next (s.told 10 []) ∧ exec (.dbgWr (page 0) v) s = .next (s.told 10 []))
    ∧ (k < 16 → s.ctx? k = some x → x.debug = some pg → reads (page (8 * b.val)) (pg.bp.get b)
      ∧ exec (.dbgWr (page (8 * b.val)) v) s = .next ((s.setCtx k { x with debug := some { pg with
          bp := pg.bp.set b.val (v &&& 0x00FFFFFFFFFFFFF9) b.isLt } }).told 0 []))
    ∧ (n < 8192 → s.physOf (BitVec.ofNat 13 n) = some c → (s.coreAt c).ctx = some k → s.ctx? k = some x → x.debug = some pg →
      reads (at_ 8) (sl.newPc.getD (sl.misTarget.getD th.pc)) ∧ reads (at_ (0x100 + 8 * j.val)) (th.g.get j) ∧ reads (at_ 0x188) th.dla ∧ reads (at_ 0x190) th.dlb ∧ reads (at_ 0x198) th.ws
      ∧ (sl.task = none ∨ sl.halt = none → exec (.dbgWr (at_ 8) v) s = .next (s.told 11 []))
      ∧ (sl.task ≠ none → sl.halt ≠ none →
        (sl.wait = none → sl.remote = none →
          writes 8 { sl with thread := { th with pc := v &&& 0xFFFFFFFFFFFFFFF8 }, branchFrom := none, misTarget := none })
        ∧ (sl.wait ≠ none → writes 8 { sl with newPc := some (v &&& 0xFFFFFFFFFFFFFFF8) })
        ∧ writes (0x100 + 8 * j.val) { sl with thread := { th with g := th.g.set j.val v j.isLt } }
        ∧ writes 0x188 { sl with thread := { th with dla := v } } ∧ writes 0x190 { sl with thread := { th with dlb := v } }
        ∧ writes 0x198 { sl with thread := { th with ws := v &&& 0xFFFFFFFF000000FF } }))

/-- The debug unit: `Piece.DebugCommands`, `Piece.DebugWindows`. -/
def Obligations.Debugging : Prop :=
  Piece.DebugCommands ∧ Piece.DebugWindows

/-! ## The machine as a whole -/

/-- R51, R55, R57, R191, R250, R350: an interval's end step comes before any other; else the step runs what its next turn names. In an issue cycle in
which nothing stands before a unit, the slot that R250 chooses among those whose units do not stall issues (log 79), and HP counts for each other
ready one that it comes before. A slot of no group fetches the unit at its
pc and runs the decoded instruction: a lone one, one beside a `nop`, or a C instruction with the A slot's result held; a unit whose class check fails
raises cause 4. A further attempt runs the waiting instruction, and a hardware step or command runs itself. What follows at once, and the passing of
time, come after; time never runs backwards, and not past an interval's end. -/
def Obligations.StepRunsDecoded : Prop :=
  ∀ (s : State) (c pa d : Nat) (u : Fin 4) (fetched : BitVec 4) (late : Bool) (rest : List Turn) (i a : Instr) (w : Wait) (runs : Fin 4 → Step),
    let s0 : State := { s with agenda := rest }
    let after (r : Step) : Step := match r with
      | .next t => .next t.tidy.passTime
      | o => o
    let stalls (t : Fin 4) (r : Step) : Bool := match r with
      | .next x => (x.slotAt c t).stalled
      | _ => false
    let issues (ready : List (Fin 4)) (r : Step) : Step := match r with
      | .next t => .next (s0.issuedIn c ready u t)
      | o => o
    (s.endDue = some d → step s = after (exec (.intervalEnd d) s))
    ∧ (s.endDue = none →
      (s.agenda = .hw i :: rest → step s = after (exec i s0))
      ∧ (s.agenda = .attempt c u late :: rest → (s0.slotAt c u).wait = some w → s0.slotAnnulled c u = false → (s0.slotAt c u).overrun = false →
          step s = after (exec w.instr { s0 with curCore := c, curSlot := u, late := late }))
      ∧ (s.agenda = .issue c fetched late :: rest → c < 8192 →
        let cands := fourSlots.filter fun t => fetched.getLsbD t.val && s0.ready? c t && !s0.slotAnnulled c t
        let ready := cands.filter fun t => !stalls t (runs t)
        let s1 : State := { s0 with curCore := c, curSlot := u, late := late }
        let s2 := ((s1.noteTlb s1.curCtx s1.th.pc).recall [pa / 64]).setSl { s1.sl with branchFrom := none, pendA := none, stalled := false }
        let w0 := s1.field pa 4
        let w1 := s1.field (pa + 4) 4
        let turns (r : Step) : Prop := s1.slotTurn exec = .unit r
          ∧ (cands = [u] → step s = after (if stalls u r then .next s0 else issues [u] r))
        ((∀ t ∈ cands, ({ s0 with curCore := c, curSlot := t, late := late } : State).slotTurn exec = .unit (runs t)) →
          (s0.Chooses c ready u → step s = after (issues ready (runs u))) ∧ (ready = [] → step s = after (.next s0)))
        ∧ (s1.sl.parkAsked = false → s1.sl.overrun = false → s1.sl.reload = none → s1.breakHit = none → s1.sl.misTarget = none → s1.sl.group = none →
          s1.translate s1.curCtx s1.th.priv s1.th.pc needX = .ok (none, pa) →
          (readUnit w0 w1 = .lone (some i) → turns (exec i (s2.noteLoad i)))
          ∧ (readUnit w0 w1 = .pair (some i) (some .nopA) → s2.pairFault (some i) (some .nopA) = none → turns (exec i (s2.noteLoad i)))
          ∧ (readUnit w0 w1 = .pair (some .nopC) (some i) → i ≠ .nopA → s2.pairFault (some .nopC) (some i) = none → turns (exec i (s2.noteLoad .nopC)))
          ∧ (readUnit w0 w1 = .pair (some i) (some a) → i ≠ .nopC → a ≠ .nopA → s2.pairFault (some i) (some a) = none →
              turns (exec i ((s2.noteLoad i).pairA a)))
          ∧ (readUnit w0 w1 = .classFault → turns (.next (s2.takeTrap 4 2 0 0 0 s1.th.pc))))))
    ∧ (s.fw.boot = .ready → (∀ d < 4, s.instant.toNat ≤ 5000 * ((s.dieAt d).interval + 1)) →
      s.instant ≤ s.passTime.instant ∧ ∀ d < 4, s.passTime.instant.toNat ≤ 5000 * ((s.dieAt d).interval + 1))

/-- R53, R58 to R64, R80, R81: words written out from the manual's encodings, its own worked ones among them, decode to the instructions they stand
for. -/
def Obligations.DecodedWords : Prop :=
  decodeC 0x02400003 0 = some (.bc 1 3) ∧ decodeC 0x11110004 0 = some (.addiC 1 1 4) ∧ decodeA 0x38220004 = some (.addiA 1 1 4)
  ∧ decodeC 0x15020003 0 = some (.trap 2 3) ∧ decodeC 0x16000007 0 = some (.brk 7)
  ∧ decodeC 0x1A424000 0 = some (.ldW 4 ⟨2, .a, false, 0⟩) ∧ decodeC 0x0BFFFFFF 0 = some (.lend 0xFFFFFF)
  ∧ readUnit 0x8F200000 0xDEADBEEF = .lone (some (.ldi 2 0xDEADBEEF))
  ∧ readUnit 0 0 = .pair (some .nopC) (some .nopA) ∧ readUnit 0x80000000 0 = .classFault

/-- R58 to R64, R71, R80, R82, R97: for every instruction of the C and the A space that its entry admits, with every operand at every value, its
encoded words read back as the instruction itself: a lone unit, or one slot of a unit beside a `nop`. -/
def Obligations.EncodingRoundTrip : Prop :=
  ∀ i : Instr, i.wf = true → match encodeParts i with
    | .c true w0 w1 => readUnit (2 ^ 31 + w0) w1 = .lone (some i)
    | .c false w0 _ => readUnit w0 0 = .pair (some i) (some .nopA)
    | .a w1 => readUnit 0 w1 = .pair (some .nopC) (some i)
    | .none => True

/-- Every step keeps device memory in its one canonical form: addresses strictly rising, and no entry that reads as an unlisted byte does (the form is
the model's, log 2). -/
def Obligations.MemoryStaysCanonical : Prop := ∀ s t : State, s.memWf = true → step s = .next t → t.memWf = true

/-- The memory of the reset state has that form, as every typed buffer of every core has. -/
def Obligations.ResetMemoryCanonical : Prop := State.reset.memWf = true ∧ ∀ c, (State.reset.coreAt c).memWf = true

/-- R41, R42, R68, R70, R121, R123, R155, R158, R289, R347, R357, R359, R383: what reset leaves, where the manual gives it. TAGEN 0
and a core that serves no delegations have no reset value there, and are log 1's; the default STEALDOM and INLDEPTH, which the manual gives a task at
its start, are a reset slot's by log 97. -/
def Obligations.ResetValues : Prop :=
  let s := State.reset
  s.instant = 0 ∧ s.fw.boot = .booting ∧ s.fw.hstat = 0 ∧ s.bootst = s.fw.fsec.setWidth 64
  ∧ (∀ c, (s.coreAt c).fmta = 0 ∧ (s.coreAt c).fmtb = 0 ∧ (s.coreAt c).fmtc = 2 ∧ (s.coreAt c).qknob = 0 ∧ (s.coreAt c).tagen = 0 ∧ (s.coreAt c).server = false)
  ∧ (∀ c u, (s.slotAt c u).task = none ∧ (s.slotAt c u).dict.activeBank.handle = 0 ∧ (s.slotAt c u).dict.bank0.entries = []
      ∧ (s.slotAt c u).dict.bank1.entries = [] ∧ (s.slotAt c u).thread.stealdom = 1 ∧ (s.slotAt c u).thread.inldepth = 4 ∧ (s.slotAt c u).thread.fflags = 0
      ∧ (s.slotAt c u).thread.rmode = 0)
  ∧ (∀ k, (s.courseAt k).level = 0) ∧ (∀ k ctx, s.cfsum k ctx = 0) ∧ (∀ k, s.ctx? k = none) ∧ ∀ acc, (s.energyAt acc).count = 0

/-- R55, R56, R121, R123: what any A-slot instruction but `udfa` and `dxa` may change, in a unit that runs by itself: one register or predicate of its
thread, the flags it raises in FFLAGS and in the summary word of its context, and the pc. -/
def Obligations.ASlotFrame : Prop :=
  ∀ (s : State) (i : Instr) (w : Nat), s.Plain → encodeParts i = .a w → i ≠ .udfa → (∀ x h0 h1 h2, i ≠ .dxa x h0 h1 h2) →
    ∃ (x : AWrite) (flags : BitVec 5),
      let th : Thread := match x with
        | .g d v => { s.th with g := s.th.g.set d.val v d.isLt }
        | .p d v => { s.th with p := s.th.p.set d.val v d.isLt }
        | _ => s.th
      let sl : Slot := { s.sl.ended with
        v := match x with
          | .v d v => s.sl.v.set d.val v d.isLt
          | _ => s.sl.v
        m := match x with
          | .m d v => s.sl.m.set d.val v d.isLt
          | _ => s.sl.m
        thread := { th with pc := s.th.pc + 8, fflags := s.th.fflags ||| flags } }
      exec i s = .next ((s.setSl sl).raise (clusterOf s.curCore) s.curCtx flags)

/-- R54, R88: the four fixed opcode values: 0x00 is `nop` in either slot, whatever the fields below it hold, 0x7F is `dx` and `dxa`; the all-zero unit
is a pair of `nop`s, a C-slot `nop` with L = 1 is a class fault, and `nop` reads nothing and writes nothing. -/
def Obligations.FixedOpcodes : Prop :=
  (∀ w0 w1 : Nat, (w0 / 2 ^ 24 % 128 = 0 → decodeC w0 w1 = some .nopC) ∧ (w1 / 2 ^ 25 % 128 = 0 → decodeA w1 = some .nopA)
    ∧ (w0 / 2 ^ 24 % 128 = 0x7F → ∃ x h0 h1 h2, decodeC w0 w1 = some (.dx x h0 h1 h2))
    ∧ (w1 / 2 ^ 25 % 128 = 0x7F → ∃ x h0 h1 h2, decodeA w1 = some (.dxa x h0 h1 h2))
    ∧ (w0 / 2 ^ 24 % 128 = 0 ∨ w0 / 2 ^ 24 % 128 = 0x7F → w0 / 2 ^ 31 % 2 = 1 → readUnit w0 w1 = .classFault))
  ∧ readUnit 0 0 = .pair (some .nopC) (some .nopA)
  ∧ ∀ s : State, s.Plain → GivesThread .nopC s s.th ∧ GivesThread .nopA s s.th

/-- R92: `sel` is C opcode 0x0D in the CR layout, with its predicate number in Q; it chooses by the pre-unit predicate, and takes no notice of TY, FN
and DS, so that no value of them faults. -/
def Obligations.SelectByPredicate : Prop :=
  ∀ (s : State) (d a b : Fin 16) (q : Fin 4) (ty fn ds w1 : Nat), s.Plain → ty < 16 → fn < 16 → ds < 4 →
    decodeC (0x0D * 2 ^ 24 + d.val * 2 ^ 20 + a.val * 2 ^ 16 + b.val * 2 ^ 12 + fn * 2 ^ 8 + ty * 2 ^ 4 + q.val * 4 + ds) w1 = some (.sel d a b q)
    ∧ GivesG (.sel d a b q) s d (if s.th.p.get q = true then s.g a else s.g b)

end
end

