-- ==== Sys2Proof/Laws/State.lean ====
section
/-! SUPPORT. Lemmas about State: for each field and each update of one place, what the field is after it, and what reading a table, a core, a
slot or the current thread gives after a write of it. -/

namespace Sys2Proof.Machine

/-! ## Every other field of State after an update of one part -/

@[simp] theorem State.setCore_instant (s : State) (c : Nat) (x : Core) : (s.setCore c x).instant = s.instant := rfl
@[simp] theorem State.setCore_clusters (s : State) (c : Nat) (x : Core) : (s.setCore c x).clusters = s.clusters := rfl
@[simp] theorem State.setCore_courses (s : State) (c : Nat) (x : Core) : (s.setCore c x).courses = s.courses := rfl
@[simp] theorem State.setCore_dies (s : State) (c : Nat) (x : Core) : (s.setCore c x).dies = s.dies := rfl
@[simp] theorem State.setCore_contexts (s : State) (c : Nat) (x : Core) : (s.setCore c x).contexts = s.contexts := rfl
@[simp] theorem State.setCore_lineages (s : State) (c : Nat) (x : Core) : (s.setCore c x).lineages = s.lineages := rfl
@[simp] theorem State.setCore_frames (s : State) (c : Nat) (x : Core) : (s.setCore c x).frames = s.frames := rfl
@[simp] theorem State.setCore_mem (s : State) (c : Nat) (x : Core) : (s.setCore c x).mem = s.mem := rfl
@[simp] theorem State.setCore_places (s : State) (c : Nat) (x : Core) : (s.setCore c x).places = s.places := rfl
@[simp] theorem State.setCore_tlb (s : State) (c : Nat) (x : Core) : (s.setCore c x).tlb = s.tlb := rfl
@[simp] theorem State.setCore_op (s : State) (c : Nat) (x : Core) : (s.setCore c x).op = s.op := rfl
@[simp] theorem State.setCore_lq (s : State) (c : Nat) (x : Core) : (s.setCore c x).lq = s.lq := rfl
@[simp] theorem State.setCore_ft (s : State) (c : Nat) (x : Core) : (s.setCore c x).ft = s.ft := rfl
@[simp] theorem State.setCore_dq (s : State) (c : Nat) (x : Core) : (s.setCore c x).dq = s.dq := rfl
@[simp] theorem State.setCore_ready (s : State) (c : Nat) (x : Core) : (s.setCore c x).ready = s.ready := rfl
@[simp] theorem State.setCore_priv (s : State) (c : Nat) (x : Core) : (s.setCore c x).priv = s.priv := rfl
@[simp] theorem State.setCore_transit (s : State) (c : Nat) (x : Core) : (s.setCore c x).transit = s.transit := rfl
@[simp] theorem State.setCore_heldMsgs (s : State) (c : Nat) (x : Core) : (s.setCore c x).heldMsgs = s.heldMsgs := rfl
@[simp] theorem State.setCore_tokens (s : State) (c : Nat) (x : Core) : (s.setCore c x).tokens = s.tokens := rfl
@[simp] theorem State.setCore_absent (s : State) (c : Nat) (x : Core) : (s.setCore c x).absent = s.absent := rfl
@[simp] theorem State.setCore_suspended (s : State) (c : Nat) (x : Core) : (s.setCore c x).suspended = s.suspended := rfl
@[simp] theorem State.setCore_colls (s : State) (c : Nat) (x : Core) : (s.setCore c x).colls = s.colls := rfl
@[simp] theorem State.setCore_collSeqs (s : State) (c : Nat) (x : Core) : (s.setCore c x).collSeqs = s.collSeqs := rfl
@[simp] theorem State.setCore_credits (s : State) (c : Nat) (x : Core) : (s.setCore c x).credits = s.credits := rfl
@[simp] theorem State.setCore_energy (s : State) (c : Nat) (x : Core) : (s.setCore c x).energy = s.energy := rfl
@[simp] theorem State.setCore_fw (s : State) (c : Nat) (x : Core) : (s.setCore c x).fw = s.fw := rfl
@[simp] theorem State.setCore_replies (s : State) (c : Nat) (x : Core) : (s.setCore c x).replies = s.replies := rfl
@[simp] theorem State.setCore_sent (s : State) (c : Nat) (x : Core) : (s.setCore c x).sent = s.sent := rfl
@[simp] theorem State.setCore_annuls (s : State) (c : Nat) (x : Core) : (s.setCore c x).annuls = s.annuls := rfl
@[simp] theorem State.setCore_tick (s : State) (c : Nat) (x : Core) : (s.setCore c x).tick = s.tick := rfl
@[simp] theorem State.setCore_agenda (s : State) (c : Nat) (x : Core) : (s.setCore c x).agenda = s.agenda := rfl
@[simp] theorem State.setCore_curCore (s : State) (c : Nat) (x : Core) : (s.setCore c x).curCore = s.curCore := rfl
@[simp] theorem State.setCore_curSlot (s : State) (c : Nat) (x : Core) : (s.setCore c x).curSlot = s.curSlot := rfl
@[simp] theorem State.setCore_late (s : State) (c : Nat) (x : Core) : (s.setCore c x).late = s.late := rfl
@[simp] theorem State.setCore_nextTask (s : State) (c : Nat) (x : Core) : (s.setCore c x).nextTask = s.nextTask := rfl
@[simp] theorem State.setCore_nextFt (s : State) (c : Nat) (x : Core) : (s.setCore c x).nextFt = s.nextFt := rfl

@[simp] theorem State.setSlot_instant (s : State) (c : Nat) (t : Fin 4) (x : Slot) : (s.setSlot c t x).instant = s.instant := rfl
@[simp] theorem State.setSlot_clusters (s : State) (c : Nat) (t : Fin 4) (x : Slot) : (s.setSlot c t x).clusters = s.clusters := rfl
@[simp] theorem State.setSlot_courses (s : State) (c : Nat) (t : Fin 4) (x : Slot) : (s.setSlot c t x).courses = s.courses := rfl
@[simp] theorem State.setSlot_dies (s : State) (c : Nat) (t : Fin 4) (x : Slot) : (s.setSlot c t x).dies = s.dies := rfl
@[simp] theorem State.setSlot_contexts (s : State) (c : Nat) (t : Fin 4) (x : Slot) : (s.setSlot c t x).contexts = s.contexts := rfl
@[simp] theorem State.setSlot_lineages (s : State) (c : Nat) (t : Fin 4) (x : Slot) : (s.setSlot c t x).lineages = s.lineages := rfl
@[simp] theorem State.setSlot_frames (s : State) (c : Nat) (t : Fin 4) (x : Slot) : (s.setSlot c t x).frames = s.frames := rfl
@[simp] theorem State.setSlot_mem (s : State) (c : Nat) (t : Fin 4) (x : Slot) : (s.setSlot c t x).mem = s.mem := rfl
@[simp] theorem State.setSlot_places (s : State) (c : Nat) (t : Fin 4) (x : Slot) : (s.setSlot c t x).places = s.places := rfl
@[simp] theorem State.setSlot_tlb (s : State) (c : Nat) (t : Fin 4) (x : Slot) : (s.setSlot c t x).tlb = s.tlb := rfl
@[simp] theorem State.setSlot_op (s : State) (c : Nat) (t : Fin 4) (x : Slot) : (s.setSlot c t x).op = s.op := rfl
@[simp] theorem State.setSlot_lq (s : State) (c : Nat) (t : Fin 4) (x : Slot) : (s.setSlot c t x).lq = s.lq := rfl
@[simp] theorem State.setSlot_ft (s : State) (c : Nat) (t : Fin 4) (x : Slot) : (s.setSlot c t x).ft = s.ft := rfl
@[simp] theorem State.setSlot_dq (s : State) (c : Nat) (t : Fin 4) (x : Slot) : (s.setSlot c t x).dq = s.dq := rfl
@[simp] theorem State.setSlot_ready (s : State) (c : Nat) (t : Fin 4) (x : Slot) : (s.setSlot c t x).ready = s.ready := rfl
@[simp] theorem State.setSlot_priv (s : State) (c : Nat) (t : Fin 4) (x : Slot) : (s.setSlot c t x).priv = s.priv := rfl
@[simp] theorem State.setSlot_transit (s : State) (c : Nat) (t : Fin 4) (x : Slot) : (s.setSlot c t x).transit = s.transit := rfl
@[simp] theorem State.setSlot_heldMsgs (s : State) (c : Nat) (t : Fin 4) (x : Slot) : (s.setSlot c t x).heldMsgs = s.heldMsgs := rfl
@[simp] theorem State.setSlot_tokens (s : State) (c : Nat) (t : Fin 4) (x : Slot) : (s.setSlot c t x).tokens = s.tokens := rfl
@[simp] theorem State.setSlot_absent (s : State) (c : Nat) (t : Fin 4) (x : Slot) : (s.setSlot c t x).absent = s.absent := rfl
@[simp] theorem State.setSlot_suspended (s : State) (c : Nat) (t : Fin 4) (x : Slot) : (s.setSlot c t x).suspended = s.suspended := rfl
@[simp] theorem State.setSlot_colls (s : State) (c : Nat) (t : Fin 4) (x : Slot) : (s.setSlot c t x).colls = s.colls := rfl
@[simp] theorem State.setSlot_collSeqs (s : State) (c : Nat) (t : Fin 4) (x : Slot) : (s.setSlot c t x).collSeqs = s.collSeqs := rfl
@[simp] theorem State.setSlot_credits (s : State) (c : Nat) (t : Fin 4) (x : Slot) : (s.setSlot c t x).credits = s.credits := rfl
@[simp] theorem State.setSlot_energy (s : State) (c : Nat) (t : Fin 4) (x : Slot) : (s.setSlot c t x).energy = s.energy := rfl
@[simp] theorem State.setSlot_fw (s : State) (c : Nat) (t : Fin 4) (x : Slot) : (s.setSlot c t x).fw = s.fw := rfl
@[simp] theorem State.setSlot_replies (s : State) (c : Nat) (t : Fin 4) (x : Slot) : (s.setSlot c t x).replies = s.replies := rfl
@[simp] theorem State.setSlot_sent (s : State) (c : Nat) (t : Fin 4) (x : Slot) : (s.setSlot c t x).sent = s.sent := rfl
@[simp] theorem State.setSlot_annuls (s : State) (c : Nat) (t : Fin 4) (x : Slot) : (s.setSlot c t x).annuls = s.annuls := rfl
@[simp] theorem State.setSlot_tick (s : State) (c : Nat) (t : Fin 4) (x : Slot) : (s.setSlot c t x).tick = s.tick := rfl
@[simp] theorem State.setSlot_agenda (s : State) (c : Nat) (t : Fin 4) (x : Slot) : (s.setSlot c t x).agenda = s.agenda := rfl
@[simp] theorem State.setSlot_curCore (s : State) (c : Nat) (t : Fin 4) (x : Slot) : (s.setSlot c t x).curCore = s.curCore := rfl
@[simp] theorem State.setSlot_curSlot (s : State) (c : Nat) (t : Fin 4) (x : Slot) : (s.setSlot c t x).curSlot = s.curSlot := rfl
@[simp] theorem State.setSlot_late (s : State) (c : Nat) (t : Fin 4) (x : Slot) : (s.setSlot c t x).late = s.late := rfl
@[simp] theorem State.setSlot_nextTask (s : State) (c : Nat) (t : Fin 4) (x : Slot) : (s.setSlot c t x).nextTask = s.nextTask := rfl
@[simp] theorem State.setSlot_nextFt (s : State) (c : Nat) (t : Fin 4) (x : Slot) : (s.setSlot c t x).nextFt = s.nextFt := rfl

@[simp] theorem State.setSl_instant (s : State) (x : Slot) : (s.setSl x).instant = s.instant := rfl
@[simp] theorem State.setSl_clusters (s : State) (x : Slot) : (s.setSl x).clusters = s.clusters := rfl
@[simp] theorem State.setSl_courses (s : State) (x : Slot) : (s.setSl x).courses = s.courses := rfl
@[simp] theorem State.setSl_dies (s : State) (x : Slot) : (s.setSl x).dies = s.dies := rfl
@[simp] theorem State.setSl_contexts (s : State) (x : Slot) : (s.setSl x).contexts = s.contexts := rfl
@[simp] theorem State.setSl_lineages (s : State) (x : Slot) : (s.setSl x).lineages = s.lineages := rfl
@[simp] theorem State.setSl_frames (s : State) (x : Slot) : (s.setSl x).frames = s.frames := rfl
@[simp] theorem State.setSl_mem (s : State) (x : Slot) : (s.setSl x).mem = s.mem := rfl
@[simp] theorem State.setSl_places (s : State) (x : Slot) : (s.setSl x).places = s.places := rfl
@[simp] theorem State.setSl_tlb (s : State) (x : Slot) : (s.setSl x).tlb = s.tlb := rfl
@[simp] theorem State.setSl_op (s : State) (x : Slot) : (s.setSl x).op = s.op := rfl
@[simp] theorem State.setSl_lq (s : State) (x : Slot) : (s.setSl x).lq = s.lq := rfl
@[simp] theorem State.setSl_ft (s : State) (x : Slot) : (s.setSl x).ft = s.ft := rfl
@[simp] theorem State.setSl_dq (s : State) (x : Slot) : (s.setSl x).dq = s.dq := rfl
@[simp] theorem State.setSl_ready (s : State) (x : Slot) : (s.setSl x).ready = s.ready := rfl
@[simp] theorem State.setSl_priv (s : State) (x : Slot) : (s.setSl x).priv = s.priv := rfl
@[simp] theorem State.setSl_transit (s : State) (x : Slot) : (s.setSl x).transit = s.transit := rfl
@[simp] theorem State.setSl_heldMsgs (s : State) (x : Slot) : (s.setSl x).heldMsgs = s.heldMsgs := rfl
@[simp] theorem State.setSl_tokens (s : State) (x : Slot) : (s.setSl x).tokens = s.tokens := rfl
@[simp] theorem State.setSl_absent (s : State) (x : Slot) : (s.setSl x).absent = s.absent := rfl
@[simp] theorem State.setSl_suspended (s : State) (x : Slot) : (s.setSl x).suspended = s.suspended := rfl
@[simp] theorem State.setSl_colls (s : State) (x : Slot) : (s.setSl x).colls = s.colls := rfl
@[simp] theorem State.setSl_collSeqs (s : State) (x : Slot) : (s.setSl x).collSeqs = s.collSeqs := rfl
@[simp] theorem State.setSl_credits (s : State) (x : Slot) : (s.setSl x).credits = s.credits := rfl
@[simp] theorem State.setSl_energy (s : State) (x : Slot) : (s.setSl x).energy = s.energy := rfl
@[simp] theorem State.setSl_fw (s : State) (x : Slot) : (s.setSl x).fw = s.fw := rfl
@[simp] theorem State.setSl_replies (s : State) (x : Slot) : (s.setSl x).replies = s.replies := rfl
@[simp] theorem State.setSl_sent (s : State) (x : Slot) : (s.setSl x).sent = s.sent := rfl
@[simp] theorem State.setSl_annuls (s : State) (x : Slot) : (s.setSl x).annuls = s.annuls := rfl
@[simp] theorem State.setSl_tick (s : State) (x : Slot) : (s.setSl x).tick = s.tick := rfl
@[simp] theorem State.setSl_agenda (s : State) (x : Slot) : (s.setSl x).agenda = s.agenda := rfl
@[simp] theorem State.setSl_curCore (s : State) (x : Slot) : (s.setSl x).curCore = s.curCore := rfl
@[simp] theorem State.setSl_curSlot (s : State) (x : Slot) : (s.setSl x).curSlot = s.curSlot := rfl
@[simp] theorem State.setSl_late (s : State) (x : Slot) : (s.setSl x).late = s.late := rfl
@[simp] theorem State.setSl_nextTask (s : State) (x : Slot) : (s.setSl x).nextTask = s.nextTask := rfl
@[simp] theorem State.setSl_nextFt (s : State) (x : Slot) : (s.setSl x).nextFt = s.nextFt := rfl

@[simp] theorem State.setCo_instant (s : State) (x : Core) : (s.setCo x).instant = s.instant := rfl
@[simp] theorem State.setCo_clusters (s : State) (x : Core) : (s.setCo x).clusters = s.clusters := rfl
@[simp] theorem State.setCo_courses (s : State) (x : Core) : (s.setCo x).courses = s.courses := rfl
@[simp] theorem State.setCo_dies (s : State) (x : Core) : (s.setCo x).dies = s.dies := rfl
@[simp] theorem State.setCo_contexts (s : State) (x : Core) : (s.setCo x).contexts = s.contexts := rfl
@[simp] theorem State.setCo_lineages (s : State) (x : Core) : (s.setCo x).lineages = s.lineages := rfl
@[simp] theorem State.setCo_frames (s : State) (x : Core) : (s.setCo x).frames = s.frames := rfl
@[simp] theorem State.setCo_mem (s : State) (x : Core) : (s.setCo x).mem = s.mem := rfl
@[simp] theorem State.setCo_places (s : State) (x : Core) : (s.setCo x).places = s.places := rfl
@[simp] theorem State.setCo_tlb (s : State) (x : Core) : (s.setCo x).tlb = s.tlb := rfl
@[simp] theorem State.setCo_op (s : State) (x : Core) : (s.setCo x).op = s.op := rfl
@[simp] theorem State.setCo_lq (s : State) (x : Core) : (s.setCo x).lq = s.lq := rfl
@[simp] theorem State.setCo_ft (s : State) (x : Core) : (s.setCo x).ft = s.ft := rfl
@[simp] theorem State.setCo_dq (s : State) (x : Core) : (s.setCo x).dq = s.dq := rfl
@[simp] theorem State.setCo_ready (s : State) (x : Core) : (s.setCo x).ready = s.ready := rfl
@[simp] theorem State.setCo_priv (s : State) (x : Core) : (s.setCo x).priv = s.priv := rfl
@[simp] theorem State.setCo_transit (s : State) (x : Core) : (s.setCo x).transit = s.transit := rfl
@[simp] theorem State.setCo_heldMsgs (s : State) (x : Core) : (s.setCo x).heldMsgs = s.heldMsgs := rfl
@[simp] theorem State.setCo_tokens (s : State) (x : Core) : (s.setCo x).tokens = s.tokens := rfl
@[simp] theorem State.setCo_absent (s : State) (x : Core) : (s.setCo x).absent = s.absent := rfl
@[simp] theorem State.setCo_suspended (s : State) (x : Core) : (s.setCo x).suspended = s.suspended := rfl
@[simp] theorem State.setCo_colls (s : State) (x : Core) : (s.setCo x).colls = s.colls := rfl
@[simp] theorem State.setCo_collSeqs (s : State) (x : Core) : (s.setCo x).collSeqs = s.collSeqs := rfl
@[simp] theorem State.setCo_credits (s : State) (x : Core) : (s.setCo x).credits = s.credits := rfl
@[simp] theorem State.setCo_energy (s : State) (x : Core) : (s.setCo x).energy = s.energy := rfl
@[simp] theorem State.setCo_fw (s : State) (x : Core) : (s.setCo x).fw = s.fw := rfl
@[simp] theorem State.setCo_replies (s : State) (x : Core) : (s.setCo x).replies = s.replies := rfl
@[simp] theorem State.setCo_sent (s : State) (x : Core) : (s.setCo x).sent = s.sent := rfl
@[simp] theorem State.setCo_annuls (s : State) (x : Core) : (s.setCo x).annuls = s.annuls := rfl
@[simp] theorem State.setCo_tick (s : State) (x : Core) : (s.setCo x).tick = s.tick := rfl
@[simp] theorem State.setCo_agenda (s : State) (x : Core) : (s.setCo x).agenda = s.agenda := rfl
@[simp] theorem State.setCo_curCore (s : State) (x : Core) : (s.setCo x).curCore = s.curCore := rfl
@[simp] theorem State.setCo_curSlot (s : State) (x : Core) : (s.setCo x).curSlot = s.curSlot := rfl
@[simp] theorem State.setCo_late (s : State) (x : Core) : (s.setCo x).late = s.late := rfl
@[simp] theorem State.setCo_nextTask (s : State) (x : Core) : (s.setCo x).nextTask = s.nextTask := rfl
@[simp] theorem State.setCo_nextFt (s : State) (x : Core) : (s.setCo x).nextFt = s.nextFt := rfl

@[simp] theorem State.setCluster_instant (s : State) (c : Nat) (x : Cluster) : (s.setCluster c x).instant = s.instant := rfl
@[simp] theorem State.setCluster_cores (s : State) (c : Nat) (x : Cluster) : (s.setCluster c x).cores = s.cores := rfl
@[simp] theorem State.setCluster_courses (s : State) (c : Nat) (x : Cluster) : (s.setCluster c x).courses = s.courses := rfl
@[simp] theorem State.setCluster_dies (s : State) (c : Nat) (x : Cluster) : (s.setCluster c x).dies = s.dies := rfl
@[simp] theorem State.setCluster_contexts (s : State) (c : Nat) (x : Cluster) : (s.setCluster c x).contexts = s.contexts := rfl
@[simp] theorem State.setCluster_lineages (s : State) (c : Nat) (x : Cluster) : (s.setCluster c x).lineages = s.lineages := rfl
@[simp] theorem State.setCluster_frames (s : State) (c : Nat) (x : Cluster) : (s.setCluster c x).frames = s.frames := rfl
@[simp] theorem State.setCluster_mem (s : State) (c : Nat) (x : Cluster) : (s.setCluster c x).mem = s.mem := rfl
@[simp] theorem State.setCluster_places (s : State) (c : Nat) (x : Cluster) : (s.setCluster c x).places = s.places := rfl
@[simp] theorem State.setCluster_tlb (s : State) (c : Nat) (x : Cluster) : (s.setCluster c x).tlb = s.tlb := rfl
@[simp] theorem State.setCluster_op (s : State) (c : Nat) (x : Cluster) : (s.setCluster c x).op = s.op := rfl
@[simp] theorem State.setCluster_lq (s : State) (c : Nat) (x : Cluster) : (s.setCluster c x).lq = s.lq := rfl
@[simp] theorem State.setCluster_ft (s : State) (c : Nat) (x : Cluster) : (s.setCluster c x).ft = s.ft := rfl
@[simp] theorem State.setCluster_dq (s : State) (c : Nat) (x : Cluster) : (s.setCluster c x).dq = s.dq := rfl
@[simp] theorem State.setCluster_ready (s : State) (c : Nat) (x : Cluster) : (s.setCluster c x).ready = s.ready := rfl
@[simp] theorem State.setCluster_priv (s : State) (c : Nat) (x : Cluster) : (s.setCluster c x).priv = s.priv := rfl
@[simp] theorem State.setCluster_transit (s : State) (c : Nat) (x : Cluster) : (s.setCluster c x).transit = s.transit := rfl
@[simp] theorem State.setCluster_heldMsgs (s : State) (c : Nat) (x : Cluster) : (s.setCluster c x).heldMsgs = s.heldMsgs := rfl
@[simp] theorem State.setCluster_tokens (s : State) (c : Nat) (x : Cluster) : (s.setCluster c x).tokens = s.tokens := rfl
@[simp] theorem State.setCluster_absent (s : State) (c : Nat) (x : Cluster) : (s.setCluster c x).absent = s.absent := rfl
@[simp] theorem State.setCluster_suspended (s : State) (c : Nat) (x : Cluster) : (s.setCluster c x).suspended = s.suspended := rfl
@[simp] theorem State.setCluster_colls (s : State) (c : Nat) (x : Cluster) : (s.setCluster c x).colls = s.colls := rfl
@[simp] theorem State.setCluster_collSeqs (s : State) (c : Nat) (x : Cluster) : (s.setCluster c x).collSeqs = s.collSeqs := rfl
@[simp] theorem State.setCluster_credits (s : State) (c : Nat) (x : Cluster) : (s.setCluster c x).credits = s.credits := rfl
@[simp] theorem State.setCluster_energy (s : State) (c : Nat) (x : Cluster) : (s.setCluster c x).energy = s.energy := rfl
@[simp] theorem State.setCluster_fw (s : State) (c : Nat) (x : Cluster) : (s.setCluster c x).fw = s.fw := rfl
@[simp] theorem State.setCluster_replies (s : State) (c : Nat) (x : Cluster) : (s.setCluster c x).replies = s.replies := rfl
@[simp] theorem State.setCluster_sent (s : State) (c : Nat) (x : Cluster) : (s.setCluster c x).sent = s.sent := rfl
@[simp] theorem State.setCluster_annuls (s : State) (c : Nat) (x : Cluster) : (s.setCluster c x).annuls = s.annuls := rfl
@[simp] theorem State.setCluster_tick (s : State) (c : Nat) (x : Cluster) : (s.setCluster c x).tick = s.tick := rfl
@[simp] theorem State.setCluster_agenda (s : State) (c : Nat) (x : Cluster) : (s.setCluster c x).agenda = s.agenda := rfl
@[simp] theorem State.setCluster_curCore (s : State) (c : Nat) (x : Cluster) : (s.setCluster c x).curCore = s.curCore := rfl
@[simp] theorem State.setCluster_curSlot (s : State) (c : Nat) (x : Cluster) : (s.setCluster c x).curSlot = s.curSlot := rfl
@[simp] theorem State.setCluster_late (s : State) (c : Nat) (x : Cluster) : (s.setCluster c x).late = s.late := rfl
@[simp] theorem State.setCluster_nextTask (s : State) (c : Nat) (x : Cluster) : (s.setCluster c x).nextTask = s.nextTask := rfl
@[simp] theorem State.setCluster_nextFt (s : State) (c : Nat) (x : Cluster) : (s.setCluster c x).nextFt = s.nextFt := rfl

@[simp] theorem State.setCourse_instant (s : State) (c : Nat) (x : Course) : (s.setCourse c x).instant = s.instant := rfl
@[simp] theorem State.setCourse_cores (s : State) (c : Nat) (x : Course) : (s.setCourse c x).cores = s.cores := rfl
@[simp] theorem State.setCourse_clusters (s : State) (c : Nat) (x : Course) : (s.setCourse c x).clusters = s.clusters := rfl
@[simp] theorem State.setCourse_dies (s : State) (c : Nat) (x : Course) : (s.setCourse c x).dies = s.dies := rfl
@[simp] theorem State.setCourse_contexts (s : State) (c : Nat) (x : Course) : (s.setCourse c x).contexts = s.contexts := rfl
@[simp] theorem State.setCourse_lineages (s : State) (c : Nat) (x : Course) : (s.setCourse c x).lineages = s.lineages := rfl
@[simp] theorem State.setCourse_frames (s : State) (c : Nat) (x : Course) : (s.setCourse c x).frames = s.frames := rfl
@[simp] theorem State.setCourse_mem (s : State) (c : Nat) (x : Course) : (s.setCourse c x).mem = s.mem := rfl
@[simp] theorem State.setCourse_places (s : State) (c : Nat) (x : Course) : (s.setCourse c x).places = s.places := rfl
@[simp] theorem State.setCourse_tlb (s : State) (c : Nat) (x : Course) : (s.setCourse c x).tlb = s.tlb := rfl
@[simp] theorem State.setCourse_op (s : State) (c : Nat) (x : Course) : (s.setCourse c x).op = s.op := rfl
@[simp] theorem State.setCourse_lq (s : State) (c : Nat) (x : Course) : (s.setCourse c x).lq = s.lq := rfl
@[simp] theorem State.setCourse_ft (s : State) (c : Nat) (x : Course) : (s.setCourse c x).ft = s.ft := rfl
@[simp] theorem State.setCourse_dq (s : State) (c : Nat) (x : Course) : (s.setCourse c x).dq = s.dq := rfl
@[simp] theorem State.setCourse_ready (s : State) (c : Nat) (x : Course) : (s.setCourse c x).ready = s.ready := rfl
@[simp] theorem State.setCourse_priv (s : State) (c : Nat) (x : Course) : (s.setCourse c x).priv = s.priv := rfl
@[simp] theorem State.setCourse_transit (s : State) (c : Nat) (x : Course) : (s.setCourse c x).transit = s.transit := rfl
@[simp] theorem State.setCourse_heldMsgs (s : State) (c : Nat) (x : Course) : (s.setCourse c x).heldMsgs = s.heldMsgs := rfl
@[simp] theorem State.setCourse_tokens (s : State) (c : Nat) (x : Course) : (s.setCourse c x).tokens = s.tokens := rfl
@[simp] theorem State.setCourse_absent (s : State) (c : Nat) (x : Course) : (s.setCourse c x).absent = s.absent := rfl
@[simp] theorem State.setCourse_suspended (s : State) (c : Nat) (x : Course) : (s.setCourse c x).suspended = s.suspended := rfl
@[simp] theorem State.setCourse_colls (s : State) (c : Nat) (x : Course) : (s.setCourse c x).colls = s.colls := rfl
@[simp] theorem State.setCourse_collSeqs (s : State) (c : Nat) (x : Course) : (s.setCourse c x).collSeqs = s.collSeqs := rfl
@[simp] theorem State.setCourse_credits (s : State) (c : Nat) (x : Course) : (s.setCourse c x).credits = s.credits := rfl
@[simp] theorem State.setCourse_energy (s : State) (c : Nat) (x : Course) : (s.setCourse c x).energy = s.energy := rfl
@[simp] theorem State.setCourse_fw (s : State) (c : Nat) (x : Course) : (s.setCourse c x).fw = s.fw := rfl
@[simp] theorem State.setCourse_replies (s : State) (c : Nat) (x : Course) : (s.setCourse c x).replies = s.replies := rfl
@[simp] theorem State.setCourse_sent (s : State) (c : Nat) (x : Course) : (s.setCourse c x).sent = s.sent := rfl
@[simp] theorem State.setCourse_annuls (s : State) (c : Nat) (x : Course) : (s.setCourse c x).annuls = s.annuls := rfl
@[simp] theorem State.setCourse_tick (s : State) (c : Nat) (x : Course) : (s.setCourse c x).tick = s.tick := rfl
@[simp] theorem State.setCourse_agenda (s : State) (c : Nat) (x : Course) : (s.setCourse c x).agenda = s.agenda := rfl
@[simp] theorem State.setCourse_curCore (s : State) (c : Nat) (x : Course) : (s.setCourse c x).curCore = s.curCore := rfl
@[simp] theorem State.setCourse_curSlot (s : State) (c : Nat) (x : Course) : (s.setCourse c x).curSlot = s.curSlot := rfl
@[simp] theorem State.setCourse_late (s : State) (c : Nat) (x : Course) : (s.setCourse c x).late = s.late := rfl
@[simp] theorem State.setCourse_nextTask (s : State) (c : Nat) (x : Course) : (s.setCourse c x).nextTask = s.nextTask := rfl
@[simp] theorem State.setCourse_nextFt (s : State) (c : Nat) (x : Course) : (s.setCourse c x).nextFt = s.nextFt := rfl

@[simp] theorem State.setDie_instant (s : State) (c : Nat) (x : Die) : (s.setDie c x).instant = s.instant := rfl
@[simp] theorem State.setDie_cores (s : State) (c : Nat) (x : Die) : (s.setDie c x).cores = s.cores := rfl
@[simp] theorem State.setDie_clusters (s : State) (c : Nat) (x : Die) : (s.setDie c x).clusters = s.clusters := rfl
@[simp] theorem State.setDie_courses (s : State) (c : Nat) (x : Die) : (s.setDie c x).courses = s.courses := rfl
@[simp] theorem State.setDie_contexts (s : State) (c : Nat) (x : Die) : (s.setDie c x).contexts = s.contexts := rfl
@[simp] theorem State.setDie_lineages (s : State) (c : Nat) (x : Die) : (s.setDie c x).lineages = s.lineages := rfl
@[simp] theorem State.setDie_frames (s : State) (c : Nat) (x : Die) : (s.setDie c x).frames = s.frames := rfl
@[simp] theorem State.setDie_mem (s : State) (c : Nat) (x : Die) : (s.setDie c x).mem = s.mem := rfl
@[simp] theorem State.setDie_places (s : State) (c : Nat) (x : Die) : (s.setDie c x).places = s.places := rfl
@[simp] theorem State.setDie_tlb (s : State) (c : Nat) (x : Die) : (s.setDie c x).tlb = s.tlb := rfl
@[simp] theorem State.setDie_op (s : State) (c : Nat) (x : Die) : (s.setDie c x).op = s.op := rfl
@[simp] theorem State.setDie_lq (s : State) (c : Nat) (x : Die) : (s.setDie c x).lq = s.lq := rfl
@[simp] theorem State.setDie_ft (s : State) (c : Nat) (x : Die) : (s.setDie c x).ft = s.ft := rfl
@[simp] theorem State.setDie_dq (s : State) (c : Nat) (x : Die) : (s.setDie c x).dq = s.dq := rfl
@[simp] theorem State.setDie_ready (s : State) (c : Nat) (x : Die) : (s.setDie c x).ready = s.ready := rfl
@[simp] theorem State.setDie_priv (s : State) (c : Nat) (x : Die) : (s.setDie c x).priv = s.priv := rfl
@[simp] theorem State.setDie_transit (s : State) (c : Nat) (x : Die) : (s.setDie c x).transit = s.transit := rfl
@[simp] theorem State.setDie_heldMsgs (s : State) (c : Nat) (x : Die) : (s.setDie c x).heldMsgs = s.heldMsgs := rfl
@[simp] theorem State.setDie_tokens (s : State) (c : Nat) (x : Die) : (s.setDie c x).tokens = s.tokens := rfl
@[simp] theorem State.setDie_absent (s : State) (c : Nat) (x : Die) : (s.setDie c x).absent = s.absent := rfl
@[simp] theorem State.setDie_suspended (s : State) (c : Nat) (x : Die) : (s.setDie c x).suspended = s.suspended := rfl
@[simp] theorem State.setDie_colls (s : State) (c : Nat) (x : Die) : (s.setDie c x).colls = s.colls := rfl
@[simp] theorem State.setDie_collSeqs (s : State) (c : Nat) (x : Die) : (s.setDie c x).collSeqs = s.collSeqs := rfl
@[simp] theorem State.setDie_credits (s : State) (c : Nat) (x : Die) : (s.setDie c x).credits = s.credits := rfl
@[simp] theorem State.setDie_energy (s : State) (c : Nat) (x : Die) : (s.setDie c x).energy = s.energy := rfl
@[simp] theorem State.setDie_fw (s : State) (c : Nat) (x : Die) : (s.setDie c x).fw = s.fw := rfl
@[simp] theorem State.setDie_replies (s : State) (c : Nat) (x : Die) : (s.setDie c x).replies = s.replies := rfl
@[simp] theorem State.setDie_sent (s : State) (c : Nat) (x : Die) : (s.setDie c x).sent = s.sent := rfl
@[simp] theorem State.setDie_annuls (s : State) (c : Nat) (x : Die) : (s.setDie c x).annuls = s.annuls := rfl
@[simp] theorem State.setDie_tick (s : State) (c : Nat) (x : Die) : (s.setDie c x).tick = s.tick := rfl
@[simp] theorem State.setDie_agenda (s : State) (c : Nat) (x : Die) : (s.setDie c x).agenda = s.agenda := rfl
@[simp] theorem State.setDie_curCore (s : State) (c : Nat) (x : Die) : (s.setDie c x).curCore = s.curCore := rfl
@[simp] theorem State.setDie_curSlot (s : State) (c : Nat) (x : Die) : (s.setDie c x).curSlot = s.curSlot := rfl
@[simp] theorem State.setDie_late (s : State) (c : Nat) (x : Die) : (s.setDie c x).late = s.late := rfl
@[simp] theorem State.setDie_nextTask (s : State) (c : Nat) (x : Die) : (s.setDie c x).nextTask = s.nextTask := rfl
@[simp] theorem State.setDie_nextFt (s : State) (c : Nat) (x : Die) : (s.setDie c x).nextFt = s.nextFt := rfl

@[simp] theorem State.setCtx_instant (s : State) (c : Nat) (x : Context) : (s.setCtx c x).instant = s.instant := rfl
@[simp] theorem State.setCtx_cores (s : State) (c : Nat) (x : Context) : (s.setCtx c x).cores = s.cores := rfl
@[simp] theorem State.setCtx_clusters (s : State) (c : Nat) (x : Context) : (s.setCtx c x).clusters = s.clusters := rfl
@[simp] theorem State.setCtx_courses (s : State) (c : Nat) (x : Context) : (s.setCtx c x).courses = s.courses := rfl
@[simp] theorem State.setCtx_dies (s : State) (c : Nat) (x : Context) : (s.setCtx c x).dies = s.dies := rfl
@[simp] theorem State.setCtx_lineages (s : State) (c : Nat) (x : Context) : (s.setCtx c x).lineages = s.lineages := rfl
@[simp] theorem State.setCtx_frames (s : State) (c : Nat) (x : Context) : (s.setCtx c x).frames = s.frames := rfl
@[simp] theorem State.setCtx_mem (s : State) (c : Nat) (x : Context) : (s.setCtx c x).mem = s.mem := rfl
@[simp] theorem State.setCtx_places (s : State) (c : Nat) (x : Context) : (s.setCtx c x).places = s.places := rfl
@[simp] theorem State.setCtx_tlb (s : State) (c : Nat) (x : Context) : (s.setCtx c x).tlb = s.tlb := rfl
@[simp] theorem State.setCtx_op (s : State) (c : Nat) (x : Context) : (s.setCtx c x).op = s.op := rfl
@[simp] theorem State.setCtx_lq (s : State) (c : Nat) (x : Context) : (s.setCtx c x).lq = s.lq := rfl
@[simp] theorem State.setCtx_ft (s : State) (c : Nat) (x : Context) : (s.setCtx c x).ft = s.ft := rfl
@[simp] theorem State.setCtx_dq (s : State) (c : Nat) (x : Context) : (s.setCtx c x).dq = s.dq := rfl
@[simp] theorem State.setCtx_ready (s : State) (c : Nat) (x : Context) : (s.setCtx c x).ready = s.ready := rfl
@[simp] theorem State.setCtx_priv (s : State) (c : Nat) (x : Context) : (s.setCtx c x).priv = s.priv := rfl
@[simp] theorem State.setCtx_transit (s : State) (c : Nat) (x : Context) : (s.setCtx c x).transit = s.transit := rfl
@[simp] theorem State.setCtx_heldMsgs (s : State) (c : Nat) (x : Context) : (s.setCtx c x).heldMsgs = s.heldMsgs := rfl
@[simp] theorem State.setCtx_tokens (s : State) (c : Nat) (x : Context) : (s.setCtx c x).tokens = s.tokens := rfl
@[simp] theorem State.setCtx_absent (s : State) (c : Nat) (x : Context) : (s.setCtx c x).absent = s.absent := rfl
@[simp] theorem State.setCtx_suspended (s : State) (c : Nat) (x : Context) : (s.setCtx c x).suspended = s.suspended := rfl
@[simp] theorem State.setCtx_colls (s : State) (c : Nat) (x : Context) : (s.setCtx c x).colls = s.colls := rfl
@[simp] theorem State.setCtx_collSeqs (s : State) (c : Nat) (x : Context) : (s.setCtx c x).collSeqs = s.collSeqs := rfl
@[simp] theorem State.setCtx_credits (s : State) (c : Nat) (x : Context) : (s.setCtx c x).credits = s.credits := rfl
@[simp] theorem State.setCtx_energy (s : State) (c : Nat) (x : Context) : (s.setCtx c x).energy = s.energy := rfl
@[simp] theorem State.setCtx_fw (s : State) (c : Nat) (x : Context) : (s.setCtx c x).fw = s.fw := rfl
@[simp] theorem State.setCtx_replies (s : State) (c : Nat) (x : Context) : (s.setCtx c x).replies = s.replies := rfl
@[simp] theorem State.setCtx_sent (s : State) (c : Nat) (x : Context) : (s.setCtx c x).sent = s.sent := rfl
@[simp] theorem State.setCtx_annuls (s : State) (c : Nat) (x : Context) : (s.setCtx c x).annuls = s.annuls := rfl
@[simp] theorem State.setCtx_tick (s : State) (c : Nat) (x : Context) : (s.setCtx c x).tick = s.tick := rfl
@[simp] theorem State.setCtx_agenda (s : State) (c : Nat) (x : Context) : (s.setCtx c x).agenda = s.agenda := rfl
@[simp] theorem State.setCtx_curCore (s : State) (c : Nat) (x : Context) : (s.setCtx c x).curCore = s.curCore := rfl
@[simp] theorem State.setCtx_curSlot (s : State) (c : Nat) (x : Context) : (s.setCtx c x).curSlot = s.curSlot := rfl
@[simp] theorem State.setCtx_late (s : State) (c : Nat) (x : Context) : (s.setCtx c x).late = s.late := rfl
@[simp] theorem State.setCtx_nextTask (s : State) (c : Nat) (x : Context) : (s.setCtx c x).nextTask = s.nextTask := rfl
@[simp] theorem State.setCtx_nextFt (s : State) (c : Nat) (x : Context) : (s.setCtx c x).nextFt = s.nextFt := rfl

@[simp] theorem State.setLineage_instant (s : State) (c : Nat) (l : BitVec 20) (x : Lineage) : (s.setLineage c l x).instant = s.instant := rfl
@[simp] theorem State.setLineage_cores (s : State) (c : Nat) (l : BitVec 20) (x : Lineage) : (s.setLineage c l x).cores = s.cores := rfl
@[simp] theorem State.setLineage_clusters (s : State) (c : Nat) (l : BitVec 20) (x : Lineage) : (s.setLineage c l x).clusters = s.clusters := rfl
@[simp] theorem State.setLineage_courses (s : State) (c : Nat) (l : BitVec 20) (x : Lineage) : (s.setLineage c l x).courses = s.courses := rfl
@[simp] theorem State.setLineage_dies (s : State) (c : Nat) (l : BitVec 20) (x : Lineage) : (s.setLineage c l x).dies = s.dies := rfl
@[simp] theorem State.setLineage_contexts (s : State) (c : Nat) (l : BitVec 20) (x : Lineage) : (s.setLineage c l x).contexts = s.contexts := rfl
@[simp] theorem State.setLineage_frames (s : State) (c : Nat) (l : BitVec 20) (x : Lineage) : (s.setLineage c l x).frames = s.frames := rfl
@[simp] theorem State.setLineage_mem (s : State) (c : Nat) (l : BitVec 20) (x : Lineage) : (s.setLineage c l x).mem = s.mem := rfl
@[simp] theorem State.setLineage_places (s : State) (c : Nat) (l : BitVec 20) (x : Lineage) : (s.setLineage c l x).places = s.places := rfl
@[simp] theorem State.setLineage_tlb (s : State) (c : Nat) (l : BitVec 20) (x : Lineage) : (s.setLineage c l x).tlb = s.tlb := rfl
@[simp] theorem State.setLineage_op (s : State) (c : Nat) (l : BitVec 20) (x : Lineage) : (s.setLineage c l x).op = s.op := rfl
@[simp] theorem State.setLineage_lq (s : State) (c : Nat) (l : BitVec 20) (x : Lineage) : (s.setLineage c l x).lq = s.lq := rfl
@[simp] theorem State.setLineage_ft (s : State) (c : Nat) (l : BitVec 20) (x : Lineage) : (s.setLineage c l x).ft = s.ft := rfl
@[simp] theorem State.setLineage_dq (s : State) (c : Nat) (l : BitVec 20) (x : Lineage) : (s.setLineage c l x).dq = s.dq := rfl
@[simp] theorem State.setLineage_ready (s : State) (c : Nat) (l : BitVec 20) (x : Lineage) : (s.setLineage c l x).ready = s.ready := rfl
@[simp] theorem State.setLineage_priv (s : State) (c : Nat) (l : BitVec 20) (x : Lineage) : (s.setLineage c l x).priv = s.priv := rfl
@[simp] theorem State.setLineage_transit (s : State) (c : Nat) (l : BitVec 20) (x : Lineage) : (s.setLineage c l x).transit = s.transit := rfl
@[simp] theorem State.setLineage_heldMsgs (s : State) (c : Nat) (l : BitVec 20) (x : Lineage) : (s.setLineage c l x).heldMsgs = s.heldMsgs := rfl
@[simp] theorem State.setLineage_tokens (s : State) (c : Nat) (l : BitVec 20) (x : Lineage) : (s.setLineage c l x).tokens = s.tokens := rfl
@[simp] theorem State.setLineage_absent (s : State) (c : Nat) (l : BitVec 20) (x : Lineage) : (s.setLineage c l x).absent = s.absent := rfl
@[simp] theorem State.setLineage_suspended (s : State) (c : Nat) (l : BitVec 20) (x : Lineage) : (s.setLineage c l x).suspended = s.suspended := rfl
@[simp] theorem State.setLineage_colls (s : State) (c : Nat) (l : BitVec 20) (x : Lineage) : (s.setLineage c l x).colls = s.colls := rfl
@[simp] theorem State.setLineage_collSeqs (s : State) (c : Nat) (l : BitVec 20) (x : Lineage) : (s.setLineage c l x).collSeqs = s.collSeqs := rfl
@[simp] theorem State.setLineage_credits (s : State) (c : Nat) (l : BitVec 20) (x : Lineage) : (s.setLineage c l x).credits = s.credits := rfl
@[simp] theorem State.setLineage_energy (s : State) (c : Nat) (l : BitVec 20) (x : Lineage) : (s.setLineage c l x).energy = s.energy := rfl
@[simp] theorem State.setLineage_fw (s : State) (c : Nat) (l : BitVec 20) (x : Lineage) : (s.setLineage c l x).fw = s.fw := rfl
@[simp] theorem State.setLineage_replies (s : State) (c : Nat) (l : BitVec 20) (x : Lineage) : (s.setLineage c l x).replies = s.replies := rfl
@[simp] theorem State.setLineage_sent (s : State) (c : Nat) (l : BitVec 20) (x : Lineage) : (s.setLineage c l x).sent = s.sent := rfl
@[simp] theorem State.setLineage_annuls (s : State) (c : Nat) (l : BitVec 20) (x : Lineage) : (s.setLineage c l x).annuls = s.annuls := rfl
@[simp] theorem State.setLineage_tick (s : State) (c : Nat) (l : BitVec 20) (x : Lineage) : (s.setLineage c l x).tick = s.tick := rfl
@[simp] theorem State.setLineage_agenda (s : State) (c : Nat) (l : BitVec 20) (x : Lineage) : (s.setLineage c l x).agenda = s.agenda := rfl
@[simp] theorem State.setLineage_curCore (s : State) (c : Nat) (l : BitVec 20) (x : Lineage) : (s.setLineage c l x).curCore = s.curCore := rfl
@[simp] theorem State.setLineage_curSlot (s : State) (c : Nat) (l : BitVec 20) (x : Lineage) : (s.setLineage c l x).curSlot = s.curSlot := rfl
@[simp] theorem State.setLineage_late (s : State) (c : Nat) (l : BitVec 20) (x : Lineage) : (s.setLineage c l x).late = s.late := rfl
@[simp] theorem State.setLineage_nextTask (s : State) (c : Nat) (l : BitVec 20) (x : Lineage) : (s.setLineage c l x).nextTask = s.nextTask := rfl
@[simp] theorem State.setLineage_nextFt (s : State) (c : Nat) (l : BitVec 20) (x : Lineage) : (s.setLineage c l x).nextFt = s.nextFt := rfl

/-! ## Tables -/

theorem tget_tset_same {α : Type} (t : Tab α) (k : Nat) (x : α) : tget (tset t k x) k = some x := by
  induction t with
  | nil => simp [tset, tget]
  | cons e r ih =>
    obtain ⟨j, y⟩ := e
    by_cases h1 : k < j
    · simp [tset, h1, tget]
    · by_cases h2 : j = k
      · simp [tset, h2, tget]
      · simp [tset, h1, h2, tget, ih]

theorem tget_tset_ne {α : Type} (t : Tab α) {k k' : Nat} (x : α) (h : k' ≠ k) : tget (tset t k x) k' = tget t k' := by
  induction t with
  | nil => simp [tset, tget, h.symm]
  | cons e r ih =>
    obtain ⟨j, y⟩ := e
    by_cases h1 : k < j
    · simp only [tset, h1, if_true, tget, h.symm, if_false]
      by_cases h3 : k' < k
      · simp [h3, show j ≠ k' by omega, show k' < j by omega]
      · simp [h3]
    · by_cases h2 : j = k
      · subst h2; simp [tset, tget, h.symm]
      · simp [tset, h1, h2, tget, ih]

theorem tset_tset {α : Type} (t : Tab α) (k : Nat) (x y : α) : tset (tset t k x) k y = tset t k y := by
  induction t with
  | nil => simp [tset]
  | cons e r ih =>
    obtain ⟨j, z⟩ := e
    by_cases h1 : k < j
    · simp [tset, h1]
    · by_cases h2 : j = k
      · simp [tset, h2]
      · simp [tset, h1, h2, ih]

/-! ## Cores, slots and the thread that issues -/

theorem vget_eq {α : Type} {n : Nat} (v : Vector α n) (i : Fin n) : v.get i = v[i.val] := rfl
@[simp] theorem vget_set_same {α : Type} {n : Nat} (v : Vector α n) (i : Fin n) (x : α) : (v.set i.val x i.isLt).get i = x := by
  simp [vget_eq]
theorem vget_set_ne {α : Type} {n : Nat} (v : Vector α n) {i j : Fin n} (x : α) (h : j ≠ i) :
    (v.set i.val x i.isLt).get j = v.get j := by
  have hne : i.val ≠ j.val := fun e => h (Fin.ext e.symm)
  simp [vget_eq, hne]

@[simp] theorem State.coreAt_setCore_same (s : State) (c : Nat) (x : Core) : (s.setCore c x).coreAt c = x := by
  simp [State.coreAt, State.setCore, tget_tset_same]
theorem State.coreAt_setCore_ne (s : State) {c d : Nat} (x : Core) (h : d ≠ c) : (s.setCore c x).coreAt d = s.coreAt d := by
  simp [State.coreAt, State.setCore, tget_tset_ne _ _ h]
@[simp] theorem State.setCore_setCore (s : State) (c : Nat) (x y : Core) : (s.setCore c x).setCore c y = s.setCore c y := by
  simp [State.setCore, tset_tset]
@[simp] theorem State.setSl_eq (s : State) (x : Slot) : s.setSlot s.curCore s.curSlot x = s.setSl x := rfl
@[simp] theorem State.slotAt_cur (s : State) : s.slotAt s.curCore s.curSlot = s.sl := rfl

@[simp] theorem Core.slots_setSlot_same (x : Core) (t : Fin 4) (sl : Slot) : (x.setSlot t sl).slots.get t = sl := by
  simp [Core.setSlot]
theorem Core.slots_setSlot_ne (x : Core) {t u : Fin 4} (sl : Slot) (h : u ≠ t) : (x.setSlot t sl).slots.get u = x.slots.get u := by
  simpa [Core.setSlot] using vget_set_ne _ _ h

@[simp] theorem State.slotAt_setSlot_same (s : State) (c : Nat) (t : Fin 4) (x : Slot) : (s.setSlot c t x).slotAt c t = x := by
  simp [State.slotAt, State.setSlot]
theorem State.slotAt_setSlot_ne (s : State) {c d : Nat} {t u : Fin 4} (x : Slot) (h : (d, u) ≠ (c, t)) :
    (s.setSlot c t x).slotAt d u = s.slotAt d u := by
  by_cases hc : d = c
  · subst hc
    have hu : u ≠ t := fun e => h (by rw [e])
    simp [State.slotAt, State.setSlot, Core.slots_setSlot_ne _ _ hu]
  · simp [State.slotAt, State.setSlot, State.coreAt_setCore_ne _ _ hc]

@[simp] theorem State.sl_setSl (s : State) (x : Slot) : (s.setSl x).sl = x := State.slotAt_setSlot_same s _ _ x
@[simp] theorem State.th_setSl (s : State) (x : Slot) : (s.setSl x).th = x.thread := by simp [State.th]
@[simp] theorem State.sl_setTh (s : State) (x : Thread) : (s.setTh x).sl = { s.sl with thread := x } := by simp [State.setTh]
@[simp] theorem State.th_setTh (s : State) (x : Thread) : (s.setTh x).th = x := by simp [State.setTh]
@[simp] theorem State.setSl_setSl (s : State) (x y : Slot) : (s.setSl x).setSl y = s.setSl y := by
  have h : ((s.coreAt s.curCore).setSlot s.curSlot x).setSlot s.curSlot y = (s.coreAt s.curCore).setSlot s.curSlot y := by
    simp [Core.setSlot]
  simp [State.setSl, State.setSlot, h]
@[simp] theorem State.setTh_setSl (s : State) (x : Thread) (y : Slot) : (s.setTh x).setSl y = s.setSl y := by simp [State.setTh]
@[simp] theorem State.setTh_setTh (s : State) (x y : Thread) : (s.setTh x).setTh y = s.setTh y := by simp [State.setTh]
@[simp] theorem State.co_setCo (s : State) (x : Core) : (s.setCo x).co = x := by simp [State.co, State.setCo]
@[simp] theorem State.co_setSl (s : State) (x : Slot) : (s.setSl x).co = s.co.setSlot s.curSlot x := by
  simp [State.co, State.setSl, State.setSlot]
theorem State.slotAt_setSl_ne (s : State) {d : Nat} {u : Fin 4} (x : Slot) (h : (d, u) ≠ (s.curCore, s.curSlot)) :
    (s.setSl x).slotAt d u = s.slotAt d u := State.slotAt_setSlot_ne s x h
/-- A write of one slot leaves every typed buffer of every core as it was. -/
theorem State.bufMem_setSl (s : State) (x : Slot) (c : Nat) (b : Buf) :
    ((s.setSl x).coreAt c).bufMem b = (s.coreAt c).bufMem b := by
  by_cases h : c = s.curCore
  · subst h; cases b <;> simp [State.setSl, State.setSlot, Core.setSlot, Core.bufMem]
  · simp [State.setSl, State.setSlot, State.coreAt_setCore_ne _ _ h]
@[simp] theorem State.clusterAt_setCluster_same (s : State) (k : Nat) (x : Cluster) : (s.setCluster k x).clusterAt k = x := by
  simp [State.clusterAt, State.setCluster, tget_tset_same]
@[simp] theorem State.courseAt_setCourse_same (s : State) (k : Nat) (x : Course) : (s.setCourse k x).courseAt k = x := by
  simp [State.courseAt, State.setCourse, tget_tset_same]
@[simp] theorem State.dieAt_setDie_same (s : State) (k : Nat) (x : Die) : (s.setDie k x).dieAt k = x := by
  simp [State.dieAt, State.setDie, tget_tset_same]
@[simp] theorem State.ctx?_setCtx_same (s : State) (k : Nat) (x : Context) : (s.setCtx k x).ctx? k = some x := by
  simp [State.ctx?, State.setCtx, tget_tset_same]

end Sys2Proof.Machine
end

