-- ==== Sys2Proof/Laws/Memory.lean ====
section
/-! SUPPORT. Lemmas about memory: what a byte reads as after a write, that every operation keeps the canonical form, that memories of that form
which read alike are equal, and tables in rising order. -/

namespace Sys2Proof.Machine

/-! ## One byte -/

theorem memOk_mono {m : Memory} {lo lo' : Nat} (h : memOk lo m = true) (hl : lo' ≤ lo) : memOk lo' m = true := by
  cases m with
  | nil => rfl
  | cons e r =>
    simp only [memOk, Bool.and_eq_true, decide_eq_true_eq] at h ⊢
    exact ⟨⟨by omega, h.1.2⟩, h.2⟩
theorem mget_below {m : Memory} {lo k : Nat} (h : memOk lo m = true) (hk : k < lo) : mget m k = unlisted := by
  cases m with
  | nil => rfl
  | cons e r =>
    simp only [memOk, Bool.and_eq_true, decide_eq_true_eq] at h
    have h1 : e.1 ≠ k := by omega
    have h2 : k < e.1 := by omega
    simp [mget, h1, h2]
theorem memOk_mset {m : Memory} {lo k : Nat} (x : Byte) (h : memOk lo m = true) (hk : lo ≤ k) : memOk lo (mset m k x) = true := by
  induction m generalizing lo with
  | nil => by_cases hx : x = unlisted <;> simp [mset, memOk, hx, hk]
  | cons e r ih =>
    obtain ⟨a, b⟩ := e
    simp only [memOk, Bool.and_eq_true, decide_eq_true_eq] at h
    obtain ⟨⟨h1, h2⟩, h3⟩ := h
    by_cases hka : k < a
    · by_cases hx : x = unlisted
      · simp [mset, hka, hx, memOk, h1, h2, h3]
      · simp only [mset, hka, hx, if_true, if_false, memOk, h2, h3, hk]
        simp [hx]; omega
    · by_cases hak : a = k
      · subst hak
        by_cases hx : x = unlisted
        · simpa [mset, hx] using memOk_mono h3 (by omega)
        · simp [mset, hx, memOk, h1, h3]
      · simp only [mset, hka, hak, if_false, memOk, h2, ih h3 (by omega)]
        simp [h1]
/-- A write keeps the canonical form. -/
theorem Memory.wf_mset {m : Memory} (k : Nat) (x : Byte) (h : Memory.wf m = true) : Memory.wf (mset m k x) = true :=
  memOk_mset x h (Nat.zero_le k)
theorem mget_mset_of {m : Memory} {lo : Nat} (h : memOk lo m = true) (a k : Nat) (x : Byte) :
    mget (mset m a x) k = if k = a then x else mget m k := by
  induction m generalizing lo with
  | nil =>
    by_cases hx : x = unlisted
    · simp [mset, mget, hx]
    · by_cases hk : k = a
      · simp [mset, mget, hx, hk]
      · simp [mset, mget, hx, hk, Ne.symm hk]
  | cons e r ih =>
    obtain ⟨b, y⟩ := e
    simp only [memOk, Bool.and_eq_true, decide_eq_true_eq] at h
    obtain ⟨⟨h1, h2⟩, h3⟩ := h
    by_cases hab : a < b
    · by_cases hx : x = unlisted
      · by_cases hk : k = a
        · subst hk
          have hb : b ≠ k := by omega
          simp [mset, mget, hab, hx, hb]
        · simp [mset, hab, hx, hk]
      · by_cases hk : k = a
        · subst hk; simp [mset, mget, hab, hx]
        · by_cases hka : k < a
          · have : b ≠ k := by omega
            have hkb : k < b := by omega
            simp [mset, mget, hab, hx, hk, Ne.symm hk, hka, this, hkb]
          · simp [mset, mget, hab, hx, hk, Ne.symm hk, hka]
    · by_cases hba : b = a
      · subst hba
        by_cases hx : x = unlisted
        · by_cases hk : k = b
          · subst hk; simp [mset, hx, mget_below h3 (Nat.lt_succ_self _)]
          · by_cases hkb : k < b
            · have := mget_below h3 (show k < b + 1 by omega)
              simp [mset, mget, hx, hk, Ne.symm hk, hkb, this]
            · simp [mset, mget, hx, hk, Ne.symm hk, hkb]
        · by_cases hk : k = b
          · subst hk; simp [mset, mget, hx]
          · simp [mset, mget, hx, hk, Ne.symm hk]
      · simp only [mset, hab, hba, if_false, mget]
        by_cases hbk : b = k
        · subst hbk; simp [hba]
        · by_cases hkb : k < b
          · have : k ≠ a := by omega
            simp [hbk, hkb, this]
          · simp [hbk, hkb, ih h3]
/-- What a byte reads as after a write of one. -/
theorem mget_mset {m : Memory} (h : Memory.wf m = true) (a k : Nat) (x : Byte) : mget (mset m a x) k = if k = a then x else mget m k :=
  mget_mset_of h a k x

/-! ## Equal memories are equal data -/

theorem memOk_ext {m n : Memory} {lo : Nat} (hm : memOk lo m = true) (hn : memOk lo n = true) (h : ∀ k, mget m k = mget n k) : m = n := by
  induction m generalizing n lo with
  | nil =>
    cases n with
    | nil => rfl
    | cons e r =>
      simp only [memOk, Bool.and_eq_true, decide_eq_true_eq, bne_iff_ne] at hn
      exact absurd (h e.1).symm (by simpa [mget] using hn.1.2)
  | cons d l ih =>
    cases n with
    | nil =>
      simp only [memOk, Bool.and_eq_true, decide_eq_true_eq, bne_iff_ne] at hm
      exact absurd (h d.1) (by simpa [mget] using hm.1.2)
    | cons e r =>
      obtain ⟨a, x⟩ := d
      obtain ⟨b, y⟩ := e
      simp only [memOk, Bool.and_eq_true, decide_eq_true_eq, bne_iff_ne] at hm hn
      have hab : a = b := by
        rcases Nat.lt_trichotomy a b with hl | he | hl
        · have h1 := h a
          have h2 : b ≠ a := by omega
          simp only [mget, if_true, h2, hl, if_false] at h1
          exact absurd h1 hm.1.2
        · exact he
        · have h1 := h b
          have h2 : a ≠ b := by omega
          simp only [mget, if_true, h2, hl, if_false] at h1
          exact absurd h1.symm hn.1.2
      subst hab
      have hxy : x = y := by simpa [mget] using h a
      subst hxy
      have : l = r := ih hm.2 hn.2 fun k => by
        by_cases hk : k < a + 1
        · rw [mget_below hm.2 hk, mget_below hn.2 hk]
        · have h1 := h k
          have h2 : a ≠ k := by omega
          have h3 : ¬k < a := by omega
          simpa [mget, h2, h3] using h1
      rw [this]
/-- Memories in canonical form that read alike everywhere are equal. -/
theorem Memory.wf_ext {m n : Memory} (hm : Memory.wf m = true) (hn : Memory.wf n = true) (h : ∀ k, mget m k = mget n k) : m = n := memOk_ext hm hn h

/-! ## Runs of bytes and granules -/

theorem Memory.wf_mputs {m : Memory} (a : Nat) (l : List Byte) (h : Memory.wf m = true) : Memory.wf (mputs m a l) = true := by
  induction l generalizing m a with
  | nil => exact h
  | cons b r ih => exact ih (a + 1) (Memory.wf_mset a b h)
/-- What a byte reads as after a run of bytes is written. -/
theorem mget_mputs {m : Memory} (h : Memory.wf m = true) (a : Nat) (l : List Byte) (k : Nat) :
    mget (mputs m a l) k = if a ≤ k ∧ k < a + l.length then l.getD (k - a) 0 else mget m k := by
  induction l generalizing m a with
  | nil => simp only [mputs, List.length_nil]; rw [if_neg (by omega)]
  | cons b r ih =>
    rw [mputs, ih (Memory.wf_mset a b h), mget_mset h]
    simp only [List.length_cons]
    by_cases h1 : k = a
    · subst h1
      rw [if_neg (by omega), if_pos rfl, if_pos (by omega)]; simp
    · by_cases h2 : a + 1 ≤ k ∧ k < a + 1 + r.length
      · have h3 : k - a = k - (a + 1) + 1 := by omega
        rw [if_pos h2, if_pos (by omega), h3]; simp
      · rw [if_neg h2, if_neg h1, if_neg (by omega)]
theorem mbytes_length (m : Memory) (a n : Nat) : (mbytes m a n).length = n := by
  induction n generalizing a with
  | zero => rfl
  | succ n ih => simp [mbytes, ih]
theorem mbytes_getD (m : Memory) (a n i : Nat) (hi : i < n) : (mbytes m a n).getD i 0 = mget m (a + i) := by
  induction n generalizing a i with
  | zero => omega
  | succ n ih =>
    cases i with
    | zero => simp [mbytes]
    | succ i => simpa [mbytes, Nat.add_comm, Nat.add_left_comm] using ih (a + 1) i (by omega)
theorem mbytes_congr {m n : Memory} {a k : Nat} (h : ∀ i < k, mget m (a + i) = mget n (a + i)) : mbytes m a k = mbytes n a k := by
  induction k generalizing a with
  | zero => rfl
  | succ k ih =>
    rw [mbytes, mbytes, show mget m a = mget n a by simpa using h 0 (by omega)]
    exact congrArg _ (ih fun i hi => by simpa [Nat.add_comm, Nat.add_left_comm] using h (i + 1) (by omega))
/-- A run of bytes read where it was written. -/
theorem mbytes_mputs {m : Memory} (h : Memory.wf m = true) (a : Nat) (l : List Byte) : mbytes (mputs m a l) a l.length = l := by
  apply List.ext_getElem (mbytes_length _ _ _)
  intro i h1 h2
  have h3 := mbytes_getD (mputs m a l) a l.length i h2
  rw [mget_mputs h, if_pos (by omega)] at h3
  simpa [List.getD_eq_getElem?_getD, h1, h2] using h3

theorem foldl_wf {α : Type} (f : Memory → α → Memory) (hf : ∀ m x, Memory.wf m = true → Memory.wf (f m x) = true) (l : List α) {m : Memory}
    (h : Memory.wf m = true) : Memory.wf (l.foldl f m) = true := by
  induction l generalizing m with
  | nil => exact h
  | cons x r ih => exact ih (hf m x h)
theorem Memory.wf_mputGran {m : Memory} (gran : Nat) (bytes : BitVec 512) (mask : BitVec 64) (h : Memory.wf m = true) :
    Memory.wf (mputGran m gran bytes mask) = true := by
  refine foldl_wf _ (fun m i hm => ?_) _ h
  by_cases hb : mask.getLsbD i
  · simpa [hb] using Memory.wf_mset _ _ hm
  · simpa [hb] using hm
theorem mget_granFold {m : Memory} (h : Memory.wf m = true) (gran : Nat) (bytes : BitVec 512) (mask : BitVec 64) (n k : Nat) :
    mget ((List.range n).foldl (fun acc i =>
      if mask.getLsbD i then mset acc (64 * gran + i) (BitVec.ofNat 8 (bitsOf bytes.toNat (8 * i) 8)) else acc) m) k
      = if 64 * gran ≤ k ∧ k < 64 * gran + n ∧ mask.getLsbD (k - 64 * gran) = true then
          BitVec.ofNat 8 (bitsOf bytes.toNat (8 * (k - 64 * gran)) 8) else mget m k := by
  induction n with
  | zero => simp only [List.range_zero, List.foldl_nil]; rw [if_neg (by omega)]
  | succ n ih =>
    rw [List.range_succ, List.foldl_append, List.foldl_cons, List.foldl_nil]
    by_cases hb : mask.getLsbD n = true
    · rw [if_pos hb, mget_mset, ih]
      · by_cases hk : k = 64 * gran + n
        · subst hk
          rw [if_pos rfl, if_pos (by simp [hb])]; simp
        · rw [if_neg hk]
          by_cases hc : 64 * gran ≤ k ∧ k < 64 * gran + n ∧ mask.getLsbD (k - 64 * gran) = true
          · rw [if_pos hc, if_pos ⟨hc.1, by omega, hc.2.2⟩]
          · rw [if_neg hc, if_neg fun hd => hc ⟨hd.1, by omega, hd.2.2⟩]
      · refine foldl_wf _ (fun m i hm => ?_) _ h
        by_cases hi : mask.getLsbD i
        · simpa [hi] using Memory.wf_mset _ _ hm
        · simpa [hi] using hm
    · rw [if_neg hb, ih]
      by_cases hc : 64 * gran ≤ k ∧ k < 64 * gran + n ∧ mask.getLsbD (k - 64 * gran) = true
      · rw [if_pos hc, if_pos ⟨hc.1, by omega, hc.2.2⟩]
      · rw [if_neg hc, if_neg fun hd => ?_]
        by_cases hk : k - 64 * gran = n
        · exact hb (hk ▸ hd.2.2)
        · exact hc ⟨hd.1, by omega, hd.2.2⟩
/-- What a byte reads as after masked bytes of a granule are written. -/
theorem mget_mputGran {m : Memory} (h : Memory.wf m = true) (gran : Nat) (bytes : BitVec 512) (mask : BitVec 64) (k : Nat) :
    mget (mputGran m gran bytes mask) k
      = if 64 * gran ≤ k ∧ k < 64 * gran + 64 ∧ mask.getLsbD (k - 64 * gran) = true then
          BitVec.ofNat 8 (bitsOf bytes.toNat (8 * (k - 64 * gran)) 8) else mget m k := mget_granFold h gran bytes mask 64 k

/-! ## The typed buffers and the array buffer -/

theorem Memory.wf_bufWrite {m : Memory} (al : Alloc) (off : Nat) (l : List Byte) (h : Memory.wf m = true) :
    Memory.wf (bufWrite m al off l) = true := by
  induction l generalizing m off with
  | nil => exact h
  | cons b r ih =>
    refine ih (off + 1) ?_
    cases physByte al off 0 with
    | none => exact h
    | some p => exact Memory.wf_mset p b h
theorem Memory.wf_arrWrite {m : Memory} (off : Nat) (l : List Byte) (h : Memory.wf m = true) : Memory.wf (arrWrite m off l) = true := by
  induction l generalizing m off with
  | nil => exact h
  | cons b r ih => exact ih (off + 1) (Memory.wf_mset _ b h)
theorem Core.memWf_setBufMem {x : Core} (b : Buf) {m : Memory} (hx : x.memWf = true) (hm : Memory.wf m = true) :
    (x.setBufMem b m).memWf = true := by
  simp only [Core.memWf, Bool.and_eq_true] at hx ⊢
  cases b <;> simp [Core.setBufMem, hx, hm]
theorem Core.wf_bufMem {x : Core} (b : Buf) (hx : x.memWf = true) : Memory.wf (x.bufMem b) = true := by
  simp only [Core.memWf, Bool.and_eq_true] at hx
  cases b <;> simp [Core.bufMem, hx]
/-- A thread's store to a typed buffer keeps the form of its core's buffers. -/
theorem State.memWf_bufStore {s : State} (k : AccKind) (b : Buf) (off : Nat) (l : List Byte) (h : s.co.memWf = true) :
    (s.bufStore k b off l).co.memWf = true := by
  have hw : ∀ b', b' ≠ Buf.m → ((if reaches k b' then s.setCo (s.co.setBufMem b' (bufWrite (s.co.bufMem b') (s.th.alloc b') off l)) else s).co).memWf = true := by
    intro b' _
    by_cases hr : reaches k b' = true
    · simpa [hr] using Core.memWf_setBufMem b' h (Memory.wf_bufWrite _ off l (Core.wf_bufMem b' h))
    · simpa [hr] using h
  cases b with
  | m =>
    simp only [State.bufStore, State.co_setCo]
    refine Core.memWf_setBufMem .m h (foldl_wf _ (fun m e hm => ?_) _ (Core.wf_bufMem .m h))
    split
    · exact Memory.wf_mset _ _ hm
    · exact hm
  | w => exact hw .w nofun
  | a => exact hw .a nofun
  | c => exact hw .c nofun

/-! ## Tables -/

theorem Rising.cons_iff {α : Type} {e : Nat × α} {r : Tab α} : Rising (e :: r) ↔ (∀ d ∈ r, e.1 < d.1) ∧ Rising r := by
  simp [Rising]
theorem tget_none_of_below {α : Type} {t : Tab α} {k : Nat} (h : ∀ e ∈ t, k < e.1) : tget t k = none := by
  cases t with
  | nil => rfl
  | cons e r =>
    have h1 : k < e.1 := h e (List.mem_cons_self ..)
    have h2 : e.1 ≠ k := by omega
    simp [tget, h1, h2]
/-- What a table in rising order gives after an entry is taken out. -/
theorem tget_terase {α : Type} {t : Tab α} (h : Rising t) (a k : Nat) : tget (terase t a) k = if k = a then none else tget t k := by
  induction t with
  | nil => simp [terase, tget]
  | cons e r ih =>
    obtain ⟨j, x⟩ := e
    obtain ⟨h1, h2⟩ := Rising.cons_iff.mp h
    by_cases hja : j = a
    · subst hja
      by_cases hk : k = j
      · subst hk; simp [terase, tget_none_of_below h1]
      · by_cases hkj : k < j
        · have : tget r k = none := tget_none_of_below fun e he => Nat.lt_trans hkj (h1 e he)
          simp [terase, tget, hk, Ne.symm hk, hkj, this]
        · simp [terase, tget, hk, Ne.symm hk, hkj]
    · by_cases haj : a < j
      · by_cases hk : k = a
        · subst hk; simp [terase, tget, hja, haj]
        · simp [terase, hja, haj, hk]
      · simp only [terase, hja, haj, if_false, tget, ih h2]
        by_cases hk : k = a
        · subst hk; simp [hja, haj]
        · simp [hk]
theorem tset_mem {α : Type} {t : Tab α} {k : Nat} {x : α} {e : Nat × α} (h : e ∈ tset t k x) : e = (k, x) ∨ e ∈ t := by
  induction t with
  | nil => simpa [tset] using h
  | cons d r ih =>
    obtain ⟨j, y⟩ := d
    simp only [tset] at h
    split at h
    · simpa using h
    · split at h
      · exact (List.mem_cons.mp h).imp_right (List.mem_cons_of_mem _)
      · rcases List.mem_cons.mp h with rfl | h
        · exact .inr (List.mem_cons_self ..)
        · exact (ih h).imp_right (List.mem_cons_of_mem _)
/-- A write keeps a table in rising order. -/
theorem Rising.tset {α : Type} {t : Tab α} (h : Rising t) (k : Nat) (x : α) : Rising (tset t k x) := by
  induction t with
  | nil => simp [Machine.tset, Rising]
  | cons e r ih =>
    obtain ⟨j, y⟩ := e
    obtain ⟨h1, h2⟩ := Rising.cons_iff.mp h
    simp only [Machine.tset]
    split
    · rename_i hk
      refine Rising.cons_iff.mpr ⟨fun e he => ?_, h⟩
      rcases List.mem_cons.mp he with rfl | he
      · exact hk
      · exact Nat.lt_trans hk (h1 e he)
    · rename_i hk
      split
      · rename_i hj; subst hj; exact Rising.cons_iff.mpr ⟨h1, h2⟩
      · rename_i hj
        refine Rising.cons_iff.mpr ⟨fun e he => ?_, ih h2⟩
        rcases tset_mem he with rfl | he
        · show j < k; omega
        · exact h1 e he

/-! ## Reset -/

theorem State.memWf_reset : State.reset.memWf = true := rfl
theorem Core.memWf_reset : Core.reset.memWf = true := rfl

end Sys2Proof.Machine
end

