-- ==== Sys2Proof/Laws/Ops.lean ====
section
/-! SUPPORT. What the shared operations of Machine/Ops.lean can do, each said once: the end of a unit, register writes, the wait's attempt,
and taking a trap. -/

namespace Sys2Proof.Machine

/-! ## The end of a unit -/

/-- No flag raises nothing in the summary word. -/
@[simp] theorem State.raise_zero (s : State) (k ctx : Nat) : s.raise k ctx 0#5 = s := by simp [State.raise]
@[simp] theorem State.sl_raise (s : State) (k ctx : Nat) (fl : BitVec 5) : (s.raise k ctx fl).sl = s.sl := by
  unfold State.raise; split <;> rfl
/-- Outside a group and a step command nothing more happens at the end of a unit. -/
theorem State.ends_alone {u : State} (hg : u.sl.group = none) (hs : u.sl.stepping = false) (n : Word) :
    (u.groupDone n).stepDone = u := by
  simp [State.groupDone, State.stepDone, hg, hs]
@[simp] theorem State.curCtx_setSl (s : State) (x : Slot) (h : x.task = s.sl.task) : (s.setSl x).curCtx = s.curCtx := by
  simp [State.curCtx, h, Core.setSlot]

/-- A unit that runs by itself without a held A-slot result ends its slot alone. -/
theorem State.complete_plain {s : State} (h : s.Plain) :
    s.complete = s.setSl { s.sl.ended with thread := { s.th with pc := s.th.pc + 8 } } := by
  obtain ⟨hg, hs, hw, hp, hn⟩ := h
  have hf : s.sl.finish (s.th.pc + 8) false = { s.sl.ended with thread := { s.th with pc := s.th.pc + 8 } } := by
    simp [Slot.finish, hp, hn, Slot.applyA, Slot.ended, State.th]
  have h0 : (s.sl.pendA.getD ⟨.none, 0⟩).flags = 0#5 := by simp [hp]
  simp only [State.complete, State.completeTo, State.completeVia, State.sampleWait, hw, hf, h0, State.raise_zero]
  exact State.ends_alone (by simp [Slot.ended, hg]) (by simp [Slot.ended, hs]) _
/-- A taken branch that runs by itself ends its slot alone. -/
theorem State.completeTo_plain {s : State} (h : s.Plain) (n : Word) :
    s.completeTo n true = s.setSl { s.sl.jumped with thread := { s.th with pc := n } } := by
  obtain ⟨hg, hs, hw, hp, hn⟩ := h
  have hf : s.sl.finish n true = { s.sl.jumped with thread := { s.th with pc := n } } := by
    simp [Slot.finish, hp, hn, Slot.applyA, Slot.jumped, State.th]
  have h0 : (s.sl.pendA.getD ⟨.none, 0⟩).flags = 0#5 := by simp [hp]
  simp only [State.completeTo, State.completeVia, State.sampleWait, hw, hf, h0, State.raise_zero]
  exact State.ends_alone (by simp [Slot.jumped, hg]) (by simp [Slot.jumped, hs]) _

@[simp] theorem State.plain_setTh (s : State) (x : Thread) : (s.setTh x).Plain ↔ s.Plain := by simp [State.Plain]

theorem Slot.applyA_group (sl : Slot) (r : AResult) : (sl.applyA r).group = sl.group := by
  obtain ⟨w, f⟩ := r; cases w <;> rfl
theorem Slot.applyA_stepping (sl : Slot) (r : AResult) : (sl.applyA r).stepping = sl.stepping := by
  obtain ⟨w, f⟩ := r; cases w <;> rfl
theorem Slot.applyA_pc (sl : Slot) (r : AResult) : (sl.applyA r).thread.pc = sl.thread.pc := by
  obtain ⟨w, f⟩ := r; cases w <;> rfl
theorem Slot.applyA_newPc (sl : Slot) (r : AResult) : (sl.applyA r).newPc = sl.newPc := by
  obtain ⟨w, f⟩ := r; cases w <;> rfl
theorem Slot.applyA_latch (sl : Slot) (r q : AResult) : ({ sl with pendA := some q } : Slot).applyA r = { sl.applyA r with pendA := some q } := by
  obtain ⟨w, f⟩ := r; cases w <;> rfl

/-- The end of a unit in a slot outside a group, a step command and a wait. -/
theorem State.complete_setSl (s : State) {y : Slot} (hg : y.group = none) (hs : y.stepping = false) (hw : y.wait = none) :
    (s.setSl y).complete = (s.setSl (y.finish (y.thread.pc + 8) false)).raise (clusterOf s.curCore) (s.setSl y).curCtx
      (y.pendA.getD ⟨.none, 0⟩).flags := by
  have hfg : (y.finish (y.thread.pc + 8) false).group = none := by
    simp [Slot.finish, Slot.applyA_group, hg]
  have hfs : (y.finish (y.thread.pc + 8) false).stepping = false := by
    simp [Slot.finish, Slot.applyA_stepping, hs]
  simp only [State.complete, State.completeTo, State.completeVia, State.sampleWait, State.sl_setSl, State.th_setSl, hw, State.setSl_setSl, State.setSl_curCore]
  exact State.ends_alone (by rw [State.sl_raise, State.sl_setSl, hfg]) (by rw [State.sl_raise, State.sl_setSl, hfs]) _

/-- A unit with a `nop` in its C slot that runs by itself: the result is written, its flags are gathered in FFLAGS and the summary word. -/
theorem State.finishA_plain {s : State} (h : s.Plain) (r : AResult) :
    s.finishA r = (s.setSl { (s.sl.applyA r).ended with
      thread := { (s.sl.applyA r).thread with pc := s.th.pc + 8, fflags := (s.sl.applyA r).thread.fflags ||| r.flags } }).raise
        (clusterOf s.curCore) s.curCtx r.flags := by
  obtain ⟨hg, hs, hw, hp, hn⟩ := h
  have hc := State.complete_setSl s (y := { s.sl with pendA := some r }) hg hs hw
  have hx : (s.setSl { s.sl with pendA := some r }).curCtx = s.curCtx := State.curCtx_setSl _ _ rfl
  have hf : ({ s.sl with pendA := some r } : Slot).finish (s.sl.thread.pc + 8) false = { (s.sl.applyA r).ended with
      thread := { (s.sl.applyA r).thread with pc := s.th.pc + 8, fflags := (s.sl.applyA r).thread.fflags ||| r.flags } } := by
    have hx : (s.sl.applyA r).newPc = none := (Slot.applyA_newPc s.sl r).trans hn
    simp [Slot.finish, Slot.applyA_latch, Slot.ended, State.th, hx]
  rw [State.finishA, State.latch, hc, hx, hf]
  rfl


/-! ## Taking a trap -/

theorem Task.ordinary_not_nested {k : Task} (ho : k.ordinary = true) : k.isNested = false := by
  revert ho
  simp only [Task.ordinary, Task.isNested]
  cases k.firstDone <;> cases k.kind <;> simp
/-- A unit that runs by itself is given up in its slot alone. -/
theorem State.dropUnit_plain {s : State} (h : s.Plain) : s.dropUnit = s.setSl s.sl.dropped := by
  obtain ⟨hg, hs, hw, hp, hn⟩ := h
  simp [State.dropUnit, hw, hn, Slot.dropped, State.th]
theorem State.threadItem_setSl (s : State) {x : Slot} (h : x.tseq = s.sl.tseq) :
    (s.setSl x).threadItem s.curCore s.curSlot = s.threadItem s.curCore s.curSlot := by
  have h1 : (s.setSl x).slotAt s.curCore s.curSlot = x := State.sl_setSl s x
  have h2 : (s.setSl x).logOf s.curCore = s.logOf s.curCore := rfl
  simp only [State.threadItem, h1, h2, h]
  rfl

/-- What a trap of a unit that runs by itself does (R295 to R300): by the action of the context's table. -/
theorem State.takeTrap_plain {s : State} (h : s.Plain) {k : Task} (ht : s.sl.task = some k) (ho : k.ordinary = true)
    (cause slotF kind info : Nat) (addr pc : Word) (hc : cause ≠ 19) :
    s.takeTrap cause slotF kind info addr pc =
      let park (action : Fin 5) : State := s.setSl (s.sl.parkedOn ⟨BitVec.ofNat 6 cause, BitVec.ofNat 2 slotF, BitVec.ofNat 2 kind, BitVec.ofNat 32 info, addr, pc, action,
        s.evtOf k.ctx cause, s.instant, s.ptimeOf k.ctx cause⟩)
      match s.actionOf k.ctx cause with
      | 0 => (s.setSl s.sl.dropped).killThread s.curCore s.curSlot ((faultWord cause slotF kind 0 s.th.lid info).toNat
          + pc.toNat * 2 ^ 64 + addr.toNat * 2 ^ 128 + (s.threadItem s.curCore s.curSlot).toNat * 2 ^ 192)
      | 1 => if s.evtOf k.ctx cause = 0 then s.setSl s.sl.dropped else park 1
      | 2 => park 2
      | 3 => (park 3).queueFault k.ctx cause s.curCore (faultWord cause slotF kind 0 s.th.lid info) pc addr
          (s.threadItem s.curCore s.curSlot) (.thread s.curCore s.curSlot) none := by
  have hi : (s.setSl s.sl.dropped).threadItem s.curCore s.curSlot = s.threadItem s.curCore s.curSlot :=
    State.threadItem_setSl s rfl
  have htd : (s.setSl s.sl.dropped).sl.task = some k := by simp [Slot.dropped, ht]
  have hl : (s.setSl s.sl.dropped).th.lid = s.th.lid := by simp [Slot.dropped, State.th]
  have hp : ∀ (a : Fin 5) (e : BitVec 2) (p : BitVec 16), (s.setSl s.sl.dropped).parkCur cause slotF kind info addr pc a e p
      = s.setSl (s.sl.parkedOn ⟨BitVec.ofNat 6 cause, BitVec.ofNat 2 slotF, BitVec.ofNat 2 kind, BitVec.ofNat 32 info, addr, pc, a, e,
        s.instant, p⟩) := by
    intro a e p; simp [State.parkCur, Slot.parkedOn]
  have hn := Task.ordinary_not_nested ho
  unfold State.takeTrap
  rw [State.dropUnit_plain h]
  simp only [htd, State.setSl_curCore, State.setSl_curSlot, hi, hl, hp]
  refine (if_neg (fun hh => Bool.false_ne_true (hn.symm.trans hh))).trans ?_
  have ha : (s.setSl s.sl.dropped).actionOf k.ctx cause = s.actionOf k.ctx cause := rfl
  have he : (s.setSl s.sl.dropped).evtOf k.ctx cause = s.evtOf k.ctx cause := rfl
  have hq : (s.setSl s.sl.dropped).ptimeOf k.ctx cause = s.ptimeOf k.ctx cause := rfl
  rw [ha, he, hq]
  generalize s.actionOf k.ctx cause = act
  match act with
  | 0 => rfl
  | 1 => simp [hc]
  | 2 => rfl
  | 3 => rfl


/-! ## Translation reads no core -/

theorem walkFrom_setCore (s : State) (c : Nat) (x : Core) (ctx va lv : Nat) :
    ∀ tab, walkFrom (s.setCore c x) ctx va lv tab = walkFrom s ctx va lv tab := by
  induction lv with
  | zero => intro tab; rfl
  | succ n ih =>
    intro tab
    simp only [walkFrom, State.setCore_mem, ih]
    rfl
theorem State.walk_setCore (s : State) (c : Nat) (x : Core) (ctx : Nat) (va : Word) : (s.setCore c x).walk ctx va = s.walk ctx va := by
  simp only [State.walk, walkFrom_setCore]; rfl
theorem State.leafOf_setCore (s : State) (c : Nat) (x : Core) (ctx : Nat) (va : Word) :
    (s.setCore c x).leafOf ctx va = s.leafOf ctx va := by
  simp only [State.leafOf, State.cachedFor, State.walk_setCore, State.setCore_tlb, State.setCore_tick]
theorem State.translate_setCore (s : State) (c : Nat) (x : Core) (ctx : Nat) (p : BitVec 2) (va : Word) (n : Need) :
    (s.setCore c x).translate ctx p va n = s.translate ctx p va n := by
  simp only [State.translate, State.leafOf_setCore]; rfl
theorem translatePieces_setCore (s : State) (c : Nat) (x : Core) (ctx : Nat) (p : BitVec 2) (n : Need) (l : List (Nat × Nat)) :
    translatePieces (s.setCore c x) ctx p n l = translatePieces s ctx p n l := by
  induction l with
  | nil => rfl
  | cons e r ih => obtain ⟨a, k⟩ := e; simp only [translatePieces, State.translate_setCore, ih]
theorem State.readPieces_setCore (s : State) (c : Nat) (x : Core) (l : List (Option Nat × Nat × Nat)) :
    (s.setCore c x).readPieces l = s.readPieces l := by
  induction l with
  | nil => rfl
  | cons e r ih => obtain ⟨p, a, k⟩ := e; cases p <;> simp [State.readPieces, ih]
theorem State.vread_setCore (s : State) (c : Nat) (x : Core) (ctx : Nat) (va : Word) (n : Nat) :
    (s.setCore c x).vread ctx va n = s.vread ctx va n := by
  simp only [State.vread, State.translateRange, translatePieces_setCore, State.readPieces_setCore]
theorem State.targetCore_setCore (s : State) (c : Nat) (x : Core) (ctx : Nat) (n : BitVec 13) :
    (s.setCore c x).targetCore ctx n = s.targetCore ctx n := by
  simp only [State.targetCore, State.inCoreSet, State.vread_setCore]; rfl
theorem State.recordCore_setCore (s : State) (c : Nat) (x : Core) (ctx cause d : Nat) :
    (s.setCore c x).recordCore ctx cause d = s.recordCore ctx cause d := by
  simp only [State.recordCore, State.targetCore_setCore]; rfl

end Sys2Proof.Machine
end

