-- ==== Sys2Proof/Laws/PerInstr.lean ====
section
/-! SUPPORT. One lemma per constructor of Instr: its words have the format of R51 to R53 and R80 (two words of 32 bits, an opcode that stands alone
exactly where the instruction is lone), and the bounds of the coded fields. -/

namespace Sys2Proof

/-! ## Bounds of the coded fields -/

theorem Ty.code_lt (x : Ty) : x.code < 16 := by cases x <;> decide
theorem Cc.code_lt (x : Cc) : x.code < 16 := by cases x <;> decide
theorem FCc.code_lt (x : FCc) : x.code < 16 := by cases x <;> decide
theorem Scope.code_lt (x : Scope) : x.code < 4 := by cases x <;> decide
theorem Sel.code_lt (x : Sel) : x.code < 4 := by cases x <;> decide
theorem Buf.code_lt (x : Buf) : x.code < 4 := by cases x <;> decide
theorem EndKind.code_lt (x : EndKind) : x.code < 4 := by cases x <;> decide
theorem RedOp.code_lt (x : RedOp) : x.code < 16 := by cases x <;> decide
theorem RMode.code_lt (x : RMode) : x.code < 16 := by cases x <;> decide
theorem Pattern.code_lt (x : Pattern) : x.code < 16 := by cases x <;> decide
theorem CollOp.code_lt (x : CollOp) : x.code < 4 := by cases x <;> decide
theorem ParentMode.code_lt (x : ParentMode) : x.code < 4 := by cases x <;> decide
theorem ExpiryMode.code_lt (x : ExpiryMode) : x.code < 4 := by cases x <;> decide
theorem Origin.code_lt (x : Origin) : x.code < 4 := by cases x <;> decide
theorem DrainDest.code_lt (x : DrainDest) : x.code < 4 := by cases x <;> decide
theorem CmAddr.bits_lt (a : CmAddr) : a.bits < 1048576 := by
  have h1 := a.rb.isLt; have h2 := a.buf.code_lt; have h3 := a.nb.toNat_lt; have h4 := a.disp.isLt
  simp only [CmAddr.bits]; omega
theorem CgAddr.bits_lt (a : CgAddr) : a.bits < 1048576 := by
  have h1 := a.rb.isLt; have h2 := a.ds.code_lt; have h4 := a.disp.isLt
  simp only [CgAddr.bits]; omega
theorem CqAddr.bits_lt (a : CqAddr) : a.bits < 1048576 := by
  have h1 := a.rb.isLt; have h2 := a.ds.code_lt; have h3 := a.nb.toNat_lt; have h4 := a.disp.isLt; have h5 := a.scope.code_lt
  simp only [CqAddr.bits]; omega
theorem VMask.bits_lt (a : VMask) : a.bits < 512 := by
  have h1 := a.mi.isLt; have h3 := a.um.toNat_lt
  simp only [VMask.bits]; omega
theorem CopyFields.word0_lt (f : CopyFields) : f.word0 < 16777216 := by
  have h1 := f.ch.isLt; have h2 := f.dk.code_lt; have h3 := f.sk.code_lt; have h4 := f.rd.isLt; have h5 := f.rs.isLt
  have h6 := f.rl.isLt; have h7 := f.nd.toNat_lt; have h8 := f.nl.toNat_lt; have h9 := f.ds.code_lt; have h10 := f.bnd.toNat_lt
  simp only [CopyFields.word0]; omega
theorem CopyFields.word1_lt (f : CopyFields) : f.word1 < 4294967296 := by
  have h1 := f.ddisp.isLt; have h2 := f.leni.isLt; have h3 := f.nte.toNat_lt; have h4 := f.ctag.isLt; have h5 := f.boff.isLt
  simp only [CopyFields.word1]; omega
theorem CollFields.word0_lt (f : CollFields) : f.word0 < 16776208 := by
  have h1 := f.rd.isLt; have h2 := f.rs.isLt; have h3 := f.rk.isLt; have h4 := f.ds.code_lt; have h5 := f.nte.toNat_lt
  simp only [CollFields.word0]; omega
theorem CollFields.word1_lt (f : CollFields) : f.word1 < 4294967296 := by
  have h1 := f.lenm1.isLt; have h4 := f.ctag.isLt; have h5 := f.boff.isLt
  simp only [CollFields.word1]; omega
theorem MwFields.word0_lt (f : MwFields) : f.word0 < 16777216 := by
  have h1 := f.ra.isLt; have h2 := f.rb.isLt; have h3 := f.rc.isLt; have h4 := f.ds.code_lt; have h5 := f.ntf.isLt; have h6 := f.ctag.isLt
  simp only [MwFields.word0]; omega
theorem MwFields.word1_lt (f : MwFields) : f.word1 < 512 := f.boff.isLt

/-! ## The words of every instruction -/

/-- What the words of an instruction are: word 0 without L below 2^31, word 1 below 2^32, and a C opcode among the lone ones exactly where
the instruction is lone (R53); a step or command has no words. -/
def Laws.Encoding.Statement (i : Instr) : Prop :=
  match encodeParts i with
  | .c lone w0 w1 => w0 < 2147483648 ∧ w1 < 4294967296 ∧ loneC (w0 / 16777216) = lone
  | .a w1 => w1 < 4294967296
  | .none => encode i = []

theorem Laws.Encoding.nopC : Laws.Encoding.Statement (.nopC) := ⟨by decide, by decide, by decide⟩
theorem Laws.Encoding.b (d : BitVec 24) : Laws.Encoding.Statement (.b d) := by
  have e0 := d.isLt
  refine ⟨by omega, by omega, ?_⟩
  rw [show (16777216 + d.toNat) / 16777216 = 1 by omega]; rfl
theorem Laws.Encoding.bc (p : Fin 4) (d : BitVec 22) : Laws.Encoding.Statement (.bc p d) := by
  have e0 := p.isLt; have e1 := d.isLt
  refine ⟨by omega, by omega, ?_⟩
  rw [show (33554432 + p.val * 4194304 + d.toNat) / 16777216 = 2 by omega]; rfl
theorem Laws.Encoding.bnc (p : Fin 4) (d : BitVec 22) : Laws.Encoding.Statement (.bnc p d) := by
  have e0 := p.isLt; have e1 := d.isLt
  refine ⟨by omega, by omega, ?_⟩
  rw [show (50331648 + p.val * 4194304 + d.toNat) / 16777216 = 3 by omega]; rfl
theorem Laws.Encoding.bok (d : BitVec 24) : Laws.Encoding.Statement (.bok d) := by
  have e0 := d.isLt
  refine ⟨by omega, by omega, ?_⟩
  rw [show (67108864 + d.toNat) / 16777216 = 4 by omega]; rfl
theorem Laws.Encoding.bfail (d : BitVec 24) : Laws.Encoding.Statement (.bfail d) := by
  have e0 := d.isLt
  refine ⟨by omega, by omega, ?_⟩
  rw [show (83886080 + d.toNat) / 16777216 = 5 by omega]; rfl
theorem Laws.Encoding.call (d : BitVec 24) : Laws.Encoding.Statement (.call d) := by
  have e0 := d.isLt
  refine ⟨by omega, by omega, ?_⟩
  rw [show (100663296 + d.toNat) / 16777216 = 6 by omega]; rfl
theorem Laws.Encoding.callReg (a : Fin 16) : Laws.Encoding.Statement (.callReg a) := by
  have e0 := a.isLt
  refine ⟨by omega, by omega, ?_⟩
  rw [show (117440512 + a.val * 65536) / 16777216 = 7 by omega]; rfl
theorem Laws.Encoding.j (a : Fin 16) : Laws.Encoding.Statement (.j a) := by
  have e0 := a.isLt
  refine ⟨by omega, by omega, ?_⟩
  rw [show (134217728 + a.val * 65536) / 16777216 = 8 by omega]; rfl
theorem Laws.Encoding.ret : Laws.Encoding.Statement (.ret) := ⟨by decide, by decide, by decide⟩
theorem Laws.Encoding.loop (ri : Fin 16) (rb : Fin 16) (nb : Bool) (disp : BitVec 13) (dist : BitVec 24) : Laws.Encoding.Statement (.loop ri rb nb disp dist) := by
  have e0 := ri.isLt; have e1 := rb.isLt; have e2 := nb.toNat_lt; have e3 := disp.isLt; have e4 := dist.isLt
  refine ⟨by omega, by omega, ?_⟩
  rw [show (167772160 + ri.val * 1048576 + rb.val * 65536 + nb.toNat * 8192 + disp.toNat) / 16777216 = 10 by omega]; rfl
theorem Laws.Encoding.lend (d : BitVec 24) : Laws.Encoding.Statement (.lend d) := by
  have e0 := d.isLt
  refine ⟨by omega, by omega, ?_⟩
  rw [show (184549376 + d.toNat) / 16777216 = 11 by omega]; rfl
theorem Laws.Encoding.lendPop : Laws.Encoding.Statement (.lendPop) := ⟨by decide, by decide, by decide⟩
theorem Laws.Encoding.cmp (d : Fin 4) (a : Fin 16) (b : Fin 16) (cc : Cc) (ty : Ty) : Laws.Encoding.Statement (.cmp d a b cc ty) := by
  have e0 := d.isLt; have e1 := a.isLt; have e2 := b.isLt; have e3 := cc.code_lt; have e4 := ty.code_lt
  refine ⟨by omega, by omega, ?_⟩
  rw [show (201326592 + d.val * 1048576 + a.val * 65536 + b.val * 4096 + cc.code * 256 + ty.code * 16) / 16777216 = 12 by omega]; rfl
theorem Laws.Encoding.sel (d : Fin 16) (a : Fin 16) (b : Fin 16) (q : Fin 4) : Laws.Encoding.Statement (.sel d a b q) := by
  have e0 := d.isLt; have e1 := a.isLt; have e2 := b.isLt; have e3 := q.isLt
  refine ⟨by omega, by omega, ?_⟩
  rw [show (218103808 + d.val * 1048576 + a.val * 65536 + b.val * 4096 + q.val * 4) / 16777216 = 13 by omega]; rfl
theorem Laws.Encoding.pset (d : Fin 4) (a : Fin 16) : Laws.Encoding.Statement (.pset d a) := by
  have e0 := d.isLt; have e1 := a.isLt
  refine ⟨by omega, by omega, ?_⟩
  rw [show (234881024 + d.val * 1048576 + a.val * 65536) / 16777216 = 14 by omega]; rfl
theorem Laws.Encoding.psetAnd (d : Fin 4) (a : Fin 4) (b : Fin 4) : Laws.Encoding.Statement (.psetAnd d a b) := by
  have e0 := d.isLt; have e1 := a.isLt; have e2 := b.isLt
  refine ⟨by omega, by omega, ?_⟩
  rw [show (234881024 + d.val * 1048576 + a.val * 65536 + b.val * 4096 + 256) / 16777216 = 14 by omega]; rfl
theorem Laws.Encoding.psetOr (d : Fin 4) (a : Fin 4) (b : Fin 4) : Laws.Encoding.Statement (.psetOr d a b) := by
  have e0 := d.isLt; have e1 := a.isLt; have e2 := b.isLt
  refine ⟨by omega, by omega, ?_⟩
  rw [show (234881024 + d.val * 1048576 + a.val * 65536 + b.val * 4096 + 512) / 16777216 = 14 by omega]; rfl
theorem Laws.Encoding.psetXor (d : Fin 4) (a : Fin 4) (b : Fin 4) : Laws.Encoding.Statement (.psetXor d a b) := by
  have e0 := d.isLt; have e1 := a.isLt; have e2 := b.isLt
  refine ⟨by omega, by omega, ?_⟩
  rw [show (234881024 + d.val * 1048576 + a.val * 65536 + b.val * 4096 + 768) / 16777216 = 14 by omega]; rfl
theorem Laws.Encoding.psetNot (d : Fin 4) (a : Fin 4) : Laws.Encoding.Statement (.psetNot d a) := by
  have e0 := d.isLt; have e1 := a.isLt
  refine ⟨by omega, by omega, ?_⟩
  rw [show (234881024 + d.val * 1048576 + a.val * 65536 + 1024) / 16777216 = 14 by omega]; rfl
theorem Laws.Encoding.ldi (d : Fin 16) (lit : BitVec 32) : Laws.Encoding.Statement (.ldi d lit) := by
  have e0 := d.isLt; have e1 := lit.isLt
  refine ⟨by omega, by omega, ?_⟩
  rw [show (251658240 + d.val * 1048576) / 16777216 = 15 by omega]; rfl
theorem Laws.Encoding.ldiHi (d : Fin 16) (lit : BitVec 32) : Laws.Encoding.Statement (.ldiHi d lit) := by
  have e0 := d.isLt; have e1 := lit.isLt
  refine ⟨by omega, by omega, ?_⟩
  rw [show (268435456 + d.val * 1048576) / 16777216 = 16 by omega]; rfl
theorem Laws.Encoding.addiC (d : Fin 16) (a : Fin 16) (imm : BitVec 16) : Laws.Encoding.Statement (.addiC d a imm) := by
  have e0 := d.isLt; have e1 := a.isLt; have e2 := imm.isLt
  refine ⟨by omega, by omega, ?_⟩
  rw [show (285212672 + d.val * 1048576 + a.val * 65536 + imm.toNat) / 16777216 = 17 by omega]; rfl
theorem Laws.Encoding.moviC (d : Fin 16) (imm : BitVec 16) : Laws.Encoding.Statement (.moviC d imm) := by
  have e0 := d.isLt; have e1 := imm.isLt
  refine ⟨by omega, by omega, ?_⟩
  rw [show (301989888 + d.val * 1048576 + imm.toNat) / 16777216 = 18 by omega]; rfl
theorem Laws.Encoding.getc (d : Fin 16) (n : BitVec 12) : Laws.Encoding.Statement (.getc d n) := by
  have e0 := d.isLt; have e1 := n.isLt
  refine ⟨by omega, by omega, ?_⟩
  rw [show (318767104 + d.val * 1048576 + n.toNat) / 16777216 = 19 by omega]; rfl
theorem Laws.Encoding.setc (a : Fin 16) (n : BitVec 12) : Laws.Encoding.Statement (.setc a n) := by
  have e0 := a.isLt; have e1 := n.isLt
  refine ⟨by omega, by omega, ?_⟩
  rw [show (335544320 + a.val * 65536 + n.toNat) / 16777216 = 20 by omega]; rfl
theorem Laws.Encoding.trap (a : Fin 16) (n : BitVec 5) : Laws.Encoding.Statement (.trap a n) := by
  have e0 := a.isLt; have e1 := n.isLt
  refine ⟨by omega, by omega, ?_⟩
  rw [show (352321536 + a.val * 65536 + n.toNat) / 16777216 = 21 by omega]; rfl
theorem Laws.Encoding.brk (imm : BitVec 16) : Laws.Encoding.Statement (.brk imm) := by
  have e0 := imm.isLt
  refine ⟨by omega, by omega, ?_⟩
  rw [show (369098752 + imm.toNat) / 16777216 = 22 by omega]; rfl
theorem Laws.Encoding.udf : Laws.Encoding.Statement (.udf) := ⟨by decide, by decide, by decide⟩
theorem Laws.Encoding.ldB (t : Fin 16) (m : CmAddr) : Laws.Encoding.Statement (.ldB t m) := by
  have e0 := t.isLt; have e1 := m.bits_lt
  refine ⟨by omega, by omega, ?_⟩
  rw [show (402653184 + t.val * 1048576 + m.bits) / 16777216 = 24 by omega]; rfl
theorem Laws.Encoding.ldH (t : Fin 16) (m : CmAddr) : Laws.Encoding.Statement (.ldH t m) := by
  have e0 := t.isLt; have e1 := m.bits_lt
  refine ⟨by omega, by omega, ?_⟩
  rw [show (419430400 + t.val * 1048576 + m.bits) / 16777216 = 25 by omega]; rfl
theorem Laws.Encoding.ldW (t : Fin 16) (m : CmAddr) : Laws.Encoding.Statement (.ldW t m) := by
  have e0 := t.isLt; have e1 := m.bits_lt
  refine ⟨by omega, by omega, ?_⟩
  rw [show (436207616 + t.val * 1048576 + m.bits) / 16777216 = 26 by omega]; rfl
theorem Laws.Encoding.ldD (t : Fin 16) (m : CmAddr) : Laws.Encoding.Statement (.ldD t m) := by
  have e0 := t.isLt; have e1 := m.bits_lt
  refine ⟨by omega, by omega, ?_⟩
  rw [show (452984832 + t.val * 1048576 + m.bits) / 16777216 = 27 by omega]; rfl
theorem Laws.Encoding.ldZb (t : Fin 16) (m : CmAddr) : Laws.Encoding.Statement (.ldZb t m) := by
  have e0 := t.isLt; have e1 := m.bits_lt
  refine ⟨by omega, by omega, ?_⟩
  rw [show (469762048 + t.val * 1048576 + m.bits) / 16777216 = 28 by omega]; rfl
theorem Laws.Encoding.ldZh (t : Fin 16) (m : CmAddr) : Laws.Encoding.Statement (.ldZh t m) := by
  have e0 := t.isLt; have e1 := m.bits_lt
  refine ⟨by omega, by omega, ?_⟩
  rw [show (486539264 + t.val * 1048576 + m.bits) / 16777216 = 29 by omega]; rfl
theorem Laws.Encoding.ldZw (t : Fin 16) (m : CmAddr) : Laws.Encoding.Statement (.ldZw t m) := by
  have e0 := t.isLt; have e1 := m.bits_lt
  refine ⟨by omega, by omega, ?_⟩
  rw [show (503316480 + t.val * 1048576 + m.bits) / 16777216 = 30 by omega]; rfl
theorem Laws.Encoding.stB (t : Fin 16) (m : CmAddr) : Laws.Encoding.Statement (.stB t m) := by
  have e0 := t.isLt; have e1 := m.bits_lt
  refine ⟨by omega, by omega, ?_⟩
  rw [show (520093696 + t.val * 1048576 + m.bits) / 16777216 = 31 by omega]; rfl
theorem Laws.Encoding.stH (t : Fin 16) (m : CmAddr) : Laws.Encoding.Statement (.stH t m) := by
  have e0 := t.isLt; have e1 := m.bits_lt
  refine ⟨by omega, by omega, ?_⟩
  rw [show (536870912 + t.val * 1048576 + m.bits) / 16777216 = 32 by omega]; rfl
theorem Laws.Encoding.stW (t : Fin 16) (m : CmAddr) : Laws.Encoding.Statement (.stW t m) := by
  have e0 := t.isLt; have e1 := m.bits_lt
  refine ⟨by omega, by omega, ?_⟩
  rw [show (553648128 + t.val * 1048576 + m.bits) / 16777216 = 33 by omega]; rfl
theorem Laws.Encoding.stD (t : Fin 16) (m : CmAddr) : Laws.Encoding.Statement (.stD t m) := by
  have e0 := t.isLt; have e1 := m.bits_lt
  refine ⟨by omega, by omega, ?_⟩
  rw [show (570425344 + t.val * 1048576 + m.bits) / 16777216 = 34 by omega]; rfl
theorem Laws.Encoding.vld (t : Fin 16) (m : CmAddr) : Laws.Encoding.Statement (.vld t m) := by
  have e0 := t.isLt; have e1 := m.bits_lt
  refine ⟨by omega, by omega, ?_⟩
  rw [show (587202560 + t.val * 1048576 + m.bits) / 16777216 = 35 by omega]; rfl
theorem Laws.Encoding.vst (t : Fin 16) (m : CmAddr) : Laws.Encoding.Statement (.vst t m) := by
  have e0 := t.isLt; have e1 := m.bits_lt
  refine ⟨by omega, by omega, ?_⟩
  rw [show (603979776 + t.val * 1048576 + m.bits) / 16777216 = 36 by omega]; rfl
theorem Laws.Encoding.vldx (d : Fin 16) (a : Fin 16) (b : Fin 16) (bu : Buf) (ty : Ty) (q : Fin 4) : Laws.Encoding.Statement (.vldx d a b bu ty q) := by
  have e0 := d.isLt; have e1 := a.isLt; have e2 := b.isLt; have e3 := bu.code_lt; have e4 := ty.code_lt; have e5 := q.isLt
  refine ⟨by omega, by omega, ?_⟩
  rw [show (620756992 + d.val * 1048576 + a.val * 65536 + b.val * 4096 + bu.code * 256 + ty.code * 16 + q.val * 4) / 16777216 = 37 by omega]; rfl
theorem Laws.Encoding.vstx (d : Fin 16) (a : Fin 16) (b : Fin 16) (bu : Buf) (ty : Ty) (q : Fin 4) : Laws.Encoding.Statement (.vstx d a b bu ty q) := by
  have e0 := d.isLt; have e1 := a.isLt; have e2 := b.isLt; have e3 := bu.code_lt; have e4 := ty.code_lt; have e5 := q.isLt
  refine ⟨by omega, by omega, ?_⟩
  rw [show (637534208 + d.val * 1048576 + a.val * 65536 + b.val * 4096 + bu.code * 256 + ty.code * 16 + q.val * 4) / 16777216 = 38 by omega]; rfl
theorem Laws.Encoding.ldgB (t : Fin 16) (m : CgAddr) : Laws.Encoding.Statement (.ldgB t m) := by
  have e0 := t.isLt; have e1 := m.bits_lt
  refine ⟨by omega, by omega, ?_⟩
  rw [show (654311424 + t.val * 1048576 + m.bits) / 16777216 = 39 by omega]; rfl
theorem Laws.Encoding.ldgH (t : Fin 16) (m : CgAddr) : Laws.Encoding.Statement (.ldgH t m) := by
  have e0 := t.isLt; have e1 := m.bits_lt
  refine ⟨by omega, by omega, ?_⟩
  rw [show (671088640 + t.val * 1048576 + m.bits) / 16777216 = 40 by omega]; rfl
theorem Laws.Encoding.ldgW (t : Fin 16) (m : CgAddr) : Laws.Encoding.Statement (.ldgW t m) := by
  have e0 := t.isLt; have e1 := m.bits_lt
  refine ⟨by omega, by omega, ?_⟩
  rw [show (687865856 + t.val * 1048576 + m.bits) / 16777216 = 41 by omega]; rfl
theorem Laws.Encoding.ldgD (t : Fin 16) (m : CgAddr) : Laws.Encoding.Statement (.ldgD t m) := by
  have e0 := t.isLt; have e1 := m.bits_lt
  refine ⟨by omega, by omega, ?_⟩
  rw [show (704643072 + t.val * 1048576 + m.bits) / 16777216 = 42 by omega]; rfl
theorem Laws.Encoding.ldgZb (t : Fin 16) (m : CgAddr) : Laws.Encoding.Statement (.ldgZb t m) := by
  have e0 := t.isLt; have e1 := m.bits_lt
  refine ⟨by omega, by omega, ?_⟩
  rw [show (721420288 + t.val * 1048576 + m.bits) / 16777216 = 43 by omega]; rfl
theorem Laws.Encoding.ldgZh (t : Fin 16) (m : CgAddr) : Laws.Encoding.Statement (.ldgZh t m) := by
  have e0 := t.isLt; have e1 := m.bits_lt
  refine ⟨by omega, by omega, ?_⟩
  rw [show (738197504 + t.val * 1048576 + m.bits) / 16777216 = 44 by omega]; rfl
theorem Laws.Encoding.ldgZw (t : Fin 16) (m : CgAddr) : Laws.Encoding.Statement (.ldgZw t m) := by
  have e0 := t.isLt; have e1 := m.bits_lt
  refine ⟨by omega, by omega, ?_⟩
  rw [show (754974720 + t.val * 1048576 + m.bits) / 16777216 = 45 by omega]; rfl
theorem Laws.Encoding.stgB (t : Fin 16) (m : CgAddr) : Laws.Encoding.Statement (.stgB t m) := by
  have e0 := t.isLt; have e1 := m.bits_lt
  refine ⟨by omega, by omega, ?_⟩
  rw [show (771751936 + t.val * 1048576 + m.bits) / 16777216 = 46 by omega]; rfl
theorem Laws.Encoding.stgH (t : Fin 16) (m : CgAddr) : Laws.Encoding.Statement (.stgH t m) := by
  have e0 := t.isLt; have e1 := m.bits_lt
  refine ⟨by omega, by omega, ?_⟩
  rw [show (788529152 + t.val * 1048576 + m.bits) / 16777216 = 47 by omega]; rfl
theorem Laws.Encoding.stgW (t : Fin 16) (m : CgAddr) : Laws.Encoding.Statement (.stgW t m) := by
  have e0 := t.isLt; have e1 := m.bits_lt
  refine ⟨by omega, by omega, ?_⟩
  rw [show (805306368 + t.val * 1048576 + m.bits) / 16777216 = 48 by omega]; rfl
theorem Laws.Encoding.stgD (t : Fin 16) (m : CgAddr) : Laws.Encoding.Statement (.stgD t m) := by
  have e0 := t.isLt; have e1 := m.bits_lt
  refine ⟨by omega, by omega, ?_⟩
  rw [show (822083584 + t.val * 1048576 + m.bits) / 16777216 = 49 by omega]; rfl
theorem Laws.Encoding.amoAdd (d : Fin 16) (a : Fin 16) (b : Fin 16) (ty : Ty) (sc : Scope) (ds : Sel) : Laws.Encoding.Statement (.amoAdd d a b ty sc ds) := by
  have e0 := d.isLt; have e1 := a.isLt; have e2 := b.isLt; have e3 := ty.code_lt; have e4 := sc.code_lt; have e5 := ds.code_lt
  refine ⟨by omega, by omega, ?_⟩
  rw [show (838860800 + d.val * 1048576 + a.val * 65536 + b.val * 4096 + ty.code * 16 + sc.code * 4 + ds.code) / 16777216 = 50 by omega]; rfl
theorem Laws.Encoding.amoMin (d : Fin 16) (a : Fin 16) (b : Fin 16) (ty : Ty) (sc : Scope) (ds : Sel) : Laws.Encoding.Statement (.amoMin d a b ty sc ds) := by
  have e0 := d.isLt; have e1 := a.isLt; have e2 := b.isLt; have e3 := ty.code_lt; have e4 := sc.code_lt; have e5 := ds.code_lt
  refine ⟨by omega, by omega, ?_⟩
  rw [show (855638016 + d.val * 1048576 + a.val * 65536 + b.val * 4096 + ty.code * 16 + sc.code * 4 + ds.code) / 16777216 = 51 by omega]; rfl
theorem Laws.Encoding.amoMax (d : Fin 16) (a : Fin 16) (b : Fin 16) (ty : Ty) (sc : Scope) (ds : Sel) : Laws.Encoding.Statement (.amoMax d a b ty sc ds) := by
  have e0 := d.isLt; have e1 := a.isLt; have e2 := b.isLt; have e3 := ty.code_lt; have e4 := sc.code_lt; have e5 := ds.code_lt
  refine ⟨by omega, by omega, ?_⟩
  rw [show (872415232 + d.val * 1048576 + a.val * 65536 + b.val * 4096 + ty.code * 16 + sc.code * 4 + ds.code) / 16777216 = 52 by omega]; rfl
theorem Laws.Encoding.amoAnd (d : Fin 16) (a : Fin 16) (b : Fin 16) (ty : Ty) (sc : Scope) (ds : Sel) : Laws.Encoding.Statement (.amoAnd d a b ty sc ds) := by
  have e0 := d.isLt; have e1 := a.isLt; have e2 := b.isLt; have e3 := ty.code_lt; have e4 := sc.code_lt; have e5 := ds.code_lt
  refine ⟨by omega, by omega, ?_⟩
  rw [show (889192448 + d.val * 1048576 + a.val * 65536 + b.val * 4096 + ty.code * 16 + sc.code * 4 + ds.code) / 16777216 = 53 by omega]; rfl
theorem Laws.Encoding.amoOr (d : Fin 16) (a : Fin 16) (b : Fin 16) (ty : Ty) (sc : Scope) (ds : Sel) : Laws.Encoding.Statement (.amoOr d a b ty sc ds) := by
  have e0 := d.isLt; have e1 := a.isLt; have e2 := b.isLt; have e3 := ty.code_lt; have e4 := sc.code_lt; have e5 := ds.code_lt
  refine ⟨by omega, by omega, ?_⟩
  rw [show (905969664 + d.val * 1048576 + a.val * 65536 + b.val * 4096 + ty.code * 16 + sc.code * 4 + ds.code) / 16777216 = 54 by omega]; rfl
theorem Laws.Encoding.amoXor (d : Fin 16) (a : Fin 16) (b : Fin 16) (ty : Ty) (sc : Scope) (ds : Sel) : Laws.Encoding.Statement (.amoXor d a b ty sc ds) := by
  have e0 := d.isLt; have e1 := a.isLt; have e2 := b.isLt; have e3 := ty.code_lt; have e4 := sc.code_lt; have e5 := ds.code_lt
  refine ⟨by omega, by omega, ?_⟩
  rw [show (922746880 + d.val * 1048576 + a.val * 65536 + b.val * 4096 + ty.code * 16 + sc.code * 4 + ds.code) / 16777216 = 55 by omega]; rfl
theorem Laws.Encoding.amoSwap (d : Fin 16) (a : Fin 16) (b : Fin 16) (ty : Ty) (sc : Scope) (ds : Sel) : Laws.Encoding.Statement (.amoSwap d a b ty sc ds) := by
  have e0 := d.isLt; have e1 := a.isLt; have e2 := b.isLt; have e3 := ty.code_lt; have e4 := sc.code_lt; have e5 := ds.code_lt
  refine ⟨by omega, by omega, ?_⟩
  rw [show (939524096 + d.val * 1048576 + a.val * 65536 + b.val * 4096 + ty.code * 16 + sc.code * 4 + ds.code) / 16777216 = 56 by omega]; rfl
theorem Laws.Encoding.amoCas (d : Fin 16) (a : Fin 16) (b : Fin 16) (ty : Ty) (sc : Scope) (ds : Sel) : Laws.Encoding.Statement (.amoCas d a b ty sc ds) := by
  have e0 := d.isLt; have e1 := a.isLt; have e2 := b.isLt; have e3 := ty.code_lt; have e4 := sc.code_lt; have e5 := ds.code_lt
  refine ⟨by omega, by omega, ?_⟩
  rw [show (956301312 + d.val * 1048576 + a.val * 65536 + b.val * 4096 + ty.code * 16 + sc.code * 4 + ds.code) / 16777216 = 57 by omega]; rfl
theorem Laws.Encoding.fence (d : Fin 16) (sc : Scope) (ds : Sel) : Laws.Encoding.Statement (.fence d sc ds) := by
  have e0 := d.isLt; have e1 := sc.code_lt; have e2 := ds.code_lt
  refine ⟨by omega, by omega, ?_⟩
  rw [show (973078528 + d.val * 1048576 + sc.code * 4 + ds.code) / 16777216 = 58 by omega]; rfl
theorem Laws.Encoding.cp (f : CopyFields) : Laws.Encoding.Statement (.cp f) := by
  have e0 := f.word0_lt; have e1 := f.word1_lt
  refine ⟨by omega, by omega, ?_⟩
  rw [show (989855744 + f.word0) / 16777216 = 59 by omega]; rfl
theorem Laws.Encoding.cpDeal (f : CopyFields) : Laws.Encoding.Statement (.cpDeal f) := by
  have e0 := f.word0_lt; have e1 := f.word1_lt
  refine ⟨by omega, by omega, ?_⟩
  rw [show (1006632960 + f.word0) / 16777216 = 60 by omega]; rfl
theorem Laws.Encoding.cpGath (f : CopyFields) : Laws.Encoding.Statement (.cpGath f) := by
  have e0 := f.word0_lt; have e1 := f.word1_lt
  refine ⟨by omega, by omega, ?_⟩
  rw [show (1023410176 + f.word0) / 16777216 = 61 by omega]; rfl
theorem Laws.Encoding.cpRot (f : CopyFields) : Laws.Encoding.Statement (.cpRot f) := by
  have e0 := f.word0_lt; have e1 := f.word1_lt
  refine ⟨by omega, by omega, ?_⟩
  rw [show (1040187392 + f.word0) / 16777216 = 62 by omega]; rfl
theorem Laws.Encoding.collRed (f : CollFields) (op : CollOp) (ty : Ty) : Laws.Encoding.Statement (.collRed f op ty) := by
  have e0 := f.word0_lt; have e1 := f.word1_lt; have e2 := op.code_lt; have e3 := ty.code_lt
  refine ⟨by omega, by omega, ?_⟩
  rw [show (1056964608 + f.word0 + op.code * 256 + ty.code * 16) / 16777216 = 63 by omega]; rfl
theorem Laws.Encoding.collGath (f : CollFields) : Laws.Encoding.Statement (.collGath f) := by
  have e0 := f.word0_lt; have e1 := f.word1_lt
  refine ⟨by omega, by omega, ?_⟩
  rw [show (1073741824 + f.word0) / 16777216 = 64 by omega]; rfl
theorem Laws.Encoding.barInit (t : Fin 16) (o : CqAddr) (count : BitVec 16) (attach : Bool) : Laws.Encoding.Statement (.barInit t o count attach) := by
  have e0 := t.isLt; have e1 := o.bits_lt; have e2 := count.isLt; have e3 := attach.toNat_lt
  refine ⟨by omega, by omega, ?_⟩
  rw [show (1090519040 + t.val * 1048576 + o.bits) / 16777216 = 65 by omega]; rfl
theorem Laws.Encoding.barExpect (t : Fin 16) (o : CqAddr) (bytes : BitVec 32) : Laws.Encoding.Statement (.barExpect t o bytes) := by
  have e0 := t.isLt; have e1 := o.bits_lt; have e2 := bytes.isLt
  refine ⟨by omega, by omega, ?_⟩
  rw [show (1107296256 + t.val * 1048576 + o.bits) / 16777216 = 66 by omega]; rfl
theorem Laws.Encoding.barArrive (t : Fin 16) (o : CqAddr) : Laws.Encoding.Statement (.barArrive t o) := by
  have e0 := t.isLt; have e1 := o.bits_lt
  refine ⟨by omega, by omega, ?_⟩
  rw [show (1124073472 + t.val * 1048576 + o.bits) / 16777216 = 67 by omega]; rfl
theorem Laws.Encoding.barWait (t : Fin 16) (o : CqAddr) : Laws.Encoding.Statement (.barWait t o) := by
  have e0 := t.isLt; have e1 := o.bits_lt
  refine ⟨by omega, by omega, ?_⟩
  rw [show (1140850688 + t.val * 1048576 + o.bits) / 16777216 = 68 by omega]; rfl
theorem Laws.Encoding.barSync (t : Fin 16) (o : CqAddr) : Laws.Encoding.Statement (.barSync t o) := by
  have e0 := t.isLt; have e1 := o.bits_lt
  refine ⟨by omega, by omega, ?_⟩
  rw [show (1157627904 + t.val * 1048576 + o.bits) / 16777216 = 69 by omega]; rfl
theorem Laws.Encoding.barAbort (o : CqAddr) : Laws.Encoding.Statement (.barAbort o) := by
  have e0 := o.bits_lt
  refine ⟨by omega, by omega, ?_⟩
  rw [show (1174405120 + o.bits) / 16777216 = 70 by omega]; rfl
theorem Laws.Encoding.send (rc : Fin 16) (rs : Fin 16) (ds : Sel) (len : BitVec 6) (tag : BitVec 8) : Laws.Encoding.Statement (.send rc rs ds len tag) := by
  have e0 := rc.isLt; have e1 := rs.isLt; have e2 := ds.code_lt; have e3 := len.isLt; have e4 := tag.isLt
  refine ⟨by omega, by omega, ?_⟩
  rw [show (1191182336 + rc.val * 1048576 + rs.val * 65536 + ds.code * 16384 + len.toNat * 256) / 16777216 = 71 by omega]; rfl
theorem Laws.Encoding.recv (d : Fin 16) (a : Fin 16) (b : Fin 16) (ds : Sel) : Laws.Encoding.Statement (.recv d a b ds) := by
  have e0 := d.isLt; have e1 := a.isLt; have e2 := b.isLt; have e3 := ds.code_lt
  refine ⟨by omega, by omega, ?_⟩
  rw [show (1207959552 + d.val * 1048576 + a.val * 65536 + b.val * 4096 + ds.code) / 16777216 = 72 by omega]; rfl
theorem Laws.Encoding.poll (d : Fin 16) (b : Fin 16) : Laws.Encoding.Statement (.poll d b) := by
  have e0 := d.isLt; have e1 := b.isLt
  refine ⟨by omega, by omega, ?_⟩
  rw [show (1224736768 + d.val * 1048576 + b.val * 4096) / 16777216 = 73 by omega]; rfl
theorem Laws.Encoding.deleg (rc : Fin 16) (ra : Fin 16) (rr : Fin 16) (ds : Sel) (nte : Bool) (ctag : BitVec 8) : Laws.Encoding.Statement (.deleg rc ra rr ds nte ctag) := by
  have e0 := rc.isLt; have e1 := ra.isLt; have e2 := rr.isLt; have e3 := ds.code_lt; have e4 := nte.toNat_lt; have e5 := ctag.isLt
  refine ⟨by omega, by omega, ?_⟩
  rw [show (1241513984 + rc.val * 1048576 + ra.val * 65536 + rr.val * 4096 + ds.code * 1024 + nte.toNat * 512 + ctag.toNat) / 16777216 = 74 by omega]; rfl
theorem Laws.Encoding.delegOn (ds : Sel) : Laws.Encoding.Statement (.delegOn ds) := by
  have e0 := ds.code_lt
  refine ⟨by omega, by omega, ?_⟩
  rw [show (1241513984 + ds.code * 1024) / 16777216 = 74 by omega]; rfl
theorem Laws.Encoding.delegOff : Laws.Encoding.Statement (.delegOff) := ⟨by decide, by decide, by decide⟩
theorem Laws.Encoding.home (d : Fin 16) (a : Fin 16) (b : Fin 16) (ds : Sel) : Laws.Encoding.Statement (.home d a b ds) := by
  have e0 := d.isLt; have e1 := a.isLt; have e2 := b.isLt; have e3 := ds.code_lt
  refine ⟨by omega, by omega, ?_⟩
  rw [show (1258291200 + d.val * 1048576 + a.val * 65536 + b.val * 4096 + ds.code) / 16777216 = 75 by omega]; rfl
theorem Laws.Encoding.fork (d : BitVec 24) : Laws.Encoding.Statement (.fork d) := by
  have e0 := d.isLt
  refine ⟨by omega, by omega, ?_⟩
  rw [show (1275068416 + d.toNat) / 16777216 = 76 by omega]; rfl
theorem Laws.Encoding.join (ds : Sel) : Laws.Encoding.Statement (.join ds) := by
  have e0 := ds.code_lt
  refine ⟨by omega, by omega, ?_⟩
  rw [show (1291845632 + ds.code) / 16777216 = 77 by omega]; rfl
theorem Laws.Encoding.done : Laws.Encoding.Statement (.done) := ⟨by decide, by decide, by decide⟩
theorem Laws.Encoding.yield (ds : Sel) : Laws.Encoding.Statement (.yield ds) := by
  have e0 := ds.code_lt
  refine ⟨by omega, by omega, ?_⟩
  rw [show (1325400064 + ds.code) / 16777216 = 79 by omega]; rfl
theorem Laws.Encoding.irrev (ds : Sel) : Laws.Encoding.Statement (.irrev ds) := by
  have e0 := ds.code_lt
  refine ⟨by omega, by omega, ?_⟩
  rw [show (1342177280 + ds.code) / 16777216 = 80 by omega]; rfl
theorem Laws.Encoding.migrate (a : Fin 16) (ds : Sel) : Laws.Encoding.Statement (.migrate a ds) := by
  have e0 := a.isLt; have e1 := ds.code_lt
  refine ⟨by omega, by omega, ?_⟩
  rw [show (1358954496 + a.val * 65536 + ds.code) / 16777216 = 81 by omega]; rfl
theorem Laws.Encoding.gang (d : Fin 16) (a : Fin 16) (ds : Sel) : Laws.Encoding.Statement (.gang d a ds) := by
  have e0 := d.isLt; have e1 := a.isLt; have e2 := ds.code_lt
  refine ⟨by omega, by omega, ?_⟩
  rw [show (1375731712 + d.val * 1048576 + a.val * 65536 + ds.code) / 16777216 = 82 by omega]; rfl
theorem Laws.Encoding.rejoin (d : Fin 16) (ds : Sel) : Laws.Encoding.Statement (.rejoin d ds) := by
  have e0 := d.isLt; have e1 := ds.code_lt
  refine ⟨by omega, by omega, ?_⟩
  rw [show (1392508928 + d.val * 1048576 + ds.code) / 16777216 = 83 by omega]; rfl
theorem Laws.Encoding.nodeNew (d : Fin 16) (a : Fin 16) (t : Fin 16) (ds : Sel) (count : BitVec 16) : Laws.Encoding.Statement (.nodeNew d a t ds count) := by
  have e0 := d.isLt; have e1 := a.isLt; have e2 := t.isLt; have e3 := ds.code_lt; have e4 := count.isLt
  refine ⟨by omega, by omega, ?_⟩
  rw [show (1409286144 + d.val * 1048576 + a.val * 65536 + t.val * 4096 + ds.code * 1024) / 16777216 = 84 by omega]; rfl
theorem Laws.Encoding.nodeDec (a : Fin 16) (ds : Sel) : Laws.Encoding.Statement (.nodeDec a ds) := by
  have e0 := a.isLt; have e1 := ds.code_lt
  refine ⟨by omega, by omega, ?_⟩
  rw [show (1426063360 + a.val * 65536 + ds.code) / 16777216 = 85 by omega]; rfl
theorem Laws.Encoding.tagEn (a : Fin 16) : Laws.Encoding.Statement (.tagEn a) := by
  have e0 := a.isLt
  refine ⟨by omega, by omega, ?_⟩
  rw [show (1442840576 + a.val * 65536) / 16777216 = 86 by omega]; rfl
theorem Laws.Encoding.tagDis (a : Fin 16) : Laws.Encoding.Statement (.tagDis a) := by
  have e0 := a.isLt
  refine ⟨by omega, by omega, ?_⟩
  rw [show (1442840576 + a.val * 65536 + 256) / 16777216 = 86 by omega]; rfl
theorem Laws.Encoding.tagPend (d : Fin 16) (a : Fin 16) : Laws.Encoding.Statement (.tagPend d a) := by
  have e0 := d.isLt; have e1 := a.isLt
  refine ⟨by omega, by omega, ?_⟩
  rw [show (1442840576 + d.val * 1048576 + a.val * 65536 + 512) / 16777216 = 86 by omega]; rfl
theorem Laws.Encoding.tagClr (d : Fin 16) (a : Fin 16) : Laws.Encoding.Statement (.tagClr d a) := by
  have e0 := d.isLt; have e1 := a.isLt
  refine ⟨by omega, by omega, ?_⟩
  rw [show (1442840576 + d.val * 1048576 + a.val * 65536 + 768) / 16777216 = 86 by omega]; rfl
theorem Laws.Encoding.lnew (d : Fin 16) (e : Fin 16) (rp : Fin 16) (pm : ParentMode) (cl : BitVec 2) (em : ExpiryMode) (adopt : Bool) : Laws.Encoding.Statement (.lnew d e rp pm cl em adopt) := by
  have e0 := d.isLt; have e1 := e.isLt; have e2 := rp.isLt; have e3 := pm.code_lt; have e4 := cl.isLt; have e5 := em.code_lt; have e6 := adopt.toNat_lt
  refine ⟨by omega, by omega, ?_⟩
  rw [show (1459617792 + d.val * 1048576 + e.val * 65536 + rp.val * 4096 + pm.code * 1024 + cl.toNat * 256) / 16777216 = 87 by omega]; rfl
theorem Laws.Encoding.lext (d : Fin 16) (a : Fin 16) (b : Fin 16) : Laws.Encoding.Statement (.lext d a b) := by
  have e0 := d.isLt; have e1 := a.isLt; have e2 := b.isLt
  refine ⟨by omega, by omega, ?_⟩
  rw [show (1476395008 + d.val * 1048576 + a.val * 65536 + b.val * 4096) / 16777216 = 88 by omega]; rfl
theorem Laws.Encoding.lannul (a : Fin 16) : Laws.Encoding.Statement (.lannul a) := by
  have e0 := a.isLt
  refine ⟨by omega, by omega, ?_⟩
  rw [show (1493172224 + a.val * 65536) / 16777216 = 89 by omega]; rfl
theorem Laws.Encoding.mma (f : MwFields) (kt : BitVec 7) : Laws.Encoding.Statement (.mma f kt) := by
  have e0 := f.word0_lt; have e1 := f.word1_lt; have e2 := kt.isLt
  refine ⟨by omega, by omega, ?_⟩
  rw [show (1509949440 + f.word0) / 16777216 = 90 by omega]; rfl
theorem Laws.Encoding.mzero (a : Fin 16) (ds : Sel) : Laws.Encoding.Statement (.mzero a ds) := by
  have e0 := a.isLt; have e1 := ds.code_lt
  refine ⟨by omega, by omega, ?_⟩
  rw [show (1526726656 + a.val * 65536 + ds.code) / 16777216 = 91 by omega]; rfl
theorem Laws.Encoding.mdrain (f : MwFields) (dty : Ty) (sat : Bool) : Laws.Encoding.Statement (.mdrain f dty sat) := by
  have e0 := f.word0_lt; have e1 := f.word1_lt; have e2 := dty.code_lt; have e3 := sat.toNat_lt
  refine ⟨by omega, by omega, ?_⟩
  rw [show (1543503872 + f.word0) / 16777216 = 92 by omega]; rfl
theorem Laws.Encoding.hlease (ds : Sel) : Laws.Encoding.Statement (.hlease ds) := by
  have e0 := ds.code_lt
  refine ⟨by omega, by omega, ?_⟩
  rw [show (1560281088 + ds.code) / 16777216 = 93 by omega]; rfl
theorem Laws.Encoding.hrelease : Laws.Encoding.Statement (.hrelease) := ⟨by decide, by decide, by decide⟩
theorem Laws.Encoding.hldw (f : MwFields) (org : Origin) (stg : Bool) : Laws.Encoding.Statement (.hldw f org stg) := by
  have e0 := f.word0_lt; have e1 := f.word1_lt; have e2 := org.code_lt; have e3 := stg.toNat_lt
  refine ⟨by omega, by omega, ?_⟩
  rw [show (1593835520 + f.word0) / 16777216 = 95 by omega]; rfl
theorem Laws.Encoding.hswap (ds : Sel) : Laws.Encoding.Statement (.hswap ds) := by
  have e0 := ds.code_lt
  refine ⟨by omega, by omega, ?_⟩
  rw [show (1610612736 + ds.code) / 16777216 = 96 by omega]; rfl
theorem Laws.Encoding.hstream (f : MwFields) (org : Origin) (m1 : BitVec 6) (acc0 : BitVec 6) (za : Bool) : Laws.Encoding.Statement (.hstream f org m1 acc0 za) := by
  have e0 := f.word0_lt; have e1 := f.word1_lt; have e2 := org.code_lt; have e3 := m1.isLt; have e4 := acc0.isLt; have e5 := za.toNat_lt
  refine ⟨by omega, by omega, ?_⟩
  rw [show (1627389952 + f.word0) / 16777216 = 97 by omega]; rfl
theorem Laws.Encoding.hdrain (f : MwFields) (dest : DrainDest) (n1 : BitVec 6) (acc0 : BitVec 6) (z : Bool) : Laws.Encoding.Statement (.hdrain f dest n1 acc0 z) := by
  have e0 := f.word0_lt; have e1 := f.word1_lt; have e2 := dest.code_lt; have e3 := n1.isLt; have e4 := acc0.isLt; have e5 := z.toNat_lt
  refine ⟨by omega, by omega, ?_⟩
  rw [show (1644167168 + f.word0) / 16777216 = 98 by omega]; rfl
theorem Laws.Encoding.hsave (f : MwFields) (loc : Origin) (n1 : BitVec 6) (acc0 : BitVec 6) : Laws.Encoding.Statement (.hsave f loc n1 acc0) := by
  have e0 := f.word0_lt; have e1 := f.word1_lt; have e2 := loc.code_lt; have e3 := n1.isLt; have e4 := acc0.isLt
  refine ⟨by omega, by omega, ?_⟩
  rw [show (1660944384 + f.word0) / 16777216 = 99 by omega]; rfl
theorem Laws.Encoding.hrestore (f : MwFields) (loc : Origin) (n1 : BitVec 6) (acc0 : BitVec 6) : Laws.Encoding.Statement (.hrestore f loc n1 acc0) := by
  have e0 := f.word0_lt; have e1 := f.word1_lt; have e2 := loc.code_lt; have e3 := n1.isLt; have e4 := acc0.isLt
  refine ⟨by omega, by omega, ?_⟩
  rw [show (1677721600 + f.word0) / 16777216 = 100 by omega]; rfl
theorem Laws.Encoding.boost875 (d : Fin 16) (ds : Sel) : Laws.Encoding.Statement (.boost875 d ds) := by
  have e0 := d.isLt; have e1 := ds.code_lt
  refine ⟨by omega, by omega, ?_⟩
  rw [show (1694498816 + d.val * 1048576 + ds.code) / 16777216 = 101 by omega]; rfl
theorem Laws.Encoding.boost1050 (d : Fin 16) (ds : Sel) : Laws.Encoding.Statement (.boost1050 d ds) := by
  have e0 := d.isLt; have e1 := ds.code_lt
  refine ⟨by omega, by omega, ?_⟩
  rw [show (1694498816 + d.val * 1048576 + ds.code + 256) / 16777216 = 101 by omega]; rfl
theorem Laws.Encoding.boostOff (d : Fin 16) : Laws.Encoding.Statement (.boostOff d) := by
  have e0 := d.isLt
  refine ⟨by omega, by omega, ?_⟩
  rw [show (1694498816 + d.val * 1048576 + 512) / 16777216 = 101 by omega]; rfl
theorem Laws.Encoding.dload (t : Fin 16) (m : CgAddr) : Laws.Encoding.Statement (.dload t m) := by
  have e0 := t.isLt; have e1 := m.bits_lt
  refine ⟨by omega, by omega, ?_⟩
  rw [show (1811939328 + t.val * 1048576 + m.bits) / 16777216 = 108 by omega]; rfl
theorem Laws.Encoding.dset (a : Fin 16) : Laws.Encoding.Statement (.dset a) := by
  have e0 := a.isLt
  refine ⟨by omega, by omega, ?_⟩
  rw [show (1828716544 + a.val * 65536) / 16777216 = 109 by omega]; rfl
theorem Laws.Encoding.dfence : Laws.Encoding.Statement (.dfence) := ⟨by decide, by decide, by decide⟩
theorem Laws.Encoding.dx (idx : BitVec 8) (h0 : BitVec 6) (h1 : BitVec 6) (h2 : BitVec 4) : Laws.Encoding.Statement (.dx idx h0 h1 h2) := by
  have e0 := idx.isLt; have e1 := h0.isLt; have e2 := h1.isLt; have e3 := h2.isLt
  refine ⟨by omega, by omega, ?_⟩
  rw [show (2130706432 + idx.toNat * 65536 + h0.toNat * 1024 + h1.toNat * 16 + h2.toNat) / 16777216 = 127 by omega]; rfl
theorem Laws.Encoding.nopA : Laws.Encoding.Statement (.nopA) := (by decide : _ < 4294967296)
theorem Laws.Encoding.add (d : Fin 16) (a : Fin 16) (b : Fin 16) (ty : Ty) : Laws.Encoding.Statement (.add d a b ty) := by
  have e0 := d.isLt; have e1 := a.isLt; have e2 := b.isLt; have e3 := ty.code_lt
  show (33554432 + d.val * 2097152 + a.val * 131072 + b.val * 8192 + ty.code * 32) < 4294967296
  omega
theorem Laws.Encoding.sub (d : Fin 16) (a : Fin 16) (b : Fin 16) (ty : Ty) : Laws.Encoding.Statement (.sub d a b ty) := by
  have e0 := d.isLt; have e1 := a.isLt; have e2 := b.isLt; have e3 := ty.code_lt
  show (67108864 + d.val * 2097152 + a.val * 131072 + b.val * 8192 + ty.code * 32) < 4294967296
  omega
theorem Laws.Encoding.mul (d : Fin 16) (a : Fin 16) (b : Fin 16) (ty : Ty) : Laws.Encoding.Statement (.mul d a b ty) := by
  have e0 := d.isLt; have e1 := a.isLt; have e2 := b.isLt; have e3 := ty.code_lt
  show (100663296 + d.val * 2097152 + a.val * 131072 + b.val * 8192 + ty.code * 32) < 4294967296
  omega
theorem Laws.Encoding.mulh (d : Fin 16) (a : Fin 16) (b : Fin 16) (ty : Ty) : Laws.Encoding.Statement (.mulh d a b ty) := by
  have e0 := d.isLt; have e1 := a.isLt; have e2 := b.isLt; have e3 := ty.code_lt
  show (134217728 + d.val * 2097152 + a.val * 131072 + b.val * 8192 + ty.code * 32) < 4294967296
  omega
theorem Laws.Encoding.mulhz (d : Fin 16) (a : Fin 16) (b : Fin 16) (ty : Ty) : Laws.Encoding.Statement (.mulhz d a b ty) := by
  have e0 := d.isLt; have e1 := a.isLt; have e2 := b.isLt; have e3 := ty.code_lt
  show (167772160 + d.val * 2097152 + a.val * 131072 + b.val * 8192 + ty.code * 32) < 4294967296
  omega
theorem Laws.Encoding.div (d : Fin 16) (a : Fin 16) (b : Fin 16) (ty : Ty) : Laws.Encoding.Statement (.div d a b ty) := by
  have e0 := d.isLt; have e1 := a.isLt; have e2 := b.isLt; have e3 := ty.code_lt
  show (201326592 + d.val * 2097152 + a.val * 131072 + b.val * 8192 + ty.code * 32) < 4294967296
  omega
theorem Laws.Encoding.divz (d : Fin 16) (a : Fin 16) (b : Fin 16) (ty : Ty) : Laws.Encoding.Statement (.divz d a b ty) := by
  have e0 := d.isLt; have e1 := a.isLt; have e2 := b.isLt; have e3 := ty.code_lt
  show (234881024 + d.val * 2097152 + a.val * 131072 + b.val * 8192 + ty.code * 32) < 4294967296
  omega
theorem Laws.Encoding.rem (d : Fin 16) (a : Fin 16) (b : Fin 16) (ty : Ty) : Laws.Encoding.Statement (.rem d a b ty) := by
  have e0 := d.isLt; have e1 := a.isLt; have e2 := b.isLt; have e3 := ty.code_lt
  show (268435456 + d.val * 2097152 + a.val * 131072 + b.val * 8192 + ty.code * 32) < 4294967296
  omega
theorem Laws.Encoding.remz (d : Fin 16) (a : Fin 16) (b : Fin 16) (ty : Ty) : Laws.Encoding.Statement (.remz d a b ty) := by
  have e0 := d.isLt; have e1 := a.isLt; have e2 := b.isLt; have e3 := ty.code_lt
  show (301989888 + d.val * 2097152 + a.val * 131072 + b.val * 8192 + ty.code * 32) < 4294967296
  omega
theorem Laws.Encoding.and (d : Fin 16) (a : Fin 16) (b : Fin 16) (ty : Ty) : Laws.Encoding.Statement (.and d a b ty) := by
  have e0 := d.isLt; have e1 := a.isLt; have e2 := b.isLt; have e3 := ty.code_lt
  show (335544320 + d.val * 2097152 + a.val * 131072 + b.val * 8192 + ty.code * 32) < 4294967296
  omega
theorem Laws.Encoding.or (d : Fin 16) (a : Fin 16) (b : Fin 16) (ty : Ty) : Laws.Encoding.Statement (.or d a b ty) := by
  have e0 := d.isLt; have e1 := a.isLt; have e2 := b.isLt; have e3 := ty.code_lt
  show (369098752 + d.val * 2097152 + a.val * 131072 + b.val * 8192 + ty.code * 32) < 4294967296
  omega
theorem Laws.Encoding.xor (d : Fin 16) (a : Fin 16) (b : Fin 16) (ty : Ty) : Laws.Encoding.Statement (.xor d a b ty) := by
  have e0 := d.isLt; have e1 := a.isLt; have e2 := b.isLt; have e3 := ty.code_lt
  show (402653184 + d.val * 2097152 + a.val * 131072 + b.val * 8192 + ty.code * 32) < 4294967296
  omega
theorem Laws.Encoding.andn (d : Fin 16) (a : Fin 16) (b : Fin 16) (ty : Ty) : Laws.Encoding.Statement (.andn d a b ty) := by
  have e0 := d.isLt; have e1 := a.isLt; have e2 := b.isLt; have e3 := ty.code_lt
  show (436207616 + d.val * 2097152 + a.val * 131072 + b.val * 8192 + ty.code * 32) < 4294967296
  omega
theorem Laws.Encoding.shl (d : Fin 16) (a : Fin 16) (b : Fin 16) (ty : Ty) : Laws.Encoding.Statement (.shl d a b ty) := by
  have e0 := d.isLt; have e1 := a.isLt; have e2 := b.isLt; have e3 := ty.code_lt
  show (469762048 + d.val * 2097152 + a.val * 131072 + b.val * 8192 + ty.code * 32) < 4294967296
  omega
theorem Laws.Encoding.shr (d : Fin 16) (a : Fin 16) (b : Fin 16) (ty : Ty) : Laws.Encoding.Statement (.shr d a b ty) := by
  have e0 := d.isLt; have e1 := a.isLt; have e2 := b.isLt; have e3 := ty.code_lt
  show (503316480 + d.val * 2097152 + a.val * 131072 + b.val * 8192 + ty.code * 32) < 4294967296
  omega
theorem Laws.Encoding.sra (d : Fin 16) (a : Fin 16) (b : Fin 16) (ty : Ty) : Laws.Encoding.Statement (.sra d a b ty) := by
  have e0 := d.isLt; have e1 := a.isLt; have e2 := b.isLt; have e3 := ty.code_lt
  show (536870912 + d.val * 2097152 + a.val * 131072 + b.val * 8192 + ty.code * 32) < 4294967296
  omega
theorem Laws.Encoding.rotl (d : Fin 16) (a : Fin 16) (b : Fin 16) (ty : Ty) : Laws.Encoding.Statement (.rotl d a b ty) := by
  have e0 := d.isLt; have e1 := a.isLt; have e2 := b.isLt; have e3 := ty.code_lt
  show (570425344 + d.val * 2097152 + a.val * 131072 + b.val * 8192 + ty.code * 32) < 4294967296
  omega
theorem Laws.Encoding.clz (d : Fin 16) (a : Fin 16) (ty : Ty) : Laws.Encoding.Statement (.clz d a ty) := by
  have e0 := d.isLt; have e1 := a.isLt; have e2 := ty.code_lt
  show (603979776 + d.val * 2097152 + a.val * 131072 + ty.code * 32) < 4294967296
  omega
theorem Laws.Encoding.ctz (d : Fin 16) (a : Fin 16) (ty : Ty) : Laws.Encoding.Statement (.ctz d a ty) := by
  have e0 := d.isLt; have e1 := a.isLt; have e2 := ty.code_lt
  show (637534208 + d.val * 2097152 + a.val * 131072 + ty.code * 32) < 4294967296
  omega
theorem Laws.Encoding.popc (d : Fin 16) (a : Fin 16) (ty : Ty) : Laws.Encoding.Statement (.popc d a ty) := by
  have e0 := d.isLt; have e1 := a.isLt; have e2 := ty.code_lt
  show (671088640 + d.val * 2097152 + a.val * 131072 + ty.code * 32) < 4294967296
  omega
theorem Laws.Encoding.min (d : Fin 16) (a : Fin 16) (b : Fin 16) (ty : Ty) : Laws.Encoding.Statement (.min d a b ty) := by
  have e0 := d.isLt; have e1 := a.isLt; have e2 := b.isLt; have e3 := ty.code_lt
  show (704643072 + d.val * 2097152 + a.val * 131072 + b.val * 8192 + ty.code * 32) < 4294967296
  omega
theorem Laws.Encoding.max (d : Fin 16) (a : Fin 16) (b : Fin 16) (ty : Ty) : Laws.Encoding.Statement (.max d a b ty) := by
  have e0 := d.isLt; have e1 := a.isLt; have e2 := b.isLt; have e3 := ty.code_lt
  show (738197504 + d.val * 2097152 + a.val * 131072 + b.val * 8192 + ty.code * 32) < 4294967296
  omega
theorem Laws.Encoding.minz (d : Fin 16) (a : Fin 16) (b : Fin 16) (ty : Ty) : Laws.Encoding.Statement (.minz d a b ty) := by
  have e0 := d.isLt; have e1 := a.isLt; have e2 := b.isLt; have e3 := ty.code_lt
  show (771751936 + d.val * 2097152 + a.val * 131072 + b.val * 8192 + ty.code * 32) < 4294967296
  omega
theorem Laws.Encoding.maxz (d : Fin 16) (a : Fin 16) (b : Fin 16) (ty : Ty) : Laws.Encoding.Statement (.maxz d a b ty) := by
  have e0 := d.isLt; have e1 := a.isLt; have e2 := b.isLt; have e3 := ty.code_lt
  show (805306368 + d.val * 2097152 + a.val * 131072 + b.val * 8192 + ty.code * 32) < 4294967296
  omega
theorem Laws.Encoding.bfx (d : Fin 16) (a : Fin 16) (b : Fin 16) : Laws.Encoding.Statement (.bfx d a b) := by
  have e0 := d.isLt; have e1 := a.isLt; have e2 := b.isLt
  show (838860800 + d.val * 2097152 + a.val * 131072 + b.val * 8192 + 96) < 4294967296
  omega
theorem Laws.Encoding.bfi (d : Fin 16) (a : Fin 16) (b : Fin 16) : Laws.Encoding.Statement (.bfi d a b) := by
  have e0 := d.isLt; have e1 := a.isLt; have e2 := b.isLt
  show (872415232 + d.val * 2097152 + a.val * 131072 + b.val * 8192 + 96) < 4294967296
  omega
theorem Laws.Encoding.lea (d : Fin 16) (a : Fin 16) (b : Fin 16) (s : Fin 4) : Laws.Encoding.Statement (.lea d a b s) := by
  have e0 := d.isLt; have e1 := a.isLt; have e2 := b.isLt; have e3 := s.isLt
  show (905969664 + d.val * 2097152 + a.val * 131072 + b.val * 8192 + s.val + 96) < 4294967296
  omega
theorem Laws.Encoding.addiA (d : Fin 16) (a : Fin 16) (imm : BitVec 17) : Laws.Encoding.Statement (.addiA d a imm) := by
  have e0 := d.isLt; have e1 := a.isLt; have e2 := imm.isLt
  show (939524096 + d.val * 2097152 + a.val * 131072 + imm.toNat) < 4294967296
  omega
theorem Laws.Encoding.moviA (d : Fin 16) (imm : BitVec 17) : Laws.Encoding.Statement (.moviA d imm) := by
  have e0 := d.isLt; have e1 := imm.isLt
  show (973078528 + d.val * 2097152 + imm.toNat) < 4294967296
  omega
theorem Laws.Encoding.mulImm (d : Fin 16) (a : Fin 16) (imm : BitVec 17) : Laws.Encoding.Statement (.mulImm d a imm) := by
  have e0 := d.isLt; have e1 := a.isLt; have e2 := imm.isLt
  show (1006632960 + d.val * 2097152 + a.val * 131072 + imm.toNat) < 4294967296
  omega
theorem Laws.Encoding.andImm (d : Fin 16) (a : Fin 16) (imm : BitVec 17) : Laws.Encoding.Statement (.andImm d a imm) := by
  have e0 := d.isLt; have e1 := a.isLt; have e2 := imm.isLt
  show (1040187392 + d.val * 2097152 + a.val * 131072 + imm.toNat) < 4294967296
  omega
theorem Laws.Encoding.orImm (d : Fin 16) (a : Fin 16) (imm : BitVec 17) : Laws.Encoding.Statement (.orImm d a imm) := by
  have e0 := d.isLt; have e1 := a.isLt; have e2 := imm.isLt
  show (1073741824 + d.val * 2097152 + a.val * 131072 + imm.toNat) < 4294967296
  omega
theorem Laws.Encoding.xorImm (d : Fin 16) (a : Fin 16) (imm : BitVec 17) : Laws.Encoding.Statement (.xorImm d a imm) := by
  have e0 := d.isLt; have e1 := a.isLt; have e2 := imm.isLt
  show (1107296256 + d.val * 2097152 + a.val * 131072 + imm.toNat) < 4294967296
  omega
theorem Laws.Encoding.shlImm (d : Fin 16) (a : Fin 16) (k : BitVec 6) : Laws.Encoding.Statement (.shlImm d a k) := by
  have e0 := d.isLt; have e1 := a.isLt; have e2 := k.isLt
  show (1140850688 + d.val * 2097152 + a.val * 131072 + k.toNat) < 4294967296
  omega
theorem Laws.Encoding.shrImm (d : Fin 16) (a : Fin 16) (k : BitVec 6) : Laws.Encoding.Statement (.shrImm d a k) := by
  have e0 := d.isLt; have e1 := a.isLt; have e2 := k.isLt
  show (1174405120 + d.val * 2097152 + a.val * 131072 + k.toNat) < 4294967296
  omega
theorem Laws.Encoding.sraImm (d : Fin 16) (a : Fin 16) (k : BitVec 6) : Laws.Encoding.Statement (.sraImm d a k) := by
  have e0 := d.isLt; have e1 := a.isLt; have e2 := k.isLt
  show (1207959552 + d.val * 2097152 + a.val * 131072 + k.toNat) < 4294967296
  omega
theorem Laws.Encoding.rotlImm (d : Fin 16) (a : Fin 16) (k : BitVec 6) : Laws.Encoding.Statement (.rotlImm d a k) := by
  have e0 := d.isLt; have e1 := a.isLt; have e2 := k.isLt
  show (1241513984 + d.val * 2097152 + a.val * 131072 + k.toNat) < 4294967296
  omega
theorem Laws.Encoding.minImm (d : Fin 16) (a : Fin 16) (imm : BitVec 17) : Laws.Encoding.Statement (.minImm d a imm) := by
  have e0 := d.isLt; have e1 := a.isLt; have e2 := imm.isLt
  show (1275068416 + d.val * 2097152 + a.val * 131072 + imm.toNat) < 4294967296
  omega
theorem Laws.Encoding.maxImm (d : Fin 16) (a : Fin 16) (imm : BitVec 17) : Laws.Encoding.Statement (.maxImm d a imm) := by
  have e0 := d.isLt; have e1 := a.isLt; have e2 := imm.isLt
  show (1308622848 + d.val * 2097152 + a.val * 131072 + imm.toNat) < 4294967296
  omega
theorem Laws.Encoding.minzImm (d : Fin 16) (a : Fin 16) (imm : BitVec 17) : Laws.Encoding.Statement (.minzImm d a imm) := by
  have e0 := d.isLt; have e1 := a.isLt; have e2 := imm.isLt
  show (1342177280 + d.val * 2097152 + a.val * 131072 + imm.toNat) < 4294967296
  omega
theorem Laws.Encoding.maxzImm (d : Fin 16) (a : Fin 16) (imm : BitVec 17) : Laws.Encoding.Statement (.maxzImm d a imm) := by
  have e0 := d.isLt; have e1 := a.isLt; have e2 := imm.isLt
  show (1375731712 + d.val * 2097152 + a.val * 131072 + imm.toNat) < 4294967296
  omega
theorem Laws.Encoding.bfxImm (d : Fin 16) (a : Fin 16) (desc : BitVec 13) : Laws.Encoding.Statement (.bfxImm d a desc) := by
  have e0 := d.isLt; have e1 := a.isLt; have e2 := desc.isLt
  show (1409286144 + d.val * 2097152 + a.val * 131072 + desc.toNat) < 4294967296
  omega
theorem Laws.Encoding.bfiImm (d : Fin 16) (a : Fin 16) (desc : BitVec 13) : Laws.Encoding.Statement (.bfiImm d a desc) := by
  have e0 := d.isLt; have e1 := a.isLt; have e2 := desc.isLt
  show (1442840576 + d.val * 2097152 + a.val * 131072 + desc.toNat) < 4294967296
  omega
theorem Laws.Encoding.fadd (d : Fin 16) (a : Fin 16) (b : Fin 16) (ty : Ty) : Laws.Encoding.Statement (.fadd d a b ty) := by
  have e0 := d.isLt; have e1 := a.isLt; have e2 := b.isLt; have e3 := ty.code_lt
  show (1610612736 + d.val * 2097152 + a.val * 131072 + b.val * 8192 + ty.code * 32) < 4294967296
  omega
theorem Laws.Encoding.fsub (d : Fin 16) (a : Fin 16) (b : Fin 16) (ty : Ty) : Laws.Encoding.Statement (.fsub d a b ty) := by
  have e0 := d.isLt; have e1 := a.isLt; have e2 := b.isLt; have e3 := ty.code_lt
  show (1644167168 + d.val * 2097152 + a.val * 131072 + b.val * 8192 + ty.code * 32) < 4294967296
  omega
theorem Laws.Encoding.fmul (d : Fin 16) (a : Fin 16) (b : Fin 16) (ty : Ty) : Laws.Encoding.Statement (.fmul d a b ty) := by
  have e0 := d.isLt; have e1 := a.isLt; have e2 := b.isLt; have e3 := ty.code_lt
  show (1677721600 + d.val * 2097152 + a.val * 131072 + b.val * 8192 + ty.code * 32) < 4294967296
  omega
theorem Laws.Encoding.ffma (d : Fin 16) (a : Fin 16) (b : Fin 16) (c : Fin 16) (ty : Ty) : Laws.Encoding.Statement (.ffma d a b c ty) := by
  have e0 := d.isLt; have e1 := a.isLt; have e2 := b.isLt; have e3 := c.isLt; have e4 := ty.code_lt
  show (1711276032 + d.val * 2097152 + a.val * 131072 + b.val * 8192 + c.val * 512 + ty.code * 32) < 4294967296
  omega
theorem Laws.Encoding.fmin (d : Fin 16) (a : Fin 16) (b : Fin 16) (ty : Ty) : Laws.Encoding.Statement (.fmin d a b ty) := by
  have e0 := d.isLt; have e1 := a.isLt; have e2 := b.isLt; have e3 := ty.code_lt
  show (1744830464 + d.val * 2097152 + a.val * 131072 + b.val * 8192 + ty.code * 32) < 4294967296
  omega
theorem Laws.Encoding.fmax (d : Fin 16) (a : Fin 16) (b : Fin 16) (ty : Ty) : Laws.Encoding.Statement (.fmax d a b ty) := by
  have e0 := d.isLt; have e1 := a.isLt; have e2 := b.isLt; have e3 := ty.code_lt
  show (1778384896 + d.val * 2097152 + a.val * 131072 + b.val * 8192 + ty.code * 32) < 4294967296
  omega
theorem Laws.Encoding.fsgn (d : Fin 16) (a : Fin 16) (b : Fin 16) (ty : Ty) : Laws.Encoding.Statement (.fsgn d a b ty) := by
  have e0 := d.isLt; have e1 := a.isLt; have e2 := b.isLt; have e3 := ty.code_lt
  show (1811939328 + d.val * 2097152 + a.val * 131072 + b.val * 8192 + ty.code * 32) < 4294967296
  omega
theorem Laws.Encoding.fsgnN (d : Fin 16) (a : Fin 16) (b : Fin 16) (ty : Ty) : Laws.Encoding.Statement (.fsgnN d a b ty) := by
  have e0 := d.isLt; have e1 := a.isLt; have e2 := b.isLt; have e3 := ty.code_lt
  show (1811939328 + d.val * 2097152 + a.val * 131072 + b.val * 8192 + ty.code * 32 + 1) < 4294967296
  omega
theorem Laws.Encoding.fsgnX (d : Fin 16) (a : Fin 16) (b : Fin 16) (ty : Ty) : Laws.Encoding.Statement (.fsgnX d a b ty) := by
  have e0 := d.isLt; have e1 := a.isLt; have e2 := b.isLt; have e3 := ty.code_lt
  show (1811939328 + d.val * 2097152 + a.val * 131072 + b.val * 8192 + ty.code * 32 + 2) < 4294967296
  omega
theorem Laws.Encoding.fcmp (d : Fin 4) (a : Fin 16) (b : Fin 16) (ty : Ty) (cc : FCc) : Laws.Encoding.Statement (.fcmp d a b ty cc) := by
  have e0 := d.isLt; have e1 := a.isLt; have e2 := b.isLt; have e3 := ty.code_lt; have e4 := cc.code_lt
  show (1845493760 + d.val * 2097152 + a.val * 131072 + b.val * 8192 + ty.code * 32 + cc.code) < 4294967296
  omega
theorem Laws.Encoding.fcvt (d : Fin 16) (a : Fin 16) (ty : Ty) (sat : Bool) (src : Ty) : Laws.Encoding.Statement (.fcvt d a ty sat src) := by
  have e0 := d.isLt; have e1 := a.isLt; have e2 := ty.code_lt; have e3 := sat.toNat_lt; have e4 := src.code_lt
  show (1879048192 + d.val * 2097152 + a.val * 131072 + ty.code * 32 + sat.toNat * 16 + src.code) < 4294967296
  omega
theorem Laws.Encoding.frint (d : Fin 16) (a : Fin 16) (ty : Ty) (md : RMode) : Laws.Encoding.Statement (.frint d a ty md) := by
  have e0 := d.isLt; have e1 := a.isLt; have e2 := ty.code_lt; have e3 := md.code_lt
  show (1912602624 + d.val * 2097152 + a.val * 131072 + ty.code * 32 + md.code) < 4294967296
  omega
theorem Laws.Encoding.fexp2f (d : Fin 16) (a : Fin 16) : Laws.Encoding.Statement (.fexp2f d a) := by
  have e0 := d.isLt; have e1 := a.isLt
  show (1946157056 + d.val * 2097152 + a.val * 131072 + 256) < 4294967296
  omega
theorem Laws.Encoding.fscaleb (d : Fin 16) (a : Fin 16) (b : Fin 16) (ty : Ty) : Laws.Encoding.Statement (.fscaleb d a b ty) := by
  have e0 := d.isLt; have e1 := a.isLt; have e2 := b.isLt; have e3 := ty.code_lt
  show (1979711488 + d.val * 2097152 + a.val * 131072 + b.val * 8192 + ty.code * 32) < 4294967296
  omega
theorem Laws.Encoding.fclass (d : Fin 16) (a : Fin 16) (ty : Ty) : Laws.Encoding.Statement (.fclass d a ty) := by
  have e0 := d.isLt; have e1 := a.isLt; have e2 := ty.code_lt
  show (2013265920 + d.val * 2097152 + a.val * 131072 + ty.code * 32) < 4294967296
  omega
theorem Laws.Encoding.frcp (d : Fin 16) (a : Fin 16) (ty : Ty) : Laws.Encoding.Statement (.frcp d a ty) := by
  have e0 := d.isLt; have e1 := a.isLt; have e2 := ty.code_lt
  show (2046820352 + d.val * 2097152 + a.val * 131072 + ty.code * 32) < 4294967296
  omega
theorem Laws.Encoding.frsq (d : Fin 16) (a : Fin 16) (ty : Ty) : Laws.Encoding.Statement (.frsq d a ty) := by
  have e0 := d.isLt; have e1 := a.isLt; have e2 := ty.code_lt
  show (2080374784 + d.val * 2097152 + a.val * 131072 + ty.code * 32) < 4294967296
  omega
theorem Laws.Encoding.fsqrt (d : Fin 16) (a : Fin 16) (ty : Ty) : Laws.Encoding.Statement (.fsqrt d a ty) := by
  have e0 := d.isLt; have e1 := a.isLt; have e2 := ty.code_lt
  show (2113929216 + d.val * 2097152 + a.val * 131072 + ty.code * 32) < 4294967296
  omega
theorem Laws.Encoding.vadd (d : Fin 16) (a : Fin 16) (b : Fin 16) (k : VMask) (ty : Ty) (fn : Bool) : Laws.Encoding.Statement (.vadd d a b k ty fn) := by
  have e0 := d.isLt; have e1 := a.isLt; have e2 := b.isLt; have e3 := k.bits_lt; have e4 := ty.code_lt; have e5 := fn.toNat_lt
  show (2147483648 + d.val * 2097152 + a.val * 131072 + b.val * 8192 + k.bits + ty.code * 2 + fn.toNat) < 4294967296
  omega
theorem Laws.Encoding.vsub (d : Fin 16) (a : Fin 16) (b : Fin 16) (k : VMask) (ty : Ty) (fn : Bool) : Laws.Encoding.Statement (.vsub d a b k ty fn) := by
  have e0 := d.isLt; have e1 := a.isLt; have e2 := b.isLt; have e3 := k.bits_lt; have e4 := ty.code_lt; have e5 := fn.toNat_lt
  show (2181038080 + d.val * 2097152 + a.val * 131072 + b.val * 8192 + k.bits + ty.code * 2 + fn.toNat) < 4294967296
  omega
theorem Laws.Encoding.vmul (d : Fin 16) (a : Fin 16) (b : Fin 16) (k : VMask) (ty : Ty) : Laws.Encoding.Statement (.vmul d a b k ty) := by
  have e0 := d.isLt; have e1 := a.isLt; have e2 := b.isLt; have e3 := k.bits_lt; have e4 := ty.code_lt
  show (2214592512 + d.val * 2097152 + a.val * 131072 + b.val * 8192 + k.bits + ty.code * 2) < 4294967296
  omega
theorem Laws.Encoding.vfma (d : Fin 16) (a : Fin 16) (b : Fin 16) (c : Fin 16) (k : VMask) (ty : Ty) : Laws.Encoding.Statement (.vfma d a b c k ty) := by
  have e0 := d.isLt; have e1 := a.isLt; have e2 := b.isLt; have e3 := c.isLt; have e4 := k.bits_lt; have e5 := ty.code_lt
  show (2248146944 + d.val * 2097152 + a.val * 131072 + b.val * 8192 + c.val * 512 + k.bits + ty.code * 2) < 4294967296
  omega
theorem Laws.Encoding.vmin (d : Fin 16) (a : Fin 16) (b : Fin 16) (k : VMask) (ty : Ty) (fn : Bool) : Laws.Encoding.Statement (.vmin d a b k ty fn) := by
  have e0 := d.isLt; have e1 := a.isLt; have e2 := b.isLt; have e3 := k.bits_lt; have e4 := ty.code_lt; have e5 := fn.toNat_lt
  show (2281701376 + d.val * 2097152 + a.val * 131072 + b.val * 8192 + k.bits + ty.code * 2 + fn.toNat) < 4294967296
  omega
theorem Laws.Encoding.vmax (d : Fin 16) (a : Fin 16) (b : Fin 16) (k : VMask) (ty : Ty) (fn : Bool) : Laws.Encoding.Statement (.vmax d a b k ty fn) := by
  have e0 := d.isLt; have e1 := a.isLt; have e2 := b.isLt; have e3 := k.bits_lt; have e4 := ty.code_lt; have e5 := fn.toNat_lt
  show (2315255808 + d.val * 2097152 + a.val * 131072 + b.val * 8192 + k.bits + ty.code * 2 + fn.toNat) < 4294967296
  omega
theorem Laws.Encoding.vand (d : Fin 16) (a : Fin 16) (b : Fin 16) (k : VMask) (ty : Ty) : Laws.Encoding.Statement (.vand d a b k ty) := by
  have e0 := d.isLt; have e1 := a.isLt; have e2 := b.isLt; have e3 := k.bits_lt; have e4 := ty.code_lt
  show (2348810240 + d.val * 2097152 + a.val * 131072 + b.val * 8192 + k.bits + ty.code * 2) < 4294967296
  omega
theorem Laws.Encoding.vor (d : Fin 16) (a : Fin 16) (b : Fin 16) (k : VMask) (ty : Ty) : Laws.Encoding.Statement (.vor d a b k ty) := by
  have e0 := d.isLt; have e1 := a.isLt; have e2 := b.isLt; have e3 := k.bits_lt; have e4 := ty.code_lt
  show (2382364672 + d.val * 2097152 + a.val * 131072 + b.val * 8192 + k.bits + ty.code * 2) < 4294967296
  omega
theorem Laws.Encoding.vxor (d : Fin 16) (a : Fin 16) (b : Fin 16) (k : VMask) (ty : Ty) : Laws.Encoding.Statement (.vxor d a b k ty) := by
  have e0 := d.isLt; have e1 := a.isLt; have e2 := b.isLt; have e3 := k.bits_lt; have e4 := ty.code_lt
  show (2415919104 + d.val * 2097152 + a.val * 131072 + b.val * 8192 + k.bits + ty.code * 2) < 4294967296
  omega
theorem Laws.Encoding.vshl (d : Fin 16) (a : Fin 16) (b : Fin 16) (k : VMask) (ty : Ty) : Laws.Encoding.Statement (.vshl d a b k ty) := by
  have e0 := d.isLt; have e1 := a.isLt; have e2 := b.isLt; have e3 := k.bits_lt; have e4 := ty.code_lt
  show (2449473536 + d.val * 2097152 + a.val * 131072 + b.val * 8192 + k.bits + ty.code * 2) < 4294967296
  omega
theorem Laws.Encoding.vshr (d : Fin 16) (a : Fin 16) (b : Fin 16) (k : VMask) (ty : Ty) : Laws.Encoding.Statement (.vshr d a b k ty) := by
  have e0 := d.isLt; have e1 := a.isLt; have e2 := b.isLt; have e3 := k.bits_lt; have e4 := ty.code_lt
  show (2483027968 + d.val * 2097152 + a.val * 131072 + b.val * 8192 + k.bits + ty.code * 2) < 4294967296
  omega
theorem Laws.Encoding.vsra (d : Fin 16) (a : Fin 16) (b : Fin 16) (k : VMask) (ty : Ty) : Laws.Encoding.Statement (.vsra d a b k ty) := by
  have e0 := d.isLt; have e1 := a.isLt; have e2 := b.isLt; have e3 := k.bits_lt; have e4 := ty.code_lt
  show (2516582400 + d.val * 2097152 + a.val * 131072 + b.val * 8192 + k.bits + ty.code * 2) < 4294967296
  omega
theorem Laws.Encoding.vcmp (d : Fin 8) (a : Fin 16) (b : Fin 16) (cc : FCc) (k : VMask) (ty : Ty) : Laws.Encoding.Statement (.vcmp d a b cc k ty) := by
  have e0 := d.isLt; have e1 := a.isLt; have e2 := b.isLt; have e3 := cc.code_lt; have e4 := k.bits_lt; have e5 := ty.code_lt
  show (2550136832 + d.val * 2097152 + a.val * 131072 + b.val * 8192 + cc.code * 512 + k.bits + ty.code * 2) < 4294967296
  omega
theorem Laws.Encoding.vsel (d : Fin 16) (a : Fin 16) (b : Fin 16) (c : Fin 8) (k : VMask) (ty : Ty) : Laws.Encoding.Statement (.vsel d a b c k ty) := by
  have e0 := d.isLt; have e1 := a.isLt; have e2 := b.isLt; have e3 := c.isLt; have e4 := k.bits_lt; have e5 := ty.code_lt
  show (2583691264 + d.val * 2097152 + a.val * 131072 + b.val * 8192 + c.val * 512 + k.bits + ty.code * 2) < 4294967296
  omega
theorem Laws.Encoding.vcvt (d : Fin 16) (a : Fin 16) (src : Ty) (k : VMask) (ty : Ty) (fn : Bool) : Laws.Encoding.Statement (.vcvt d a src k ty fn) := by
  have e0 := d.isLt; have e1 := a.isLt; have e2 := src.code_lt; have e3 := k.bits_lt; have e4 := ty.code_lt; have e5 := fn.toNat_lt
  show (2617245696 + d.val * 2097152 + a.val * 131072 + src.code * 512 + k.bits + ty.code * 2 + fn.toNat) < 4294967296
  omega
theorem Laws.Encoding.vrint (d : Fin 16) (a : Fin 16) (md : RMode) (k : VMask) (ty : Ty) : Laws.Encoding.Statement (.vrint d a md k ty) := by
  have e0 := d.isLt; have e1 := a.isLt; have e2 := md.code_lt; have e3 := k.bits_lt; have e4 := ty.code_lt
  show (2650800128 + d.val * 2097152 + a.val * 131072 + md.code * 512 + k.bits + ty.code * 2) < 4294967296
  omega
theorem Laws.Encoding.vexp2f (d : Fin 16) (a : Fin 16) (k : VMask) : Laws.Encoding.Statement (.vexp2f d a k) := by
  have e0 := d.isLt; have e1 := a.isLt; have e2 := k.bits_lt
  show (2684354560 + d.val * 2097152 + a.val * 131072 + k.bits + 16) < 4294967296
  omega
theorem Laws.Encoding.vscaleb (d : Fin 16) (a : Fin 16) (b : Fin 16) (k : VMask) (ty : Ty) : Laws.Encoding.Statement (.vscaleb d a b k ty) := by
  have e0 := d.isLt; have e1 := a.isLt; have e2 := b.isLt; have e3 := k.bits_lt; have e4 := ty.code_lt
  show (2717908992 + d.val * 2097152 + a.val * 131072 + b.val * 8192 + k.bits + ty.code * 2) < 4294967296
  omega
theorem Laws.Encoding.vperm (d : Fin 16) (a : Fin 16) (b : Fin 16) (c : Fin 16) (k : VMask) (ty : Ty) (fn : Bool) : Laws.Encoding.Statement (.vperm d a b c k ty fn) := by
  have e0 := d.isLt; have e1 := a.isLt; have e2 := b.isLt; have e3 := c.isLt; have e4 := k.bits_lt; have e5 := ty.code_lt; have e6 := fn.toNat_lt
  show (2751463424 + d.val * 2097152 + a.val * 131072 + b.val * 8192 + c.val * 512 + k.bits + ty.code * 2 + fn.toNat) < 4294967296
  omega
theorem Laws.Encoding.vpermi (d : Fin 16) (a : Fin 16) (b : Fin 16) (pat : Pattern) (k : VMask) (ty : Ty) : Laws.Encoding.Statement (.vpermi d a b pat k ty) := by
  have e0 := d.isLt; have e1 := a.isLt; have e2 := b.isLt; have e3 := pat.code_lt; have e4 := k.bits_lt; have e5 := ty.code_lt
  show (2785017856 + d.val * 2097152 + a.val * 131072 + b.val * 8192 + pat.code * 512 + k.bits + ty.code * 2) < 4294967296
  omega
theorem Laws.Encoding.vbcast (d : Fin 16) (b : Fin 16) (k : VMask) (ty : Ty) : Laws.Encoding.Statement (.vbcast d b k ty) := by
  have e0 := d.isLt; have e1 := b.isLt; have e2 := k.bits_lt; have e3 := ty.code_lt
  show (2818572288 + d.val * 2097152 + b.val * 8192 + k.bits + ty.code * 2) < 4294967296
  omega
theorem Laws.Encoding.vred (d : Fin 16) (a : Fin 16) (op : RedOp) (k : VMask) (ty : Ty) : Laws.Encoding.Statement (.vred d a op k ty) := by
  have e0 := d.isLt; have e1 := a.isLt; have e2 := op.code_lt; have e3 := k.bits_lt; have e4 := ty.code_lt
  show (2852126720 + d.val * 2097152 + a.val * 131072 + op.code * 512 + k.bits + ty.code * 2) < 4294967296
  omega
theorem Laws.Encoding.vscan (d : Fin 16) (a : Fin 16) (op : RedOp) (k : VMask) (ty : Ty) (fn : Bool) : Laws.Encoding.Statement (.vscan d a op k ty fn) := by
  have e0 := d.isLt; have e1 := a.isLt; have e2 := op.code_lt; have e3 := k.bits_lt; have e4 := ty.code_lt; have e5 := fn.toNat_lt
  show (2885681152 + d.val * 2097152 + a.val * 131072 + op.code * 512 + k.bits + ty.code * 2 + fn.toNat) < 4294967296
  omega
theorem Laws.Encoding.vpopc (d : Fin 16) (a : Fin 16) (k : VMask) (ty : Ty) : Laws.Encoding.Statement (.vpopc d a k ty) := by
  have e0 := d.isLt; have e1 := a.isLt; have e2 := k.bits_lt; have e3 := ty.code_lt
  show (2919235584 + d.val * 2097152 + a.val * 131072 + k.bits + ty.code * 2) < 4294967296
  omega
theorem Laws.Encoding.vbin (d : Fin 16) (a : Fin 16) (b : Fin 16) (k : VMask) (ty : Ty) : Laws.Encoding.Statement (.vbin d a b k ty) := by
  have e0 := d.isLt; have e1 := a.isLt; have e2 := b.isLt; have e3 := k.bits_lt; have e4 := ty.code_lt
  show (2952790016 + d.val * 2097152 + a.val * 131072 + b.val * 8192 + k.bits + ty.code * 2) < 4294967296
  omega
theorem Laws.Encoding.vext (d : Fin 16) (a : Fin 16) (b : Fin 16) (ty : Ty) : Laws.Encoding.Statement (.vext d a b ty) := by
  have e0 := d.isLt; have e1 := a.isLt; have e2 := b.isLt; have e3 := ty.code_lt
  show (2986344448 + d.val * 2097152 + a.val * 131072 + b.val * 8192 + ty.code * 2) < 4294967296
  omega
theorem Laws.Encoding.vins (d : Fin 16) (a : Fin 16) (b : Fin 16) (ty : Ty) : Laws.Encoding.Statement (.vins d a b ty) := by
  have e0 := d.isLt; have e1 := a.isLt; have e2 := b.isLt; have e3 := ty.code_lt
  show (3019898880 + d.val * 2097152 + a.val * 131072 + b.val * 8192 + ty.code * 2) < 4294967296
  omega
theorem Laws.Encoding.vnarrow (d : Fin 16) (a : Fin 16) (b : Fin 16) (src : Ty) (k : VMask) (ty : Ty) (fn : Bool) : Laws.Encoding.Statement (.vnarrow d a b src k ty fn) := by
  have e0 := d.isLt; have e1 := a.isLt; have e2 := b.isLt; have e3 := src.code_lt; have e4 := k.bits_lt; have e5 := ty.code_lt; have e6 := fn.toNat_lt
  show (3053453312 + d.val * 2097152 + a.val * 131072 + b.val * 8192 + src.code * 512 + k.bits + ty.code * 2 + fn.toNat) < 4294967296
  omega
theorem Laws.Encoding.vwiden (d : Fin 16) (a : Fin 16) (h : Bool) (src : Ty) (k : VMask) (ty : Ty) : Laws.Encoding.Statement (.vwiden d a h src k ty) := by
  have e0 := d.isLt; have e1 := a.isLt; have e2 := h.toNat_lt; have e3 := src.code_lt; have e4 := k.bits_lt; have e5 := ty.code_lt
  show (3087007744 + d.val * 2097152 + a.val * 131072 + h.toNat * 8192 + src.code * 512 + k.bits + ty.code * 2) < 4294967296
  omega
theorem Laws.Encoding.vdot4 (d : Fin 16) (a : Fin 16) (b : Fin 16) (k : VMask) (ty : Ty) : Laws.Encoding.Statement (.vdot4 d a b k ty) := by
  have e0 := d.isLt; have e1 := a.isLt; have e2 := b.isLt; have e3 := k.bits_lt; have e4 := ty.code_lt
  show (3120562176 + d.val * 2097152 + a.val * 131072 + b.val * 8192 + k.bits + ty.code * 2) < 4294967296
  omega
theorem Laws.Encoding.vaddS (d : Fin 16) (a : Fin 16) (b : Fin 16) (k : VMask) (ty : Ty) (fn : Bool) : Laws.Encoding.Statement (.vaddS d a b k ty fn) := by
  have e0 := d.isLt; have e1 := a.isLt; have e2 := b.isLt; have e3 := k.bits_lt; have e4 := ty.code_lt; have e5 := fn.toNat_lt
  show (3154116608 + d.val * 2097152 + a.val * 131072 + b.val * 8192 + k.bits + ty.code * 2 + fn.toNat) < 4294967296
  omega
theorem Laws.Encoding.vsubS (d : Fin 16) (a : Fin 16) (b : Fin 16) (k : VMask) (ty : Ty) (fn : Bool) : Laws.Encoding.Statement (.vsubS d a b k ty fn) := by
  have e0 := d.isLt; have e1 := a.isLt; have e2 := b.isLt; have e3 := k.bits_lt; have e4 := ty.code_lt; have e5 := fn.toNat_lt
  show (3187671040 + d.val * 2097152 + a.val * 131072 + b.val * 8192 + k.bits + ty.code * 2 + fn.toNat) < 4294967296
  omega
theorem Laws.Encoding.vmulS (d : Fin 16) (a : Fin 16) (b : Fin 16) (k : VMask) (ty : Ty) : Laws.Encoding.Statement (.vmulS d a b k ty) := by
  have e0 := d.isLt; have e1 := a.isLt; have e2 := b.isLt; have e3 := k.bits_lt; have e4 := ty.code_lt
  show (3221225472 + d.val * 2097152 + a.val * 131072 + b.val * 8192 + k.bits + ty.code * 2) < 4294967296
  omega
theorem Laws.Encoding.vfmaS (d : Fin 16) (a : Fin 16) (b : Fin 16) (c : Fin 16) (k : VMask) (ty : Ty) : Laws.Encoding.Statement (.vfmaS d a b c k ty) := by
  have e0 := d.isLt; have e1 := a.isLt; have e2 := b.isLt; have e3 := c.isLt; have e4 := k.bits_lt; have e5 := ty.code_lt
  show (3254779904 + d.val * 2097152 + a.val * 131072 + b.val * 8192 + c.val * 512 + k.bits + ty.code * 2) < 4294967296
  omega
theorem Laws.Encoding.vminS (d : Fin 16) (a : Fin 16) (b : Fin 16) (k : VMask) (ty : Ty) (fn : Bool) : Laws.Encoding.Statement (.vminS d a b k ty fn) := by
  have e0 := d.isLt; have e1 := a.isLt; have e2 := b.isLt; have e3 := k.bits_lt; have e4 := ty.code_lt; have e5 := fn.toNat_lt
  show (3288334336 + d.val * 2097152 + a.val * 131072 + b.val * 8192 + k.bits + ty.code * 2 + fn.toNat) < 4294967296
  omega
theorem Laws.Encoding.vmaxS (d : Fin 16) (a : Fin 16) (b : Fin 16) (k : VMask) (ty : Ty) (fn : Bool) : Laws.Encoding.Statement (.vmaxS d a b k ty fn) := by
  have e0 := d.isLt; have e1 := a.isLt; have e2 := b.isLt; have e3 := k.bits_lt; have e4 := ty.code_lt; have e5 := fn.toNat_lt
  show (3321888768 + d.val * 2097152 + a.val * 131072 + b.val * 8192 + k.bits + ty.code * 2 + fn.toNat) < 4294967296
  omega
theorem Laws.Encoding.vshlS (d : Fin 16) (a : Fin 16) (b : Fin 16) (k : VMask) (ty : Ty) : Laws.Encoding.Statement (.vshlS d a b k ty) := by
  have e0 := d.isLt; have e1 := a.isLt; have e2 := b.isLt; have e3 := k.bits_lt; have e4 := ty.code_lt
  show (3355443200 + d.val * 2097152 + a.val * 131072 + b.val * 8192 + k.bits + ty.code * 2) < 4294967296
  omega
theorem Laws.Encoding.vshrS (d : Fin 16) (a : Fin 16) (b : Fin 16) (k : VMask) (ty : Ty) : Laws.Encoding.Statement (.vshrS d a b k ty) := by
  have e0 := d.isLt; have e1 := a.isLt; have e2 := b.isLt; have e3 := k.bits_lt; have e4 := ty.code_lt
  show (3388997632 + d.val * 2097152 + a.val * 131072 + b.val * 8192 + k.bits + ty.code * 2) < 4294967296
  omega
theorem Laws.Encoding.vsraS (d : Fin 16) (a : Fin 16) (b : Fin 16) (k : VMask) (ty : Ty) : Laws.Encoding.Statement (.vsraS d a b k ty) := by
  have e0 := d.isLt; have e1 := a.isLt; have e2 := b.isLt; have e3 := k.bits_lt; have e4 := ty.code_lt
  show (3422552064 + d.val * 2097152 + a.val * 131072 + b.val * 8192 + k.bits + ty.code * 2) < 4294967296
  omega
theorem Laws.Encoding.udfa : Laws.Encoding.Statement (.udfa) := (by decide : _ < 4294967296)
theorem Laws.Encoding.dxa (idx : BitVec 8) (h0 : BitVec 6) (h1 : BitVec 6) (h2 : BitVec 5) : Laws.Encoding.Statement (.dxa idx h0 h1 h2) := by
  have e0 := idx.isLt; have e1 := h0.isLt; have e2 := h1.isLt; have e3 := h2.isLt
  show (4261412864 + idx.toNat * 131072 + h0.toNat * 2048 + h1.toNat * 32 + h2.toNat) < 4294967296
  omega
theorem Laws.Encoding.apply (c : Nat) (t : Fin 4) (i : Nat) : Laws.Encoding.Statement (.apply c t i) := rfl
theorem Laws.Encoding.ship (c : Nat) (t : Fin 4) (i : Nat) : Laws.Encoding.Statement (.ship c t i) := rfl
theorem Laws.Encoding.arrive (a : Arrival) : Laws.Encoding.Statement (.arrive a) := rfl
theorem Laws.Encoding.confirm (c : Nat) (t : Fin 4) (i : Nat) : Laws.Encoding.Statement (.confirm c t i) := rfl
theorem Laws.Encoding.linkLoss (chip : Nat) : Laws.Encoding.Statement (.linkLoss chip) := rfl
theorem Laws.Encoding.atomic (c : Nat) (t : Fin 4) (i : Nat) : Laws.Encoding.Statement (.atomic c t i) := rfl
theorem Laws.Encoding.directSend (c : Nat) (t : Fin 4) (i : Nat) : Laws.Encoding.Statement (.directSend c t i) := rfl
theorem Laws.Encoding.commit (c : Nat) (t : Fin 4) : Laws.Encoding.Statement (.commit c t) := rfl
theorem Laws.Encoding.lineageExpiry (k : Nat) (l : BitVec 20) : Laws.Encoding.Statement (.lineageExpiry k l) := rfl
theorem Laws.Encoding.taskStart (c : Nat) (t : Fin 4) : Laws.Encoding.Statement (.taskStart c t) := rfl
theorem Laws.Encoding.steal (c : Nat) (t : Fin 4) (victim : Nat) : Laws.Encoding.Statement (.steal c t victim) := rfl
theorem Laws.Encoding.deadlineStep (c : Nat) (t : Fin 4) : Laws.Encoding.Statement (.deadlineStep c t) := rfl
theorem Laws.Encoding.budgetOverrun (c : Nat) (t : Fin 4) : Laws.Encoding.Statement (.budgetOverrun c t) := rfl
theorem Laws.Encoding.parkTimeExpiry (item : Word) : Laws.Encoding.Statement (.parkTimeExpiry item) := rfl
theorem Laws.Encoding.replayTimer (item : Word) : Laws.Encoding.Statement (.replayTimer item) := rfl
theorem Laws.Encoding.timingError (p : ErrorPlace) : Laws.Encoding.Statement (.timingError p) := rfl
theorem Laws.Encoding.stepdownExpiry (c : Nat) : Laws.Encoding.Statement (.stepdownExpiry c) := rfl
theorem Laws.Encoding.harpStepdownExpiry (k : Nat) : Laws.Encoding.Statement (.harpStepdownExpiry k) := rfl
theorem Laws.Encoding.uncorrectableData (p : SoftPlace) : Laws.Encoding.Statement (.uncorrectableData p) := rfl
theorem Laws.Encoding.copyDeliver (c : Nat) (ch : Fin 8) (n : Nat) : Laws.Encoding.Statement (.copyDeliver c ch n) := rfl
theorem Laws.Encoding.copyComplete (c : Nat) (ch : Fin 8) : Laws.Encoding.Statement (.copyComplete c ch) := rfl
theorem Laws.Encoding.copyFault (c : Nat) (ch : Fin 8) : Laws.Encoding.Statement (.copyFault c ch) := rfl
theorem Laws.Encoding.engineCompletion (c : Nat) : Laws.Encoding.Statement (.engineCompletion c) := rfl
theorem Laws.Encoding.cmuComplete (c : Nat) (droop : Bool) : Laws.Encoding.Statement (.cmuComplete c droop) := rfl
theorem Laws.Encoding.hstreamRow (k : Nat) (droop : Bool) : Laws.Encoding.Statement (.hstreamRow k droop) := rfl
theorem Laws.Encoding.harpSwap (k : Nat) : Laws.Encoding.Statement (.harpSwap k) := rfl
theorem Laws.Encoding.harpComplete (k : Nat) : Laws.Encoding.Statement (.harpComplete k) := rfl
theorem Laws.Encoding.harpGrant (k : Nat) : Laws.Encoding.Statement (.harpGrant k) := rfl
theorem Laws.Encoding.leaseLimit (k : Nat) : Laws.Encoding.Statement (.leaseLimit k) := rfl
theorem Laws.Encoding.collectiveRun (i : Nat) : Laws.Encoding.Statement (.collectiveRun i) := rfl
theorem Laws.Encoding.barrierStep (c : Nat) (t : Fin 4) : Laws.Encoding.Statement (.barrierStep c t) := rfl
theorem Laws.Encoding.nodeStep (c : Nat) (t : Fin 4) : Laws.Encoding.Statement (.nodeStep c t) := rfl
theorem Laws.Encoding.nodePlace (die : Nat) : Laws.Encoding.Statement (.nodePlace die) := rfl
theorem Laws.Encoding.migrationArrive (i : Nat) : Laws.Encoding.Statement (.migrationArrive i) := rfl
theorem Laws.Encoding.portRelease (i : Nat) : Laws.Encoding.Statement (.portRelease i) := rfl
theorem Laws.Encoding.annulNotice (chip : Nat) (ctx : Nat) (l : BitVec 20) : Laws.Encoding.Statement (.annulNotice chip ctx l) := rfl
theorem Laws.Encoding.resetNotice (chip : Nat) (ctx : Nat) (ls : List (BitVec 20)) : Laws.Encoding.Statement (.resetNotice chip ctx ls) := rfl
theorem Laws.Encoding.resetAck (die : Nat) (q : Nat) (peer : Nat) : Laws.Encoding.Statement (.resetAck die q peer) := rfl
theorem Laws.Encoding.resetTimeout (die : Nat) (q : Nat) (peer : Nat) : Laws.Encoding.Statement (.resetTimeout die q peer) := rfl
theorem Laws.Encoding.absenceToken (tk : Token) : Laws.Encoding.Statement (.absenceToken tk) := rfl
theorem Laws.Encoding.tokenRemoval (tk : Token) : Laws.Encoding.Statement (.tokenRemoval tk) := rfl
theorem Laws.Encoding.suspendNotice (obj : Nat) : Laws.Encoding.Statement (.suspendNotice obj) := rfl
theorem Laws.Encoding.resumeNotice (obj : Nat) : Laws.Encoding.Statement (.resumeNotice obj) := rfl
theorem Laws.Encoding.peerDead (chip : Nat) : Laws.Encoding.Statement (.peerDead chip) := rfl
theorem Laws.Encoding.intervalEnd (die : Nat) : Laws.Encoding.Statement (.intervalEnd die) := rfl
theorem Laws.Encoding.boostGrant (die : Nat) : Laws.Encoding.Statement (.boostGrant die) := rfl
theorem Laws.Encoding.clockRise (course : Nat) : Laws.Encoding.Statement (.clockRise course) := rfl
theorem Laws.Encoding.droop (course : Nat) : Laws.Encoding.Statement (.droop course) := rfl
theorem Laws.Encoding.thermalMigration (hot : Nat) (temps : List (Nat × Nat)) : Laws.Encoding.Statement (.thermalMigration hot temps) := rfl
theorem Laws.Encoding.coreMapOut (c : Nat) (temps : List (Nat × Nat)) : Laws.Encoding.Statement (.coreMapOut c temps) := rfl
theorem Laws.Encoding.harpRowRemap (k : Nat) (row : Nat) : Laws.Encoding.Statement (.harpRowRemap k row) := rfl
theorem Laws.Encoding.laneRetire (port : Nat) : Laws.Encoding.Statement (.laneRetire port) := rfl
theorem Laws.Encoding.firewallDrop (phys : Nat) : Laws.Encoding.Statement (.firewallDrop phys) := rfl
theorem Laws.Encoding.monitorSample (die : Nat) (u : Nat) (v : Nat) : Laws.Encoding.Statement (.monitorSample die u v) := rfl
theorem Laws.Encoding.monitorEpoch (die : Nat) (u : Nat) : Laws.Encoding.Statement (.monitorEpoch die u) := rfl
theorem Laws.Encoding.ptpMeasurement (offs : Int) (port : Nat) : Laws.Encoding.Statement (.ptpMeasurement offs port) := rfl
theorem Laws.Encoding.ptpHold : Laws.Encoding.Statement (.ptpHold) := rfl
theorem Laws.Encoding.ptpFirstTimeout : Laws.Encoding.Statement (.ptpFirstTimeout) := rfl
theorem Laws.Encoding.deviceReset (bad : List Nat) (rows : List (Nat × Nat)) : Laws.Encoding.Statement (.deviceReset bad rows) := rfl
theorem Laws.Encoding.ctxNew (k : Nat) (pa : Nat) : Laws.Encoding.Statement (.ctxNew k pa) := rfl
theorem Laws.Encoding.ctxDel (k : Nat) : Laws.Encoding.Statement (.ctxDel k) := rfl
theorem Laws.Encoding.peers (k : Nat) : Laws.Encoding.Statement (.peers k) := rfl
theorem Laws.Encoding.switch (n : Nat) (k : Option Nat) : Laws.Encoding.Statement (.switch n k) := rfl
theorem Laws.Encoding.mapq (die : Nat) (q : Nat) (pa : Nat) : Laws.Encoding.Statement (.mapq die q pa) := rfl
theorem Laws.Encoding.unmapq (die : Nat) (q : Nat) : Laws.Encoding.Statement (.unmapq die q) := rfl
theorem Laws.Encoding.kick (die : Nat) (q : Nat) : Laws.Encoding.Statement (.kick die q) := rfl
theorem Laws.Encoding.reload (k : Nat) : Laws.Encoding.Statement (.reload k) := rfl
theorem Laws.Encoding.hread (pa : Nat) : Laws.Encoding.Statement (.hread pa) := rfl
theorem Laws.Encoding.quote (nonce : BitVec 512) : Laws.Encoding.Statement (.quote nonce) := rfl
theorem Laws.Encoding.qcert : Laws.Encoding.Statement (.qcert) := rfl
theorem Laws.Encoding.slotWrite (table : Bool) (off : Nat) (bytes : List Byte) : Laws.Encoding.Statement (.slotWrite table off bytes) := rfl
theorem Laws.Encoding.queueScan (die : Nat) (q : Nat) : Laws.Encoding.Statement (.queueScan die q) := rfl
theorem Laws.Encoding.noOp (die : Nat) (q : Nat) : Laws.Encoding.Statement (.noOp die q) := rfl
theorem Laws.Encoding.submit (die : Nat) (q : Nat) : Laws.Encoding.Statement (.submit die q) := rfl
theorem Laws.Encoding.submitRecord (die : Nat) (q : Nat) : Laws.Encoding.Statement (.submitRecord die q) := rfl
theorem Laws.Encoding.annul (die : Nat) (q : Nat) : Laws.Encoding.Statement (.annul die q) := rfl
theorem Laws.Encoding.queueReset (die : Nat) (q : Nat) : Laws.Encoding.Statement (.queueReset die q) := rfl
theorem Laws.Encoding.eventWrite (die : Nat) (q : Nat) : Laws.Encoding.Statement (.eventWrite die q) := rfl
theorem Laws.Encoding.kload (k : Nat) (v : Word) : Laws.Encoding.Statement (.kload k v) := rfl
theorem Laws.Encoding.kernelDone (k : Nat) : Laws.Encoding.Statement (.kernelDone k) := rfl
theorem Laws.Encoding.invalidate (k : Nat) (v : Word) : Laws.Encoding.Statement (.invalidate k v) := rfl
theorem Laws.Encoding.shareWrite (k : Nat) (v : Word) : Laws.Encoding.Statement (.shareWrite k v) := rfl
theorem Laws.Encoding.invalidationDone (k : Nat) : Laws.Encoding.Statement (.invalidationDone k) := rfl
theorem Laws.Encoding.energyLoRead (core : Option Nat) (acc : Nat) : Laws.Encoding.Statement (.energyLoRead core acc) := rfl
theorem Laws.Encoding.registerWrite (pa : Nat) (v : Word) (k : Nat) (level : BitVec 2) : Laws.Encoding.Statement (.registerWrite pa v k level) := rfl
theorem Laws.Encoding.dispNone (k : Nat) : Laws.Encoding.Statement (.dispNone k) := rfl
theorem Laws.Encoding.dispResume (k : Nat) (item : Word) : Laws.Encoding.Statement (.dispResume k item) := rfl
theorem Laws.Encoding.dispContinue (k : Nat) (item : Word) : Laws.Encoding.Statement (.dispContinue k item) := rfl
theorem Laws.Encoding.dispKill (k : Nat) (item : Word) : Laws.Encoding.Statement (.dispKill k item) := rfl
theorem Laws.Encoding.dispMapped (k : Nat) (page : Word) (size : Word) : Laws.Encoding.Statement (.dispMapped k page size) := rfl
theorem Laws.Encoding.dispPark (k : Nat) (item : Word) : Laws.Encoding.Statement (.dispPark k item) := rfl
theorem Laws.Encoding.dispReload (k : Nat) : Laws.Encoding.Statement (.dispReload k) := rfl
theorem Laws.Encoding.dbgClaim (k : Nat) : Laws.Encoding.Statement (.dbgClaim k) := rfl
theorem Laws.Encoding.dbgRel (k : Nat) : Laws.Encoding.Statement (.dbgRel k) := rfl
theorem Laws.Encoding.dbgHalt (n : Nat) (t : Fin 4) : Laws.Encoding.Statement (.dbgHalt n t) := rfl
theorem Laws.Encoding.dbgRun (n : Nat) (t : Fin 4) : Laws.Encoding.Statement (.dbgRun n t) := rfl
theorem Laws.Encoding.dbgStep (n : Nat) (t : Fin 4) : Laws.Encoding.Statement (.dbgStep n t) := rfl
theorem Laws.Encoding.dbgRd (pa : Nat) : Laws.Encoding.Statement (.dbgRd pa) := rfl
theorem Laws.Encoding.dbgWr (pa : Nat) (v : Word) : Laws.Encoding.Statement (.dbgWr pa v) := rfl
theorem Laws.Encoding.stepReply (c : Nat) (t : Fin 4) : Laws.Encoding.Statement (.stepReply c t) := rfl
theorem Laws.Encoding.memoryRemap (frames : Nat) : Laws.Encoding.Statement (.memoryRemap frames) := rfl
theorem Laws.Encoding.droopEnd (course : Nat) : Laws.Encoding.Statement (.droopEnd course) := rfl
theorem Laws.Encoding.energyCount (acc : Nat) (n : Nat) : Laws.Encoding.Statement (.energyCount acc n) := rfl
theorem Laws.Encoding.hostWrite (pa : Nat) (bytes : List Byte) : Laws.Encoding.Statement (.hostWrite pa bytes) := rfl
theorem Laws.Encoding.frameOwner (f : Nat) (owner : Option Nat) : Laws.Encoding.Statement (.frameOwner f owner) := rfl
theorem Laws.Encoding.rangeRead (p : LockPlace) : Laws.Encoding.Statement (.rangeRead p) := rfl
theorem Laws.Encoding.heldExpiry (i : Nat) : Laws.Encoding.Statement (.heldExpiry i) := rfl
theorem Laws.Encoding.correctedError : Laws.Encoding.Statement (.correctedError) := rfl

end Sys2Proof
end

