-- ==== Sys2Proof/Tests/Slice0.lean ====
section
/-! SUPPORT. Tests of single steps and words against the manual, ill-formed terms that are refused, and for every statement with hypotheses a
state and operands that meet them. -/

namespace Sys2Proof.Tests
open Sys2Proof.Machine
set_option Elab.async false

/-! ## Small states -/

/-- The machine READY, with an irrevocable thread of context 0 in slot 0 of core 0 and nothing on the agenda. -/
def w0 : State := { State.reset.placeUnit (0, 0) with agenda := [] }
def wTh (f : Thread → Thread) : State := w0.setTh (f w0.th)
def wSl (f : Slot → Slot) : State := w0.setSl (f w0.sl)
def wCo (f : Core → Core) : State := w0.setCo (f w0.co)
/-- The general registers of the witnesses: 0, the most negative number, −1, 7, an unaligned address, an aligned one. -/
def gs : Vector Word 16 := #v[0, 0x8000000000000000, 0xFFFFFFFFFFFFFFFF, 7, 0x1004, 0x8000, 0, 0, 0, 0, 0, 0, 0, 0, 0, 0x8010]
def wG : State := wTh fun t => { t with g := gs }
theorem plain_w0 : w0.Plain := ⟨rfl, rfl, rfl, rfl, rfl⟩
theorem plain_wTh (f : Thread → Thread) : (wTh f).Plain := (State.plain_setTh _ _).2 plain_w0
theorem ok_of {ε α : Type} {x : Except ε α} {a : α} (h : x.toOption = some a) : x = .ok a := by
  cases x with
  | ok b => exact congrArg _ (Option.some.inj h)
  | error e => exact nomatch h
/-- No slot of a core's table reads anything and no inbox holds anything. -/
def quietCores (l : Tab Core) : Bool := l.all fun e => (e.2.slots.toList.all fun x => x.rs.isEmpty) && e.2.inbox.isEmpty
theorem unread_of {s : State} (h : quietCores s.cores = true) (ht : s.transit = []) (g : Gran) (b : Option (Nat × Fin 4)) : s.unread g b := by
  refine ⟨fun e he => ?_, fun pk hp => by rw [ht] at hp; exact absurd hp List.not_mem_nil⟩
  obtain ⟨h1, h2⟩ := Bool.and_eq_true_iff.mp (List.all_eq_true.mp h e he)
  rw [List.isEmpty_iff.mp h2]
  refine ⟨fun t _ hm => ?_, fun q hq => absurd hq List.not_mem_nil⟩
  have ht := List.all_eq_true.mp h1 (e.2.slots.get t) (by simp [Vector.get, Vector.toList])
  rw [List.isEmpty_iff.mp ht] at hm; exact absurd hm List.not_mem_nil
theorem noneRead_of {s : State} (h : quietCores s.cores = true) (ht : s.transit = []) (p : Gran → Prop) : s.noneRead p := by
  have h0 := fun g => unread_of (s := s) h ht g none
  refine ⟨fun e he => ⟨fun t g hg => absurd hg (((h0 g).1 e he).1 t nofun), fun q hq pl id pk hk g hg => absurd hg (((h0 g).1 e he).2 q hq pl id pk hk)⟩, fun pk hp g hg => ?_⟩
  exact absurd hg ((h0 g).2 pk hp)
theorem tget_mem {α : Type} {t : Tab α} {k : Nat} {x : α} (h : tget t k = some x) : ∃ j, (j, x) ∈ t := by
  induction t with
  | nil => exact nomatch h
  | cons e r ih =>
    simp only [tget] at h
    split at h
    · cases h; exact ⟨_, List.mem_cons_self ..⟩
    · split at h
      · exact nomatch h
      · obtain ⟨j, hj⟩ := ih h; exact ⟨j, List.mem_cons_of_mem _ hj⟩


/-! ## Words written out from the encodings -/

/-- R58, R80, R84: C words of the paired layouts. -/
theorem test_decode_c_1 :
    [decodeC 0x00312F7F 0, decodeC 0x01FFFFFE 0, decodeC 0x02400003 0, decodeC 0x03BFFFFD 0, decodeC 0x04000005 0, decodeC 0x05800000 0,
      decodeC 0x06000007 0, decodeC 0x079F1000 0, decodeC 0x08941000 0, decodeC 0x09123000 0, decodeC 0x0BFFFFFF 0, decodeC 0x0B000000 0]
      = [some .nopC, some (.b 0xFFFFFE), some (.bc 1 3), some (.bnc 2 0x3FFFFD), some (.bok 5), some (.bfail 0x800000), some (.call 7), some (.callReg 15),
      some (.j 4), some .ret, some (.lend 0xFFFFFF), some .lendPop] := by
  decide

/-- R58, R80, R84: C words of the paired layouts. -/
theorem test_decode_c_2 :
    [decodeC 0x0C112230 0, decodeC 0x0D312004 0, decodeC 0x0E650000 0, decodeC 0x0E127100 0, decodeC 0x0E123200 0, decodeC 0x0E021300 0,
      decodeC 0x0E310400 0, decodeC 0x11110004 0, decodeC 0x1273FFFE 0, decodeC 0x1340000A 0, decodeC 0x14168001 0, decodeC 0x15020003 0]
      = [some (.cmp 1 1 2 .lt .d), some (.sel 3 1 2 1), some (.pset 2 5), some (.psetAnd 1 2 3), some (.psetOr 1 2 3), some (.psetXor 0 2 1),
      some (.psetNot 3 1), some (.addiC 1 1 4), some (.moviC 7 0xFFFE), some (.getc 4 0x00A), some (.setc 6 0x001), some (.trap 2 3)] := by
  decide

/-- R58, R80, R84: C words of the paired layouts. -/
theorem test_decode_c_3 :
    [decodeC 0x16000007 0, decodeC 0x17ABCDEF 0, decodeC 0x18421FFF 0, decodeC 0x19527FFE 0, decodeC 0x1A629FFD 0, decodeC 0x1B72FFFC 0,
      decodeC 0x1C821FFB 0, decodeC 0x1D927FFA 0, decodeC 0x1EA29FF9 0, decodeC 0x1FB2FFF8 0, decodeC 0x20421FF7 0, decodeC 0x21527FF6 0]
      = [some (.brk 7), some .udf, some (.ldB 4 ⟨2, .w, false, 0x1FFF⟩), some (.ldH 5 ⟨2, .a, true, 0x1FFE⟩), some (.ldW 6 ⟨2, .c, false, 0x1FFD⟩),
      some (.ldD 7 ⟨2, .m, true, 0x1FFC⟩), some (.ldZb 8 ⟨2, .w, false, 0x1FFB⟩), some (.ldZh 9 ⟨2, .a, true, 0x1FFA⟩), some (.ldZw 10 ⟨2, .c, false,
      0x1FF9⟩), some (.stB 11 ⟨2, .m, true, 0x1FF8⟩), some (.stH 4 ⟨2, .w, false, 0x1FF7⟩), some (.stW 5 ⟨2, .a, true, 0x1FF6⟩)] := by
  decide

/-- R58, R80, R84: C words of the paired layouts. -/
theorem test_decode_c_4 :
    [decodeC 0x22629FF5 0, decodeC 0x2372FFF4 0, decodeC 0x24821FF3 0, decodeC 0x2531218B 0, decodeC 0x26312354 0, decodeC 0x27563800 0,
      decodeC 0x28567801 0, decodeC 0x2956B802 0, decodeC 0x2A56F803 0, decodeC 0x2B563804 0, decodeC 0x2C567805 0, decodeC 0x2D56B806 0]
      = [some (.stD 6 ⟨2, .c, false, 0x1FF5⟩), some (.vld 7 ⟨2, .m, true, 0x1FF4⟩), some (.vst 8 ⟨2, .w, false, 0x1FF3⟩), some (.vldx 3 1 2 .a .f32 2),
      some (.vstx 3 1 2 .m .zh 1), some (.ldgB 5 ⟨6, .dla, 0x800⟩), some (.ldgH 5 ⟨6, .dlb, 0x801⟩), some (.ldgW 5 ⟨6, .cap, 0x802⟩), some (.ldgD 5 ⟨6,
      .poll, 0x803⟩), some (.ldgZb 5 ⟨6, .dla, 0x804⟩), some (.ldgZh 5 ⟨6, .dlb, 0x805⟩), some (.ldgZw 5 ⟨6, .cap, 0x806⟩)] := by
  decide

/-- R58, R80, R84: C words of the paired layouts. -/
theorem test_decode_c_5 :
    [decodeC 0x2E56F807 0, decodeC 0x2F563808 0, decodeC 0x30567809 0, decodeC 0x3156B80A 0, decodeC 0x32467921 0, decodeC 0x33467966 0,
      decodeC 0x3446793B 0, decodeC 0x3546792C 0, decodeC 0x36467961 0, decodeC 0x37467936 0, decodeC 0x3846792B 0, decodeC 0x3946796C 0]
      = [some (.stgB 5 ⟨6, .poll, 0x807⟩), some (.stgH 5 ⟨6, .dla, 0x808⟩), some (.stgW 5 ⟨6, .dlb, 0x809⟩), some (.stgD 5 ⟨6, .cap, 0x80A⟩),
      some (.amoAdd 4 6 7 .w .core .dlb), some (.amoMin 4 6 7 .zw .clu .cap), some (.amoMax 4 6 7 .d .dev .poll), some (.amoAnd 4 6 7 .w .sys .dla),
      some (.amoOr 4 6 7 .zw .core .dlb), some (.amoXor 4 6 7 .d .clu .cap), some (.amoSwap 4 6 7 .w .dev .poll), some (.amoCas 4 6 7 .zw .sys .dla)] := by
  decide

/-- R58, R80, R84: C words of the paired layouts. -/
theorem test_decode_c_6 :
    [decodeC 0x3246703A 0, decodeC 0x3A20000C 0, decodeC 0x43781C00 0, decodeC 0x4478B401 0, decodeC 0x45784C02 0, decodeC 0x4678E403 0,
      decodeC 0x48123569 0, decodeC 0x49123000 0, decodeC 0x4B123003 0, decodeC 0x4CFFFFF0 0, decodeC 0x4D900002 0, decodeC 0x4E000000 0]
      = [some (.amoAdd 4 6 7 .d .dev .cap), some (.fence 2 .sys .dla), some (.barArrive 7 ⟨8, false, .dla, .sys, 0x400⟩), some (.barWait 7 ⟨8, true, .dlb, .dev,
      0x401⟩), some (.barSync 7 ⟨8, false, .cap, .clu, 0x402⟩), some (.barAbort ⟨8, true, .poll, .core, 0x403⟩), some (.recv 1 2 3 .dlb), some (.poll 1 3),
      some (.home 1 2 3 .poll), some (.fork 0xFFFFF0), some (.join .cap), some .done] := by
  decide

/-- R58, R80, R84: C words of the paired layouts. -/
theorem test_decode_c_7 :
    [decodeC 0x4F000001 0, decodeC 0x50000003 0, decodeC 0x51123001 0, decodeC 0x52123002 0, decodeC 0x53120003 0, decodeC 0x55120001 0,
      decodeC 0x56123000 0, decodeC 0x56123100 0, decodeC 0x56123200 0, decodeC 0x56123300 0, decodeC 0x58412000 0, decodeC 0x59123000 0]
      = [some (.yield .dlb), some (.irrev .poll), some (.migrate 2 .dlb), some (.gang 1 2 .cap), some (.rejoin 1 .poll), some (.nodeDec 2 .dlb),
      some (.tagEn 2), some (.tagDis 2), some (.tagPend 1 2), some (.tagClr 1 2), some (.lext 4 1 2), some (.lannul 2)] := by
  decide

/-- R58, R80, R84: C words of the paired layouts. -/
theorem test_decode_c_8 :
    [decodeC 0x5B120001 0, decodeC 0x5D000002 0, decodeC 0x5E100000 0, decodeC 0x60000003 0, decodeC 0x65123001 0, decodeC 0x65123102 0,
      decodeC 0x65123202 0, decodeC 0x6C250040 0, decodeC 0x6D123000 0, decodeC 0x6D123100 0, decodeC 0x7F090850 0, decodeC 0x66120000 0]
      = [some (.mzero 2 .dlb), some (.hlease .cap), some .hrelease, some (.hswap .poll), some (.boost875 1 .dlb), some (.boost1050 1 .cap), some (.boostOff 1),
      some (.dload 2 ⟨5, .dla, 0x040⟩), some (.dset 2), some .dfence, some (.dx 9 2 5 0), some .udf] := by
  decide

/-- R58, R80, R84: C words of the paired layouts. -/
theorem test_decode_c_9 :
    [decodeC 0x6B120000 0, decodeC 0x6E120000 0, decodeC 0x7E120000 0]
      = [some .udf, some .udf, some .udf] := by
  decide

/-- R58, R80, R87: lone C units. -/
theorem test_decode_cw_1 :
    [decodeC 0x8A202010 0x00000002, decodeC 0x8F200000 0x00000064, decodeC 0x909ABCDE 0xDEADBEEF, decodeC 0xBBA6246A 0x828F4B02,
      decodeC 0xBC8C2474 0x848F4B03, decodeC 0xBD72246F 0x868D4B04, decodeC 0xBE582471 0x888D4B05, decodeC 0xBF123698 0x1400EE1F,
      decodeC 0xC0123F70 0xFC00EE1F, decodeC 0xC178B005 0x80031234, decodeC 0xC2784FFF 0x80000001, decodeC 0xC7233000 0x00000040]
      = [some (.loop 2 0 true 0x10 2), some (.ldi 2 100), some (.ldiHi 9 0xDEADBEEF), some (.cp ⟨5, .dev, .arr, 1, 2, 3, false, true, .dlb, false, 0x41, 0x23,
      true, 0xA5, 0x102⟩), some (.cpDeal ⟨4, .w, .a, 1, 2, 3, true, false, .cap, false, 0x42, 0x23, true, 0xA5, 0x103⟩), some (.cpGath ⟨3, .a, .w, 1, 2, 3,
      false, true, .poll, true, 0x43, 0x23, false, 0xA5, 0x104⟩), some (.cpRot ⟨2, .arr, .dev, 1, 2, 3, true, false, .dla, true, 0x44, 0x23, false, 0xA5,
      0x105⟩), some (.collRed ⟨1, 2, 3, .dlb, true, 5, 0x77, 0x1F⟩ .max .bf16), some (.collGath ⟨1, 2, 3, .poll, false, 63, 0x77, 0x1F⟩),
      some (.barInit 7 ⟨8, true, .dlb, .dev, 5⟩ 0x1234 true), some (.barExpect 7 ⟨8, false, .cap, .clu, 0x7FF⟩ 0x80000001), some (.send 2 3 .dla 48 0x40)] := by
  decide

/-- R58, R80, R87: lone C units. -/
theorem test_decode_cw_2 :
    [decodeC 0xCA12375A 0x00000007, decodeC 0xCA100800 0x40000000, decodeC 0xCA100800 0x80000000, decodeC 0xD4812000 0x00000003,
      decodeC 0xD7320200 0x60000000, decodeC 0xD7325500 0x80000000, decodeC 0xDA123121 0x04000000, decodeC 0xDC45665A 0x980001FE,
      decodeC 0xDF456B5A 0xA00001FE, decodeC 0xE1400A00 0x43220002, decodeC 0xE2456D5A 0x878601FE, decodeC 0xE345615A 0x478401FE]
      = [some (.deleg 1 2 3 .dlb true 0x5A), some (.delegOn .cap), some .delegOff, some (.nodeNew 8 1 2 .dla 3), some (.lnew 3 2 0 .own 0b10 .rel true),
      some (.lnew 3 2 5 .reg 1 .inherit false), some (.mma ⟨1, 2, 3, .dla, 1, 0x21, 0⟩ 2), some (.mdrain ⟨4, 5, 6, .dlb, 2, 0x5A, 0x1FE⟩ .bf16 true),
      some (.hldw ⟨4, 5, 6, .cap, 3, 0x5A, 0x1FE⟩ .device true), some (.hstream ⟨4, 0, 0, .cap, 2, 0, 2⟩ .array 3 8 true), some (.hdrain ⟨4, 5, 6, .poll, 1,
      0x5A, 0x1FE⟩ .device 7 33 true), some (.hsave ⟨4, 5, 6, .dla, 1, 0x5A, 0x1FE⟩ .array 7 33)] := by
  decide

/-- R58, R80, R87: lone C units. -/
theorem test_decode_cw_3 :
    [decodeC 0xE445645A 0xBF0401FE]
      = [some (.hrestore ⟨4, 5, 6, .dlb, 0, 0x5A, 0x1FE⟩ .device 63 1)] := by
  decide

/-- R59, R81, R85, R86: A words. -/
theorem test_decode_a_1 :
    [decodeA 0x002468FF, decodeA 0x0260B200, decodeA 0x0462D221, decodeA 0x0664F242, decodeA 0x08671203, decodeA 0x0A693284, decodeA 0x0C6B5245,
      decodeA 0x0E6D72C6, decodeA 0x106F9207, decodeA 0x1271B288, decodeA 0x1473D249, decodeA 0x1675F26A]
      = [some .nopA, some (.add 3 0 5 .b), some (.sub 3 1 6 .h), some (.mul 3 2 7 .w), some (.mulh 3 3 8 .b), some (.mulhz 3 4 9 .zb), some (.div 3 5 10 .w),
      some (.divz 3 6 11 .zw), some (.rem 3 7 12 .b), some (.remz 3 8 13 .zb), some (.and 3 9 14 .w), some (.or 3 10 15 .d)] := by
  decide

/-- R59, R81, R85, R86: A words. -/
theorem test_decode_a_2 :
    [decodeA 0x1876128B, decodeA 0x1A7832AC, decodeA 0x1C7A52CD, decodeA 0x1E7C720E, decodeA 0x207E922F, decodeA 0x2260B250, decodeA 0x24624060,
      decodeA 0x26624080, decodeA 0x286240A0, decodeA 0x2A624000, decodeA 0x2C624060, decodeA 0x2E6240C0]
      = [some (.xor 3 11 0 .zb), some (.andn 3 12 1 .zh), some (.shl 3 13 2 .zw), some (.shr 3 14 3 .b), some (.sra 3 15 4 .h), some (.rotl 3 0 5 .w),
      some (.clz 3 1 .d), some (.ctz 3 1 .zb), some (.popc 3 1 .zh), some (.min 3 1 2 .b), some (.max 3 1 2 .d), some (.minz 3 1 2 .zw)] := by
  decide

/-- R59, R81, R85, R86: A words. -/
theorem test_decode_a_3 :
    [decodeA 0x30624060, decodeA 0x32624060, decodeA 0x34624060, decodeA 0x36624063, decodeA 0x38220004, decodeA 0x3B27FFFE, decodeA 0x3C4B0000,
      decodeA 0x3E4B0001, decodeA 0x404B0002, decodeA 0x424B0003, decodeA 0x444A007F, decodeA 0x464A007E]
      = [some (.maxz 3 1 2 .d), some (.bfx 3 1 2), some (.bfi 3 1 2), some (.lea 3 1 2 3), some (.addiA 1 1 4), some (.moviA 9 0x1FFFE),
      some (.mulImm 2 5 0x10000), some (.andImm 2 5 0x10001), some (.orImm 2 5 0x10002), some (.xorImm 2 5 0x10003), some (.shlImm 2 5 63),
      some (.shrImm 2 5 62)] := by
  decide

/-- R59, R81, R85, R86: A words. -/
theorem test_decode_a_4 :
    [decodeA 0x484A007D, decodeA 0x4A4A007C, decodeA 0x4C4B0000, decodeA 0x4E4B0001, decodeA 0x504B0002, decodeA 0x524B0003, decodeA 0x544AE20C,
      decodeA 0x564A1FFF, decodeA 0x60246907, decodeA 0x62246927, decodeA 0x64246947, decodeA 0x66246940]
      = [some (.sraImm 2 5 61), some (.rotlImm 2 5 60), some (.minImm 2 5 0x10000), some (.maxImm 2 5 0x10001), some (.minzImm 2 5 0x10002),
      some (.maxzImm 2 5 0x10003), some (.bfxImm 2 5 0x20C), some (.bfiImm 2 5 0x1FFF), some (.fadd 1 2 3 .f32), some (.fsub 1 2 3 .bf16),
      some (.fmul 1 2 3 .f16), some (.ffma 1 2 3 4 .f16)] := by
  decide

/-- R59, R81, R85, R86: A words. -/
theorem test_decode_a_5 :
    [decodeA 0x68246100, decodeA 0x6A246120, decodeA 0x6C246140, decodeA 0x6C246161, decodeA 0x6C246182, decodeA 0x6E426107, decodeA 0x70420128,
      decodeA 0x72420103, decodeA 0x74420100, decodeA 0x76426100, decodeA 0x78420160, decodeA 0x7A420100]
      = [some (.fmin 1 2 3 .f32), some (.fmax 1 2 3 .bf16), some (.fsgn 1 2 3 .f16), some (.fsgnN 1 2 3 .e4m3), some (.fsgnX 1 2 3 .e5m2),
      some (.fcmp 2 1 3 .f32 .ord), some (.fcvt 2 1 .bf16 false .f32), some (.frint 2 1 .f32 .rup), some (.fexp2f 2 1), some (.fscaleb 2 1 3 .f32),
      some (.fclass 2 1 .e4m3), some (.frcp 2 1 .f32)] := by
  decide

/-- R59, R81, R85, R86: A words. -/
theorem test_decode_a_6 :
    [decodeA 0x7C420120, decodeA 0x7E420140, decodeA 0x808252C1, decodeA 0x82846030, decodeA 0x84847353, decodeA 0x86846B8C, decodeA 0x888461D1,
      decodeA 0x8A8461E8, decodeA 0x8C846217, decodeA 0x8E846259, decodeA 0x9084629B, decodeA 0x92846221]
      = [some (.frsq 2 1 .bf16), some (.fsqrt 2 1 .f16), some (.vadd 4 1 2 ⟨3, false⟩ .b true), some (.vsub 4 2 3 ⟨0, true⟩ .f32 false), some (.vmul 4 2 3 ⟨5,
      false⟩ .bf16), some (.vfma 4 2 3 5 ⟨6, false⟩ .zw), some (.vmin 4 2 3 ⟨7, false⟩ .f32 true), some (.vmax 4 2 3 ⟨7, true⟩ .zb false),
      some (.vand 4 2 3 ⟨0, false⟩ .e4m3), some (.vor 4 2 3 ⟨1, false⟩ .e5m2), some (.vxor 4 2 3 ⟨2, false⟩ .q4), some (.vshl 4 2 3 ⟨0, true⟩ .b)] := by
  decide

/-- R59, R81, R85, R86: A words. -/
theorem test_decode_a_7 :
    [decodeA 0x94846263, decodeA 0x968462A5, decodeA 0x98A46C50, decodeA 0x9AA46C42, decodeA 0x9CAA1024, decodeA 0x9E640230, decodeA 0xA0880030,
      decodeA 0xA2C8A030, decodeA 0xA4846A5B, decodeA 0xA6846C42, decodeA 0xA8846C42, decodeA 0xAA420050]
      = [some (.vshr 4 2 3 ⟨1, true⟩ .h), some (.vsra 4 2 3 ⟨2, true⟩ .w), some (.vcmp 5 2 3 .uo ⟨1, false⟩ .f32), some (.vsel 5 2 3 6 ⟨1, false⟩ .h),
      some (.vcvt 5 5 .f32 ⟨0, true⟩ .w false), some (.vrint 3 2 .rne ⟨0, true⟩ .f32), some (.vexp2f 4 4 ⟨0, true⟩), some (.vscaleb 6 4 5 ⟨0, true⟩ .f32),
      some (.vperm 4 2 3 5 ⟨1, false⟩ .q4 true), some (.vpermi 4 2 3 .rot ⟨1, false⟩ .h), some (.vbcast 4 3 ⟨1, false⟩ .h), some (.vred 2 1 .add ⟨1,
      false⟩ .f32)] := by
  decide

/-- R59, R81, R85, R86: A words. -/
theorem test_decode_a_8 :
    [decodeA 0xAC846A8D, decodeA 0xAE846A8A, decodeA 0xB082A042, decodeA 0xB28461F2, decodeA 0xB48461F8, decodeA 0xB6847093, decodeA 0xB884288A,
      decodeA 0xBA846088, decodeA 0xBC846083, decodeA 0xBE846084, decodeA 0xC0846094, decodeA 0xC2846A90]
      = [some (.vscan 4 2 .xor ⟨2, false⟩ .zw true), some (.vpopc 4 2 ⟨2, false⟩ .zh), some (.vbin 4 1 5 ⟨1, false⟩ .h), some (.vext 4 2 3 .bf16),
      some (.vins 4 2 3 .e5m2), some (.vnarrow 4 2 3 .f32 ⟨2, false⟩ .bf16 true), some (.vwiden 4 2 true .zb ⟨2, false⟩ .zh), some (.vdot4 4 2 3 ⟨2,
      false⟩ .zb), some (.vaddS 4 2 3 ⟨2, false⟩ .h true), some (.vsubS 4 2 3 ⟨2, false⟩ .w false), some (.vmulS 4 2 3 ⟨2, false⟩ .f16),
      some (.vfmaS 4 2 3 5 ⟨2, false⟩ .f32)] := by
  decide

/-- R59, R81, R85, R86: A words. -/
theorem test_decode_a_9 :
    [decodeA 0xC444C030, decodeA 0xC6A6A031, decodeA 0xC8846228, decodeA 0xCA84626A, decodeA 0xCC8462AC, decodeA 0xFC000000, decodeA 0xFE0A1822,
      decodeA 0x58200000, decodeA 0xCE200000, decodeA 0x02624000, decodeA 0x02624080, decodeA 0x1C624040]
      = [some (.vminS 2 2 6 ⟨0, true⟩ .f32 false), some (.vmaxS 5 3 5 ⟨0, true⟩ .f32 true), some (.vshlS 4 2 3 ⟨0, true⟩ .zb), some (.vshrS 4 2 3 ⟨1,
      true⟩ .zh), some (.vsraS 4 2 3 ⟨2, true⟩ .zw), some .udfa, some (.dxa 5 3 1 2), some .udfa, some .udfa, some (.add 3 1 2 .b), some (.add 3 1 2 .zb),
      some (.shl 3 1 2 .w)] := by
  decide

/-- R59, R81, R85, R86: A words. -/
theorem test_decode_a_10 :
    [decodeA 0x24620020, decodeA 0x0C624040, decodeA 0x02668060]
      = [some (.clz 3 1 .h), some (.div 3 1 2 .w), some (.add 3 3 4 .d)] := by
  decide

/-! ## Witnesses: each states that the hypotheses of the statement it names are met, clause by clause -/

theorem witness_ScalarSumsAndProducts : w0.Plain ∧ Ty.d.isInt = true ∧ Ty.d.isSigned = true ∧ Ty.d.isUnsignedClass = true :=
  ⟨plain_w0, by decide⟩
theorem witness_ScalarDivision : wG.Plain ∧ Ty.d.sOf (wG.g 0) = 0 ∧ Ty.d.sOf (wG.g 1) = -(2 ^ (Ty.d.bits - 1)) ∧ Ty.d.sOf (wG.g 2) = -1
    ∧ Ty.d.sOf (wG.g 3) ≠ 0 ∧ Ty.d.uOf (wG.g 0) = 0 ∧ Ty.d.uOf (wG.g 2) ≠ 0 := ⟨plain_wTh _, by decide⟩
theorem witness_ScalarBitsAndShifts : wG.Plain ∧ Ty.zb.isInt = true := ⟨plain_wTh _, by decide⟩
theorem witness_ScalarCountsAndExtremes : wG.Plain ∧ Ty.d.isInt = true ∧ Ty.d.isSigned = true ∧ Ty.d.isUnsignedClass = true :=
  ⟨plain_wTh _, by decide⟩
theorem witness_BitFields : wG.Plain := plain_wTh _
theorem witness_ImmediateForms : wG.Plain := plain_wTh _
theorem witness_DisplacedBranches : w0.Plain ∧ w0.th.p.get 0 = false ∧ w0.th.ws.setWidth 8 = 0#8
    ∧ (wTh fun t => { t with p := #v[false, true, false, false], ws := 6 }).Plain
    ∧ (wTh fun t => { t with p := #v[false, true, false, false], ws := 6 }).th.p.get 1 = true
    ∧ (wTh fun t => { t with p := #v[false, true, false, false], ws := 6 }).th.ws.setWidth 8 ≠ 0#8 :=
  ⟨plain_w0, by decide, by decide, plain_wTh _, by decide, by decide⟩
theorem witness_RegisterBranches : wG.Plain ∧ (wG.g 5).toNat % 8 = 0 ∧ (wG.g 15).toNat % 8 = 0 := ⟨plain_wTh _, by decide⟩
/-- The context of the thread with every entry of its action table as given by its first byte, and with other changes. -/
def wCtx (f : Context → Context) (s : State) : State := s.setCtx 0 (f ((s.ctx? 0).getD (Context.fresh placedDesc)))
def wAct (b : Nat) (s : State) : State :=
  wCtx (fun x => { x with actions := some (List.replicate 16 0 ++ (List.range 64).flatMap fun _ => BitVec.ofNat 8 b :: List.replicate 15 0) }) s
theorem witness_MisalignedTarget : (wAct 2 wG).Plain ∧ (wAct 2 wG).sl.task = some placedTask ∧ (wAct 2 wG).actionOf placedTask.ctx 2 = 2
    ∧ ((wAct 2 wG).g 4).toNat % 8 ≠ 0 := ⟨⟨rfl, rfl, rfl, rfl, rfl⟩, rfl, by decide, by decide⟩
/-- The fetch of a thread sent to an unaligned target: it is not parked, overrun or reloading, and no breakpoint stands there. -/
def wMis : State := (wAct 2 wG).setSl { (wAct 2 wG).sl with misTarget := some 0x1004, branchFrom := some 0x8000 }
theorem witness_MisalignedTarget_fetch : wMis.Plain ∧ wMis.sl.misTarget = some 0x1004 ∧ wMis.sl.parkAsked = false ∧ wMis.sl.overrun = false ∧ wMis.sl.reload = none
    ∧ wMis.breakHit = none := ⟨⟨rfl, rfl, rfl, rfl, rfl⟩, rfl, rfl, rfl, rfl, rfl⟩
/-- `RaisesTrap`: a task of the action table, and each action. -/
theorem witness_RaisesTrap : (wAct 0 wG).sl.task = some placedTask ∧ placedTask.ordinary = true ∧ (wAct 1 wG).actionOf 0 4 = 1 ∧ (wAct 1 wG).evtOf 0 4 = 0
    ∧ (wAct 5 wG).actionOf 0 4 = 1 ∧ (wAct 5 wG).evtOf 0 4 ≠ 0 ∧ (wAct 2 wG).actionOf 0 4 = 2 ∧ (wAct 3 wG).actionOf 0 4 = 3
    ∧ wG.actionOf 0 4 = 0 := ⟨rfl, by decide⟩
theorem witness_PredicatesAndSelection : wG.Plain ∧ Ty.zb.isInt = true ∧ (wTh fun t => { t with p := #v[false, true, false, false] }).th.p.get 1 = true
    ∧ wG.th.p.get 1 = false := ⟨plain_wTh _, by decide⟩
theorem witness_Literals : wG.Plain ∧ 0xFFFFF < 2 ^ 20 := ⟨plain_wTh _, by decide⟩
/-- The A buffer of core 0 with the shape record of R98's example at 0x100: START 0x40, COUNT 3, STEP −4, and COUNT 0 at 0x110. -/
def wShape : State :=
  let s := wTh fun t => { t with g := gs, bufA := ⟨0, 0x1000, 0x1000⟩ }
  s.setCo { s.co with bufA := mputs [] 0x100 (leBytes 8 0x40 ++ leBytes 4 3 ++ leBytes 4 0xFFFFFFFC) }
def wLoops (l : List LoopEntry) : State := wShape.setTh { wShape.th with loops := l }
theorem plain_wLoops (l : List LoopEntry) : (wLoops l).Plain := (State.plain_setTh _ _).2 ⟨rfl, rfl, rfl, rfl, rfl⟩
theorem witness_Loops : (wLoops []).Plain
    ∧ BitVec.ofNat 32 (leNat ((((wLoops []).bufLoad .load .a ((wLoops []).cmOff ⟨0, .a, true, 0x10⟩ 16) 16).drop 8).take 4)) = (3 : BitVec 32)
    ∧ BitVec.ofNat 32 (leNat ((((wLoops []).bufLoad .load .a ((wLoops []).cmOff ⟨0, .a, true, 0x11⟩ 16) 16).drop 8).take 4)) = (0 : BitVec 32)
    ∧ (wLoops [⟨2, 0, 1⟩, ⟨1, 0, 1⟩, ⟨0, 0, 1⟩]).th.loops.length < 4 ∧ (wLoops [⟨2, 0, 1⟩]).th.loops = ⟨2, 0, 1⟩ :: [] ∧ (wLoops [⟨1, 0, 1⟩]).th.loops = ⟨1, 0, 1⟩ :: [] :=
  ⟨plain_wLoops _, by decide, by decide, by decide, rfl, rfl⟩
theorem witness_LoopStackFault : (wLoops [⟨1, 0, 1⟩, ⟨1, 0, 1⟩, ⟨1, 0, 1⟩, ⟨1, 0, 1⟩]).Plain ∧ 4 ≤ (wLoops [⟨1, 0, 1⟩, ⟨1, 0, 1⟩, ⟨1, 0, 1⟩, ⟨1, 0, 1⟩]).th.loops.length
    ∧ leNat ((((wLoops [⟨1, 0, 1⟩, ⟨1, 0, 1⟩, ⟨1, 0, 1⟩, ⟨1, 0, 1⟩]).bufLoad .load .a
        ((wLoops [⟨1, 0, 1⟩, ⟨1, 0, 1⟩, ⟨1, 0, 1⟩, ⟨1, 0, 1⟩]).cmOff ⟨0, .a, true, 0x10⟩ 16) 16).drop 8).take 4) ≠ 0
    ∧ (wLoops []).th.loops = [] := ⟨plain_wLoops _, by decide, by decide, rfl⟩
theorem witness_TrapInstructions : (wAct 3 wG).Plain ∧ ∀ x, (wAct 3 wG).ctx? (wAct 3 wG).curCtx = some x → x.debug = none := by
  refine ⟨⟨rfl, rfl, rfl, rfl, rfl⟩, fun x h => ?_⟩
  cases h; rfl
def wDebug : State := wCtx (fun x => { x with debug := some DebugPage.clear }) w0
theorem witness_BreakpointHalts : wDebug.Plain ∧ ∃ x, wDebug.ctx? wDebug.curCtx = some x ∧ x.debug ≠ none :=
  ⟨⟨rfl, rfl, rfl, rfl, rfl⟩, _, rfl, nofun⟩
def wUser : State := wTh fun t => { t with g := gs, priv := 0, bufA := ⟨0, 0x1000, 0x1000⟩, bufW := ⟨0, 64, 64⟩, bufC := ⟨0, 64, 64⟩ }
theorem witness_ReadControlRegister : w0.Plain ∧ w0.th.priv ≠ 0 ∧ wUser.Plain ∧ wUser.th.priv = 0 ∧ CrUnassigned 0x007 ∧ CrUnassigned 0x014 ∧ CrUnassigned 0x017
    ∧ CrUnassigned 0x028 ∧ CrUnassigned 0x02F ∧ CrUnassigned 0x038 ∧ CrUnassigned 0x03F ∧ CrUnassigned 0x042 ∧ CrUnassigned 0xFFF := by
  refine ⟨plain_w0, by decide, plain_wTh _, by decide, ?_, ?_, ?_, ?_, ?_, ?_, ?_, ?_, ?_⟩ <;> unfold CrUnassigned <;> decide
theorem witness_WriteControlRegister : wUser.Plain ∧ wUser.descWord wUser.curCtx 9 ≥ 1000 ∧ 64 ≤ wUser.th.bufW.max ∧ 64 ≤ wUser.th.bufA.max
    ∧ 64 ≤ wUser.th.bufC.max := ⟨plain_wTh _, by decide⟩
theorem witness_ScalarFloat : w0.Plain ∧ Ty.f32.isFs = true ∧ Ty.e4m3.isFloat = true ∧ Ty.zw.isInt = true := ⟨plain_w0, by decide⟩
theorem witness_SignForms : w0.Plain ∧ Ty.e5m2.isFloat = true := ⟨plain_w0, by decide⟩
/-- A quiet and a signalling NaN, a zero, an infinity of each sign. -/
theorem witness_FloatSpecialCases : let f := ffmtOf .f32
    (match f.val 0x7FC00000 with | .nan g => !g | _ => false) = true ∧ (match f.val 0x7F800001 with | .nan g => g | _ => false) = true
    ∧ (match f.val 0x80000000 with | .fin g 0 _ => g | _ => false) = true ∧ (match f.val 0x7F800000 with | .inf g => !g | _ => false) = true
    ∧ (match f.val 0xFF800000 with | .inf g => g | _ => false) = true := by decide
theorem witness_RoundTowardZero : Ty.f32.isFs = true ∧ (2 ^ 24 - 1 ≠ 0) ∧ (Nat.log2 (2 ^ 24 - 1) : Int) + 104 ≤ (ffmtOf .f32).emax
    ∧ (Nat.log2 1 : Int) + (-149) ≤ (ffmtOf .f32).emax := by decide
theorem witness_RoundingModes : Ty.e4m3.isFloat = true ∧ (3 : Nat) ≠ 0 := by decide
/-- 1, −0, the least number and its negative, in single precision. -/
theorem witness_ArithmeticValues : Ty.f32.isFs = true ∧ (ffmtOf .f32).val 0x3F800000 = .fin false (2 ^ 23) (-23) ∧ (ffmtOf .f32).val 0x80000000 = .fin true 0 (-149)
    ∧ (ffmtOf .f32).val 1 = .fin false 1 (-149) ∧ (ffmtOf .f32).val 0x80000001 = .fin true 1 (-149) := by decide
/-- Numbers, zeros, infinities and NaNs of a source, and formats with an infinity and without. -/
theorem witness_ConversionValues : Ty.e5m2.isFloat = true ∧ Ty.h.isInt = true ∧ (ffmtOf .f32).val 0x4F000000 = .fin false (2 ^ 23) 8 ∧ (ffmtOf .f32).val 0xCF000001 = .fin true (2 ^ 23 + 1) 8
    ∧ (ffmtOf .f32).val 0x80000000 = .fin true 0 (-149) ∧ (ffmtOf .f32).val 0xFF800000 = .inf true ∧ (ffmtOf .f32).val 0x7F800001 = .nan true ∧ (ffmtOf .f32).val 0x7FC00000 = .nan false
    ∧ (ffmtOf .e4m3).noInf = true ∧ (ffmtOf .e5m2).noInf = false := by decide
theorem witness_ClassAndExponentialValues : let f := ffmtOf .f32
    f.val 0xFF800000 = .inf true ∧ f.val 0x00800000 = .fin false (2 ^ (f.p - 1)) (-149) ∧ f.val 0x007FFFFF = .fin false (2 ^ (f.p - 1) - 1) (-149) ∧ f.val 0 = .fin false 0 (-149)
    ∧ f.val 0x7F800001 = .nan true ∧ f.val 0x3F000001 = .fin false (2 ^ 23 + 1) (-24) ∧ ¬atMost (2 ^ 23 + 1) (-24) 1 (-1) = true := by decide
theorem witness_VectorArithmetic : w0.Plain ∧ Ty.zb.isVi = true ∧ Ty.f16.isFs = true := ⟨plain_w0, by decide⟩
theorem witness_VectorMoves : w0.Plain ∧ Ty.zb.isVi = true ∧ Ty.q4.isPerm = true := ⟨plain_w0, by decide⟩
theorem witness_VectorConversions : w0.Plain ∧ vcvtPair .w .f32 = true ∧ vnarrowPair .b .h = true ∧ vnarrowPair .bf16 .f32 = true ∧ vwidenPair .f32 .f16 = true
    ∧ vwidenPair .zh .zb = true ∧ Ty.f32.isFs = true := ⟨plain_w0, by decide⟩
theorem witness_VectorReductions : w0.Plain ∧ redOk .add .f32 = true ∧ redOk .xor .zb = true ∧ Ty.h.isVi = true := ⟨plain_w0, by decide⟩

/-! ### Typed buffers and device memory -/

def wRec : Queued := { record := 0xAB, ctx := 0, id := 1, parent := none, ready := 0, retries := 0, divider := 1 }
/-- Entry 0 to 4 of the inbox in each of its forms, entry 5 of another context, and frame 0 held. -/
def wInbox : State :=
  let s := wSl fun x => { x with inline := [⟨0, w0.th⟩], thread := { x.thread with bufW := ⟨1, 0x30, 0x40⟩, bufA := ⟨0, 0x1000, 0x1000⟩ } }
  let e (x : InEntry) (k : Nat) : InSlot := ⟨x, k, 0, 0, false, none, false⟩
  s.setCo { s.co with inbox := [(0, e (.record wRec) 0), (1, e (.message 1 0) 0), (2, e (.completion 2) 0), (3, e (.carried 3) 0), (4, e (.package 0 7 none) 0),
    (5, e (.completion 2) 1)] }
theorem witness_BufferBytes :
    let al := wInbox.th.alloc .w
    al.size.toNat ≤ 2 ^ 6 ∧ 2 ^ (6 - 1) < al.size.toNat ∧ (0x2F + 0) % 2 ^ 6 < al.size.toNat ∧ al.size.toNat ≤ (0x2F + 1) % 2 ^ 6
    ∧ tget wInbox.co.inbox (0x3F / 64) = some ⟨.record wRec, 0, 0, 0, false, none, false⟩ ∧ wInbox.curCtx = 0
    ∧ tget wInbox.co.inbox (0x40 / 64) = some ⟨.message 1 0, 0, 0, 0, false, none, false⟩ ∧ tget wInbox.co.inbox (0xBF / 64) = some ⟨.completion 2, 0, 0, 0, false, none, false⟩
    ∧ tget wInbox.co.inbox (0xC0 / 64) = some ⟨.carried 3, 0, 0, 0, false, none, false⟩ ∧ tget wInbox.co.inbox (0x100 / 64) = some ⟨.package 0 7 none, 0, 0, 0, false, none, false⟩
    ∧ tget wInbox.co.inbox (0x140 / 64) = some ⟨.completion 2, 1, 0, 0, false, none, false⟩ ∧ tget wInbox.co.inbox (0x1FFF / 64) = none
    ∧ (∃ x ∈ wInbox.sl.inline, x.frame = (0x6100 - 0x6000) / 1024) ∧ ¬∃ x ∈ wInbox.sl.inline, x.frame = (0x6400 - 0x6000) / 1024 := by decide +kernel
theorem plain_wInbox : wInbox.Plain := ⟨rfl, rfl, rfl, rfl, rfl⟩
theorem witness_BufferLoads : wInbox.Plain ∧ ¬wInbox.blocked .vload .w (wInbox.cmOff ⟨0, .w, true, 0⟩ 64) 64 false ∧ Ty.zb.isLane = true
    ∧ ∀ j < Ty.zb.lanes, ¬wInbox.blocked .vload .a j 1 false := ⟨plain_wInbox, by unfold State.blocked; decide, by decide, by unfold State.blocked; decide⟩
theorem witness_BufferStores : wInbox.Plain ∧ wInbox.co.memWf = true ∧ wInbox.storeFree .store .a 0xFFF 8 ∧ wInbox.storeFree .vstore .m 0x6100 64
    ∧ Ty.zb.isLane = true := ⟨plain_wInbox, rfl, by unfold State.storeFree State.blocked; decide +kernel, by unfold State.storeFree State.blocked; decide +kernel, by decide⟩
/-- A speculative task, whose kernel has A block 0 resident. -/
def wSpec : State :=
  wCtx (fun x => { x with kernels := [(0, ⟨0x8000, 0, 0, 0, 0, 0, 0, 1, 0, 0⟩)] })
    (wSl fun x => { x with task := some { placedTask with kind := .plain, spec := true }, thread := { x.thread with g := gs, bufA := ⟨0, 0x1000, 0x1000⟩ } })
theorem plain_wSpec : wSpec.Plain := ⟨rfl, rfl, rfl, rfl, rfl⟩
theorem witness_ResidentStoreWaits : wSpec.Plain ∧ wSpec.spec = true ∧ wSpec.mayWait .cap ∧ ¬wSpec.blocked .store .a 0x3FF 1 true
    ∧ wSpec.hitsResident .store .a 0x3FF 1 = true ∧ wSpec.hitsResident .vstore .a 0x3C0 64 = true := by
  refine ⟨plain_wSpec, by decide, ⟨by decide, by decide⟩, by unfold State.blocked; decide, by decide, by decide⟩
/-- The same task made irrevocable, in its store's wait for the commit that has been taken (stage 9), or for a range that was locked (stage 7). -/
def wStored (stage : Nat) (locks : List Lock) : State :=
  let s := wSpec.setCo { wSpec.co with locks := locks }
  s.setSl { s.sl with task := some { placedTask with kind := .plain }, wait := some (wSpec.newWait (.stB 1 ⟨0, .a, true, 0x3FF⟩) .cap stage) }
theorem witness_ResidentStoreWaits_done : ∀ k ∈ [9, 7], ∀ l ∈ [[], [(⟨1, .a, false, [(0x3FF, 1)], false, 9⟩ : Lock)]],
    (wStored k l).co.memWf = true ∧ (wStored k l).spec = false ∧ (wStored k l).sl.wait = some (wSpec.newWait (.stB 1 ⟨0, .a, true, 0x3FF⟩) .cap k) ∧ (wStored k l).sl.group = none
    ∧ (wStored k l).sl.stepping = false ∧ (wStored k l).sl.pendA = none ∧ (wStored k l).sl.newPc = none
    ∧ (reaches .store .a = true ∧ (wStored k l).lockStall .a ((wStored k l).cmOff ⟨0, .a, true, 0x3FF⟩ 1) 1 true = true ↔ l ≠ []) := by decide +kernel
/-- Device memory at 0x8000 for the operands. -/
def va0 : Word := 0x8FFC
def wDev : State := wTh fun t => { t with g := gs }
theorem witness_DeviceLoads : wDev.Plain ∧ wDev.late = false ∧ wDev.spec = false ∧ wDev.watchHit (va0.toNat) 8 true false = none
    ∧ wDev.translateRange wDev.curCtx wDev.th.priv va0 8 needR = .ok [(none, 0x8FFC, 4), (none, 0x9000, 4)] ∧ wSpec.spec = true
    ∧ wSpec.translateRange wSpec.curCtx wSpec.th.priv va0 8 needR = .ok [(none, 0x8FFC, 4), (none, 0x9000, 4)] :=
  ⟨plain_wTh _, rfl, rfl, rfl, rfl, rfl, rfl⟩
theorem witness_DeviceLoads_bytes : (∀ p ∈ [((none : Option Nat), 0x8FFC, 4), (none, 0x9000, 4)], p.1 = none ∧ p.2.1 + p.2.2 < 0xF000000000000) ∧ Sel.cap ≠ .poll := by decide
/-- The last byte of A's allocation, and one tile of C against loads too. -/
def wLocked : State :=
  let s := wTh fun t => { t with bufA := ⟨0, 0x1000, 0x1000⟩, bufC := ⟨0, 0x400, 0x400⟩, bufW := ⟨0, 0x40, 0x40⟩ }
  s.setCo { s.co with locks := [⟨1, .a, false, [(0xFFF, 1)], false, 9⟩, ⟨2, .a, true, [(0, 0x400)], true, 9⟩] }
theorem witness_LockedRangesStall : wLocked.Plain ∧ wLocked.blocked .store .a 0xFFC 4 true ∧ ¬wLocked.blocked .store .a 0xFF8 4 true ∧ wLocked.blocked .vload .c 0x3C0 64 false
    ∧ ¬wLocked.blocked .load .c 0x3C0 8 false ∧ wLocked.blocked .store .a ((wG.g 2).toNat - (wG.g 2).toNat % 8) 8 true := by
  refine ⟨⟨rfl, rfl, rfl, rfl, rfl⟩, ?_, ?_, ?_, ?_, ?_⟩ <;> unfold State.blocked <;> decide +kernel
/-- An access whose second page is in a frame of no context, and an atomic at an address without a leaf. -/
theorem witness_TranslationFaults : wDev.Plain ∧ wDev.late = false ∧ wDev.watchHit 0x1FFFFE 8 true false = none
    ∧ (match wDev.translateRange wDev.curCtx wDev.th.priv 0x1FFFFE 8 needR with | .error e => e == (2, 0x200000) | _ => false) = true
    ∧ (match wDev.translateRange wDev.curCtx wDev.th.priv 0x1FFFFE 8 needW with | .error e => e == (2, 0x200000) | _ => false) = true
    ∧ wDev.sl.remote = none ∧ wDev.watchHit (wDev.g 1).toNat 8 true true = none ∧ (wDev.g 1).toNat % Ty.d.size = 0
    ∧ (match wDev.translate wDev.curCtx wDev.th.priv (wDev.g 1) needRW with | .error k => k == 1 | _ => false) = true := by
  exact ⟨plain_wTh _, rfl, by decide +kernel⟩
theorem witness_TranslationChecks : wDev.leafOf 0 0x8000000000 = none ∧ wDev.leafOf 0 0x8000 ≠ none ∧ windowOk 0 1 true 0xF000000000000 = true ∧ windowOk 0 0 true 0xF000000000000 = false := by
  decide +kernel
/-- Cached translations of the page at 0x8000, as many as given. -/
def wCached (n : Nat) : State := { wDev with tlb := List.replicate n ⟨0, 8, 0x1F, 0, [0]⟩ }
theorem witness_TranslationChecks_cached : (wCached 0).usesCached 0 0x8000 = false ∧ (0x8000 : Word).toNat < 2 ^ 56 ∧ ∃ n, (wCached n).usesCached 0 0x8000 = true := by
  refine ⟨rfl, by decide, Config.tlbUse 0 + 1, ?_⟩
  have h : ∀ n, (List.replicate n (⟨0, 8, 0x1F, 0, [0]⟩ : TlbEntry)).filter (fun e => e.serves 0 0x8000) = List.replicate n ⟨0, 8, 0x1F, 0, [0]⟩ := fun n => by
    rw [List.filter_replicate]; rfl
  simp only [State.usesCached, State.cachedFor, wCached, h, List.length_replicate]
  exact decide_eq_true (Nat.lt_succ_self _)
/-- Watchpoint 1 traps on loads of the eight bytes at 0x8000, watchpoint 2 halts on stores there. -/
def wWatch : State :=
  wCtx (fun x => { x with debug := some { DebugPage.clear with wpaddr := #v[0, 0x8000, 0x8000, 0], wpctl := #v[0, 0x3B, 0x35, 0] } }) wDev
theorem witness_Watchpoints : wWatch.Plain ∧ (∃ x pg, wWatch.ctx? wWatch.curCtx = some x ∧ x.debug = some pg) ∧ wWatch.watchHit 0x7FFF 2 true false = some (1, true, 0x8000)
    ∧ wWatch.watchHit 0x8007 4 false true = some (2, false, 0x8007) ∧ wWatch.watchHit 0x8000 8 true true = some (1, true, 0x8000) ∧ wWatch.watchHit 0x8008 1 true true = none
    ∧ wWatch.sl.remote = none := ⟨⟨rfl, rfl, rfl, rfl, rfl⟩, ⟨_, _, rfl, rfl⟩, by decide +kernel⟩
theorem witness_StoreGranules : [(none, 0x8FFF), (none, 0x9000), (some 3, 5)].Nodup ∧ [(none, 0x8FFF), (none, 0x9000), (some 3, 5)].length = [(1 : Byte), 2, 3].length
    ∧ ∀ a ∈ [(none, 0x8FFF), (none, 0x9000), (some 3, 5)], a.1 ≠ (none : Option Nat) ∨ isWindow a.2 = false := by decide
def wFull : State := wSpec.setSl { wSpec.sl with cb := (List.range 32).map fun i => .store ⟨none, i⟩ 0 0 }
theorem witness_DeviceStores : wDev.Plain ∧ wDev.spec = false ∧ wDev.watchHit va0.toNat 8 false true = none
    ∧ wDev.translateRange wDev.curCtx wDev.th.priv va0 8 needW = .ok [(none, 0x8FFC, 4), (none, 0x9000, 4)]
    ∧ wSpec.sl.cb.length + 2 ≤ 32 ∧ wFull.spec = true ∧ 32 < wFull.sl.cb.length + 1 ∧ wFull.mayWait .dla :=
  ⟨plain_wTh _, rfl, rfl, rfl, by decide, rfl, by decide, by unfold State.mayWait; decide⟩
def wAmo (a : Option RemoteAns) : State :=
  wSl fun x => { x with remote := some ⟨.amo 4, a⟩, wait := some (w0.newWait (.amoAdd 1 2 3 .d .dev .cap) .cap 1) }
/-- The same, with the second GiB a page of peer 5 (R203, R283). -/
def wPeer : State := { (wTh fun t => { t with g := gs.set 5 0x40008000 }) with mem := mputs w0.mem 0x3008 (leBytes 8 0x006000000000001F) }
theorem witness_Atomics : wDev.Plain ∧ wDev.co.memWf = true ∧ wDev.storeFree .store .a 0 8 ∧ wDev.sl.remote = none ∧ wDev.watchHit 0x8000 8 true true = none
    ∧ (wDev.g 4).toNat % 8 ≠ 0 ∧ (wDev.g 5).toNat % 8 = 0 ∧ wDev.translate wDev.curCtx wDev.th.priv (wDev.g 5) needRW = .ok (none, 0x8000) ∧ wDev.spec = false
    ∧ wDev.mayWait .cap ∧ wPeer.translate wPeer.curCtx wPeer.th.priv (wPeer.g 5) needRW = .ok (some 5, 0x8000) ∧ (wAmo (some ⟨9, 0, 0⟩)).Retries (w0.newWait (.amoAdd 1 2 3 .d .dev .cap) .cap 1)
    ∧ (wAmo (some ⟨9, 0, 0⟩)).sl.remote = some ⟨.amo 4, some ⟨9, 0, 0⟩⟩ := by
  refine ⟨plain_wTh _, rfl, by unfold State.storeFree State.blocked; decide +kernel, rfl, by decide +kernel, by decide, by decide, ok_of (by decide +kernel), rfl, by unfold State.mayWait; decide, ok_of (by decide +kernel), ⟨rfl, rfl, rfl, rfl, rfl⟩, rfl⟩

def ftE (id : Nat) (peer : Option Nat) (failed : Option FailReason) : FtEntry := ⟨w0.curTask, 0, 0, id, peer, 1, none, failed, none, 0, 0⟩
theorem witness_Fences : w0.Plain ∧ w0.ft = [] ∧ ([ftE 1 (some 3) (some .deadLink)] ≠ [] ∧ ∀ e ∈ [ftE 1 (some 3) (some .deadLink)], e.failed ≠ none)
    ∧ (∃ e ∈ [ftE 1 none none], e.failed = none) ∧ w0.mayWait .cap := ⟨plain_w0, rfl, by decide, by decide, by unfold State.mayWait; decide⟩
/-- A store path of two stores to one granule, and three to peers, one of whose links is dead. -/
def opE (ft : Nat) (g : Gran) : OpEntry := ⟨w0.curTask, 0, 0, 0, ft, g, .store 1 1, 0⟩
def wPath : State :=
  { w0 with
    op := [opE 1 ⟨none, 0x240⟩, opE 2 ⟨none, 0x240⟩, opE 3 ⟨some 5, 7⟩, opE 4 ⟨some 6, 7⟩, opE 5 ⟨some 5, 9⟩]
    ft := [ftE 1 none none, ftE 2 none none, ftE 3 (some 5) none, ftE 4 (some 6) none, ftE 5 (some 5) none]
    contexts := tset w0.contexts 0 { Context.fresh placedDesc with peers := (Vector.replicate 32 Peer.none).set 5 ⟨9, 0, true, 0, false, false⟩ |>.set 6 ⟨8, 0, true, 0, true, false⟩ } }
theorem older_first {s : State} {e : OpEntry} {r : List OpEntry} (h : s.op = e :: r) : ¬∃ x, s.olderOn e x := by
  rintro ⟨x, p, q, h1, h2, h3, -⟩
  cases p with
  | nil => exact nomatch h3
  | cons y p =>
    rw [h] at h1
    exact h2 ((List.cons.inj h1).1 ▸ List.mem_cons_self ..)
theorem witness_StorePathSteps : (wPath.pathOf 0 0)[0]? = some (opE 1 ⟨none, 0x240⟩) ∧ (opE 1 ⟨none, 0x240⟩).body = .store 1 1
    ∧ (∀ x, wPath.olderOn (opE 1 ⟨none, 0x240⟩) x → x.gran ≠ (opE 1 ⟨none, 0x240⟩).gran) ∧ 64 * 0x240 < 0xF000000000000 ∧ wPath.memWf = true
    ∧ wPath.unread ⟨none, 0x240⟩ none ∧ (wPath.pathOf 0 0)[1]? = some (opE 2 ⟨none, 0x240⟩) ∧ wPath.olderOn (opE 2 ⟨none, 0x240⟩) (opE 1 ⟨none, 0x240⟩) := by
  refine ⟨rfl, rfl, fun x h => absurd ⟨x, h⟩ (older_first rfl), by decide, rfl, unread_of (by decide +kernel) rfl _ _, rfl,
    ⟨[opE 1 ⟨none, 0x240⟩], _, rfl, by decide +kernel, by decide +kernel, rfl⟩⟩
/-- The same machine with the task of the path's thread in flight as a package. -/
def wFlight : State :=
  { wPath with cores := tset wPath.cores 0 { wPath.coreAt 0 with slots := Vector.replicate 4 Slot.reset }
               transit := [⟨w0.th, placedTask, [], 0, 0, [], 1, none⟩] }
/-- An entry for a peer whose link stands, and one for a peer whose link is dead. -/
theorem witness_StorePathSteps_peers : (wPath.pathOf 0 0)[2]? = some (opE 3 ⟨some 5, 7⟩) ∧ wPath.deadPeer 0 5 = false ∧ (wPath.pathOf 0 0)[3]? = some (opE 4 ⟨some 6, 7⟩)
    ∧ wPath.deadPeer 0 6 = true ∧ wFlight.ft.find? (fun x => x.id == 4) = some (ftE 4 (some 6) none) ∧ wFlight.taskStands w0.curTask = true
    ∧ wFlight.slotOfTask w0.curTask = none := by
  decide +kernel
theorem first_at {s : State} {p r : List OpEntry} {e : OpEntry} (P : OpEntry → Prop) (h : s.op = p ++ e :: r) (he : e ∉ p) (hp : ∀ y ∈ p, P y) :
    ∀ x, s.olderOn e x → P x := by
  rintro x ⟨p', q, h1, h2, h3, -⟩
  refine hp x ?_
  rw [h] at h1
  rcases List.append_eq_append_iff.mp h1 with ⟨a, rfl, h4⟩ | ⟨a, rfl, h4⟩
  · cases a with
    | nil => simpa using h3
    | cons y a => exact absurd (List.mem_append_right p ((List.cons.inj h4).1 ▸ List.mem_cons_self ..)) h2
  · exact List.mem_append_left a h3
theorem witness_StorePathSteps_first : (∀ x, wPath.olderOn (opE 3 ⟨some 5, 7⟩) x → wPath.sameChip 0 x.gran.peer (some 5) = false)
    ∧ ∀ x, wFlight.olderOn (opE 4 ⟨some 6, 7⟩) x → wFlight.sameChip 0 x.gran.peer (some 6) = false :=
  ⟨first_at (p := [opE 1 ⟨none, 0x240⟩, opE 2 ⟨none, 0x240⟩]) (fun x => wPath.sameChip 0 x.gran.peer (some 5) = false) rfl (by decide +kernel) (by decide +kernel),
    first_at (p := [opE 1 ⟨none, 0x240⟩, opE 2 ⟨none, 0x240⟩, opE 3 ⟨some 5, 7⟩]) (fun x => wFlight.sameChip 0 x.gran.peer (some 6) = false) rfl (by decide +kernel)
      (by decide +kernel)⟩
theorem witness_StorePathSteps_behind : (wPath.pathOf 0 0)[4]? = some (opE 5 ⟨some 5, 9⟩) ∧ wPath.olderOn (opE 5 ⟨some 5, 9⟩) (opE 3 ⟨some 5, 7⟩)
    ∧ wPath.sameChip 0 (some 5) (some 5) = true :=
  ⟨rfl, ⟨[opE 1 ⟨none, 0x240⟩, opE 2 ⟨none, 0x240⟩, opE 3 ⟨some 5, 7⟩, opE 4 ⟨some 6, 7⟩], _, rfl, by decide +kernel, by decide +kernel, rfl⟩, by decide +kernel⟩def wAtomic : State :=
  let e : OpEntry := ⟨w0.curTask, 0, 0, 0, 4, ⟨none, 0x240⟩, .atomic ⟨(0 : Fin 8).castSucc, .d, .dev, 0x9000, 1, 0⟩, 0⟩
  { (wAmo none) with op := [e], ft := [ftE 4 none none] }
theorem witness_AtomicSteps : (wAtomic.pathOf 0 0)[0]? = some ⟨w0.curTask, 0, 0, 0, 4, ⟨none, 0x240⟩, .atomic ⟨(0 : Fin 8).castSucc, .d, .dev, 0x9000, 1, 0⟩, 0⟩
    ∧ (∀ z, ¬wAtomic.olderOn ⟨w0.curTask, 0, 0, 0, 4, ⟨none, 0x240⟩, .atomic ⟨(0 : Fin 8).castSucc, .d, .dev, 0x9000, 1, 0⟩, 0⟩ z) ∧ 0x9000 < 0x8000000000
    ∧ 0x9000 % Ty.d.size = 0 ∧ wAtomic.memWf = true ∧ wAtomic.unread ⟨none, 0x240⟩ none ∧ wAtomic.slotOfTask w0.curTask = some (0, 0)
    ∧ (wAtomic.slotAt 0 0).remote = some ⟨.amo 4, none⟩ :=
  ⟨rfl, fun z h => older_first rfl ⟨z, h⟩, by decide, by decide, rfl, unread_of (by decide +kernel) rfl _ _, by decide +kernel, rfl⟩
/-- The same of an annulled lineage. -/
def wAmoGone : State := (wAmo (some ⟨9, 0, 0⟩)).setLineage 0 0 { Lineage.root with live := 1, state := .annulled }
theorem witness_AtomicSteps_reply : let sl := (wAmo (some ⟨9, 0, 0⟩)).slotAt 0 0
    sl.group = none ∧ sl.stepping = false ∧ sl.pendA = none ∧ sl.newPc = none ∧ sl.wait = some (w0.newWait (.amoAdd 1 2 3 .d .dev .cap) .cap 1)
    ∧ sl.remote = some ⟨.amo 4, some ⟨9, 0, 0⟩⟩ ∧ (wAmo (some ⟨9, 0, 0⟩)).slotAnnulled 0 0 = false ∧ wAmoGone.slotAnnulled 0 0 = true :=
  ⟨rfl, rfl, rfl, rfl, rfl, rfl, by decide +kernel, by decide +kernel⟩
/-- A store to a peer at the head of its link queue, and tracker entries in each state of their answers. -/
def wLq : State :=
  { wPath with
    lq := [⟨w0.curTask, 0, 0, 0, 5, some 3, .store 7 1 1⟩], op := []
    ft := [{ ftE 3 (some 5) none with parts := 0 }, { ftE 4 (some 5) none with parts := 0, answered := some true },
      { ftE 5 (some 5) none with parts := 0, answered := some false }] }
theorem witness_PeerTraffic : wLq.lq.find? (fun x => x.core == 0 && x.slot == 0 && x.peer == 5) = some ⟨w0.curTask, 0, 0, 0, 5, some 3, .store 7 1 1⟩
    ∧ (∀ p q, wLq.lq = p ++ ⟨w0.curTask, 0, 0, 0, 5, some 3, .store 7 1 1⟩ :: q → ⟨w0.curTask, 0, 0, 0, 5, some 3, .store 7 1 1⟩ ∉ p → ∀ x ∈ p, x.owner ≠ w0.curTask)
    ∧ (∀ i : Fin 3, ∃ f, (wLq.trackerOf 0 0)[i]? = some f ∧ f.msg = none ∧ f.parts = 0) ∧ wLq.taskStands w0.curTask = true
    ∧ wLq.accepts 0 9 0 = true ∧ wLq.accepts 0 7 0 = false ∧ wLq.rangeReach 0 0x1FFFFF 1 true = true ∧ wLq.rangeReach 0 0x1FFFFF 2 true = false
    ∧ wLq.memWf = true ∧ (∀ g, wLq.unread g none) ∧ wLq.noneRead (fun g => g.peer ≠ none) := by
  refine ⟨by decide +kernel, fun p q h hp x hx => ?_, by decide +kernel, by decide +kernel, by decide +kernel, by decide +kernel, by decide +kernel, by decide +kernel, rfl,
    fun g => unread_of (by decide +kernel) rfl _ _, noneRead_of (by decide +kernel) rfl _⟩
  cases p with
  | nil => exact absurd hx List.not_mem_nil
  | cons y p => exact absurd ((List.cons.inj h).1 ▸ List.mem_cons_self ..) hp
/-- A speculative task that waits in `irrev` with two granules in its commit buffer, first in its domain. -/
def wCommit : State :=
  let s := wSpec.setSl { wSpec.sl with cb := [.store ⟨none, 0x240⟩ 1 1, .store ⟨none, 0x241⟩ 1 1], rs := [⟨none, 0x240⟩], wait := some (wSpec.newWait (.irrev .cap) .cap 9) }
  { s with dq := [⟨0, 0, 0, 0⟩], ready := [(0, 0)] }
theorem witness_CommitStep : wCommit.chosen 0 0 = true ∧ w0.chosen 0 0 = false ∧ (wCommit.slotAt 0 0).task = some { placedTask with kind := .plain, spec := true }
    ∧ (wCommit.slotAt 0 0).wait = some (wSpec.newWait (.irrev .cap) .cap 9) ∧ (wCommit.dieAt (dieOf 0)).monitors = [] ∧ wCommit.memWf = true := by
  decide +kernel
theorem witness_CommitStep_buffer : (∀ e ∈ (wCommit.slotAt 0 0).cb, ∃ g b mk, e = .store ⟨none, g⟩ b mk ∧ wCommit.unread ⟨none, g⟩ (some (0, 0)))
    ∧ (wCommit.slotAt 0 0).cb.Pairwise (fun x y => ∀ g b mk h b' mk', x = .store g b mk → y = .store h b' mk' → g ≠ h) := by
  have hu : ∀ g, wCommit.unread ⟨none, g⟩ (some (0, 0)) := fun g => by
    refine ⟨fun e he => ?_, fun pk hp => absurd hp List.not_mem_nil⟩
    have h : wCommit.cores = [(0, wCommit.coreAt 0)] := rfl
    rw [h, List.mem_singleton] at he
    subst he
    refine ⟨fun t ht hm => ?_, fun q hq => absurd hq (by exact List.not_mem_nil)⟩
    have h4 : ∀ t : Fin 4, t = 0 ∨ ((wCommit.coreAt 0).slots.get t).rs = [] := by decide +kernel
    rcases h4 t with rfl | h4
    · exact ht rfl
    · rw [h4] at hm; exact absurd hm List.not_mem_nil
  refine ⟨fun e he => ?_, ?_⟩
  · have h : (wCommit.slotAt 0 0).cb = [.store ⟨none, 0x240⟩ 1 1, .store ⟨none, 0x241⟩ 1 1] := rfl
    rw [h] at he
    simp only [List.mem_cons, List.not_mem_nil, or_false] at he
    rcases he with rfl | rfl
    · exact ⟨0x240, 1, 1, rfl, hu _⟩
    · exact ⟨0x241, 1, 1, rfl, hu _⟩
  · refine List.pairwise_cons.mpr ⟨fun y hy g b mk h b' mk' h1 h2 => ?_, List.pairwise_singleton ..⟩
    rw [List.mem_singleton.mp hy] at h2
    cases h1; cases h2; decide
/-- Chip 9 is peer 5, where entries 3 and 5 go; entry 7 has gone there and is not confirmed. -/
def wLoss : State := { wPath with ft := wPath.ft ++ [ftE 7 (some 5) none] }
theorem witness_LinkLoss : (∀ e ∈ wLoss.cores, ∀ t : Fin 4, (e.2.slots.get t).remote = none ∧ (e.2.slots.get t).orphans = []) ∧ wLoss.noneRead (fun g => g.peer ≠ none)
    ∧ (wLoss.ft.map (·.id)).Nodup ∧ (∀ e ∈ wLoss.ft, e.msg = none)
    ∧ (ftE 7 (some 5) none ∈ wLoss.ft ∧ (wLoss.op.filter fun o => o.ft == 7).length < (ftE 7 (some 5) none).parts ∧ wLoss.taskStands w0.curTask = true)
    ∧ ∃ x, (0, x) ∈ wLoss.contexts ∧ ∃ e : Peer, x.peers[5]? = some e ∧ e.valid = true ∧ e.chip.toNat = 9 :=
  ⟨by decide +kernel, noneRead_of (by decide +kernel) rfl _, by decide +kernel, by decide +kernel, by decide +kernel,
    { Context.fresh placedDesc with peers := (Vector.replicate 32 Peer.none).set 5 ⟨9, 0, true, 0, false, false⟩ |>.set 6 ⟨8, 0, true, 0, true, false⟩ }, List.mem_cons_self ..,
    ⟨9, 0, true, 0, false, false⟩, rfl, rfl, rfl⟩

/-! ### Barriers, messages, delegation -/

/-- Slot 0 of the sync region with EXPECTED 2 and one arrival, slot 1 with EXPECTED 1, slot 2 with the aborted phase 4 behind it. -/
def wSync : State :=
  let b (x : BarV) : Word × Word := (x.w0, x.w1)
  wCo fun x => { x with sync := [(0, b ⟨false, 0, 0, 2, 0, 0⟩), (1, b ⟨false, 0, 0, 1, 0, 0⟩), (2, b ⟨true, 5, 0, 1, 0, 0⟩)] }
theorem witness_CoreBarriers :
    let o (d : BitVec 11) : CqAddr := ⟨0, true, .cap, .core, d⟩
    let is (k : Nat) (x : BarV) : Prop := barOf (wSync.syncWords 0 (wSync.cqSlot (o (BitVec.ofNat 11 (2 * k))))).1 (wSync.syncWords 0 (wSync.cqSlot (o (BitVec.ofNat 11 (2 * k))))).2 = some x
    wSync.sl.remote = none ∧ wSync.curCore = 0 ∧ is 0 ⟨false, 0, 0, 2, 0, 0⟩ ∧ (arrivedAt ⟨false, 0, 0, 2, 0, 0⟩).phase = 0 ∧ is 1 ⟨false, 0, 0, 1, 0, 0⟩
    ∧ (arrivedAt ⟨false, 0, 0, 1, 0, 0⟩).phase ≠ 0 ∧ is 2 ⟨true, 5, 0, 1, 0, 0⟩ ∧ (wSync.g 0).setWidth 16 ≠ (5 : BitVec 16) ∧ (wSync.g 0).setWidth 16 = (0 : BitVec 16)
    ∧ wSync.op = [] ∧ wSync.colls = [] ∧ kindOf (wSync.syncWords 0 (wSync.cqSlot (o 6))).1 ≠ 1
    ∧ barOf (wSync.syncWords 0 (wSync.cqSlot (o 6))).1 (wSync.syncWords 0 (wSync.cqSlot (o 6))).2 = none := by decide +kernel
/-- Slots that wait in `bar.wait` on an object, and in `bar.sync` after their arrival. -/
theorem witness_CoreBarriers_waits : let q := BarRef.dev 0x9000 false
    let w (i : Instr) (r : Option BarRef) : Wait := { w0.newWait i .cap 1 with obj := r }
    ∀ r ∈ [none, some q], (∃ sl : Slot, sl.wait = some (w (.barWait 1 ⟨0, true, .cap, .dev, 0⟩) r) ∧ sl.orphans = [] ∧ sl.remote = none)
      ∧ ∃ sl : Slot, sl.wait = some (w (.barSync 1 ⟨0, true, .cap, .dev, 0⟩) r) ∧ sl.orphans = [] ∧ (w (.barSync 1 ⟨0, true, .cap, .dev, 0⟩) r).ended = none
        ∧ sl.remote = some ⟨.barArrive q, some ⟨3, 0, 3⟩⟩ := by
  intro q w r _
  exact ⟨⟨{ Slot.reset with wait := some (w (.barWait 1 ⟨0, true, .cap, .dev, 0⟩) r) }, rfl, rfl, rfl⟩,
    { Slot.reset with wait := some (w (.barSync 1 ⟨0, true, .cap, .dev, 0⟩) r), remote := some ⟨.barArrive q, some ⟨3, 0, 3⟩⟩ }, rfl, rfl, rfl, rfl⟩
theorem plain_wSync : wSync.Plain ∧ wSync.mayWait .cap := ⟨⟨rfl, rfl, rfl, rfl, rfl⟩, by unfold State.mayWait; decide⟩
/-- Sync slot 0 a proxy of the device object at 0x9000, which holds a barrier of EXPECTED 1. -/
def wProxy (r : Option RemoteAns) : State :=
  let b : BarV := ⟨false, 3, 0, 1, 0, 0⟩
  let s := wCo fun x => { x with sync := [(0, (0xC000000000000000, 0x9000))] }
  let s := { s with mem := mputs s.mem 0x9000 (leBytes 8 b.w0.toNat ++ leBytes 8 b.w1.toNat) }
  match r with
  | none => s
  | some a => s.setSl { s.sl with remote := some ⟨.barArrive (.dev 0x9000 false), some a⟩, wait := some (s.atObject (.barArrive 1 ⟨0, true, .cap, .dev, 0⟩) .cap 1 0 (.dev 0x9000 false)) }
theorem witness_RemoteBarriers : (wProxy none).sl.remote = none ∧ (wProxy none).resolve ⟨0, true, .cap, .dev, 0⟩ needRW = .object (.dev 0x9000 false)
    ∧ (wProxy none).spec = false ∧ (wProxy none).suspended = [] ∧ (wProxy none).barRead (.dev 0x9000 false) = some ⟨false, 3, 0, 1, 0, 0⟩ ∧ (wProxy none).op = []
    ∧ (wProxy none).memWf = true ∧ 0x9000 % 16 = 0 ∧ (wProxy none).Plain ∧ (wProxy none).mayWait .cap ∧ ∀ g, (wProxy none).unread g none := by
  refine ⟨rfl, by decide +kernel, rfl, rfl, by decide +kernel, rfl, by decide +kernel, rfl, ⟨rfl, rfl, rfl, rfl, rfl⟩, by unfold State.mayWait; decide, fun g => unread_of (by decide +kernel) rfl _ _⟩
theorem witness_RemoteBarriers_reply : (wProxy (some ⟨2, 0, 3⟩)).Retries ((wProxy none).atObject (.barArrive 1 ⟨0, true, .cap, .dev, 0⟩) .cap 1 0 (.dev 0x9000 false))
    ∧ (wProxy (some ⟨2, 0, 3⟩)).sl.remote = some ⟨.barArrive (.dev 0x9000 false), some ⟨(2 : BitVec 16).setWidth 64, 0, (3 : BitVec 16).setWidth 32⟩⟩
    ∧ (wProxy (some ⟨2, 0, 3⟩)).barRead (.dev 0x9000 false) = some ⟨false, 3, 0, 1, 0, 0⟩ ∧ (3 : BitVec 16) ≠ 2 := by
  refine ⟨⟨rfl, rfl, rfl, rfl, rfl⟩, rfl, by decide +kernel, by decide⟩
theorem witness_RemoteBarriers_port : (wProxy none).late = false
    ∧ ((wProxy none).setCo { (wProxy none).co with sync := [(0, (0xC000000000000001, 0x9000))] }).resolve ⟨0, true, .cap, .sys, 0⟩ needRW = .object (.dev 0x9000 true)
    ∧ (wProxy none).barRead (.dev 0x9000 true) = some ⟨false, 3, 0, 1, 0, 0⟩ ∧ (arrivedAt ⟨false, 3, 0, 1, 0, 0⟩).phase ≠ 3 ∧ (arrivedAt ⟨false, 3, 0, 2, 0, 0⟩).phase = 3 := by
  decide +kernel
/-- A poll's arrival and withdrawal still to be taken as one step; and waits that a `bar.init` has ended. -/
theorem witness_RemoteBarriers_ended : let r := BarRef.dev 0x9000 true
    let w (i : Instr) : Wait := { w0.newWait i .cap 1 with ended := some 4 }
    let s (i : Instr) (q : Option Remote) : State := wSl fun x => { x with wait := some (w i), remote := q }
    (∃ x : State, (x.slotAt 0 0).remote = some ⟨.trySync r 2, none⟩ ∧ x.barRead r = some ⟨false, 3, 0, 1, 0, 0⟩)
    ∧ (s (.barSync 1 ⟨0, true, .cap, .sys, 0⟩) (some ⟨.barArrive r, some ⟨3, 0, 3⟩⟩)).Retries (w (.barSync 1 ⟨0, true, .cap, .sys, 0⟩))
    ∧ (s (.barWait 1 ⟨0, true, .cap, .sys, 0⟩) none).Retries (w (.barWait 1 ⟨0, true, .cap, .sys, 0⟩)) := by
  intro r w s
  refine ⟨⟨(wProxy none).setSl { (wProxy none).sl with remote := some ⟨.trySync r 2, none⟩ }, rfl, by decide +kernel⟩, ⟨rfl, rfl, rfl, rfl, rfl⟩, ⟨rfl, rfl, rfl, rfl, rfl⟩⟩
/-- Core 0 in the context's core set, with a `send` of the thread on its path, behind nothing. -/
def wMsg : Msg := mkMsg 0x40 1 0 0 0 0 0 0
def wSend : State :=
  { (wTh fun t => { t with g := gs.set 3 0 }) with
    mem := mset w0.mem 0 1
    op := [⟨w0.curTask, 0, 0, 0, 0, noGran none, .message (.localCore 0) wMsg, 0⟩] }
theorem witness_Sends : wSend.Plain ∧ wSend.spec = false ∧ (wSend.g 3).toNat / 65536 % 64 = 0 ∧ wSend.targetCore wSend.curCtx (BitVec.ofNat 13 (wSend.g 3).toNat) = some 0
    ∧ (wSend.coreAt 0).ctx = some wSend.curCtx ∧ (wSend.coreAt 0).msgRoom = true ∧ wSend.lineage? wSend.curCtx wSend.th.lid = some { Lineage.root with live := 1 }
    ∧ (wSend.pathOf 0 0)[0]? = some ⟨w0.curTask, 0, 0, 0, 0, noGran none, .message (.localCore 0) wMsg, 0⟩ ∧ wSend.annulled 0 (msgLid wMsg) = false
    ∧ wSend.stubTarget 0 0 wMsg = none ∧ (wSend.dieAt (dieOf 0)).monitors = [] ∧ tget (wSend.coreAt 0).inbox 0 = none
    ∧ ∀ z, ¬wSend.olderOn ⟨w0.curTask, 0, 0, 0, 0, noGran none, .message (.localCore 0) wMsg, 0⟩ z :=
  ⟨⟨rfl, rfl, rfl, rfl, rfl⟩, by decide +kernel, by decide +kernel, by decide +kernel, by decide +kernel, by decide +kernel, by decide +kernel, by decide +kernel, by decide +kernel,
    by decide +kernel, rfl, rfl, fun z h => older_first rfl ⟨z, h⟩⟩
/-- The same behind a store of the thread. -/
def wSend2 : State := { wSend with op := opE 1 ⟨none, 0x240⟩ :: wSend.op }
theorem witness_Sends_behind : (wSend2.pathOf 0 0)[1]? = some ⟨w0.curTask, 0, 0, 0, 0, noGran none, .message (.localCore 0) wMsg, 0⟩
    ∧ ∃ z, wSend2.olderOn ⟨w0.curTask, 0, 0, 0, 0, noGran none, .message (.localCore 0) wMsg, 0⟩ z ∧ ∃ b mk, z.body = .store b mk ∧ z.gran.peer = none :=
  ⟨rfl, opE 1 ⟨none, 0x240⟩, ⟨[opE 1 ⟨none, 0x240⟩], [], rfl, by decide +kernel, by decide +kernel, rfl⟩, 1, 1, rfl, rfl⟩
/-- A send whose wait holds its credit. -/
theorem witness_Sends_credit : let w : Wait := { w0.newWait (.send 3 1 .cap 1 0x40) .cap 1 with credit := some (.localCore 0) }
    let s : State := wSend.setSl { wSend.sl with wait := some w }
    s.Retries w ∧ w.credit = some (.localCore 0) ∧ s.spec = false ∧ s.lineage? s.curCtx s.th.lid = some { Lineage.root with live := 1 } :=
  ⟨⟨rfl, rfl, rfl, rfl, rfl⟩, rfl, rfl, rfl⟩
/-- Two messages of tag 0x40 in the inbox, the earlier one at place 1. -/
def wRecv : State :=
  let s := wCo fun x => { x with inbox := [(0, ⟨.message wMsg 0, 0, 0, 5, false, none, false⟩), (1, ⟨.message wMsg 0, 0, 0, 4, false, none, false⟩)], tagen := 2 }
  (s.setTh { s.th with g := gs.set 3 0x40 |>.set 4 1 }).setLineage 0 0 { Lineage.root with live := 3 }
theorem witness_Receives : wRecv.Plain ∧ wRecv.co.tagen.getLsbD ((wRecv.g 4).setWidth 8).toNat = true ∧ wRecv.co.tagen.getLsbD ((wRecv.g 3).setWidth 8).toNat = false
    ∧ wRecv.purgeCore wRecv.curCore = wRecv ∧ wRecv.mayWait .cap ∧ wRecv.co.memWf = true ∧ (1, ⟨.message wMsg 0, 0, 0, 4, false, none, false⟩) ∈ wRecv.co.inbox
    ∧ msgTag wMsg = (wRecv.g 3).setWidth 8 ∧ wRecv.lineage? wRecv.curCtx (msgLid wMsg) = some { Lineage.root with live := 3 } ∧ w0.purgeCore 0 = w0 ∧ w0.co.inbox = [] := by
  refine ⟨⟨rfl, rfl, rfl, rfl, rfl⟩, by decide +kernel, by decide +kernel, rfl, by unfold State.mayWait; decide +kernel, rfl, by decide +kernel, by decide +kernel, by decide +kernel,
    rfl, rfl⟩
def wServer : State := { (wSend.setCore 0 { wSend.coreAt 0 with server := true }) with op := [] }
def wSlot3 : State := wCo fun x => x.setSlot 3 { Slot.reset with task := some placedTask }
theorem witness_Delegation : wSend.Plain ∧ (wSend.coreAt 0).server = false ∧ wServer.Plain ∧ (wServer.coreAt 0).server = true ∧ (wServer.coreAt 0).ctx = some wServer.curCtx
    ∧ (wServer.coreAt 0).delegQ.length + (wServer.coreAt 0).delegHeld < 32 ∧ wServer.spec = false ∧ wServer.sl.task = some placedTask
    ∧ wServer.targetCore wServer.curCtx (BitVec.ofNat 13 (wServer.g 3).toNat) = some 0 ∧ wUser.th.priv = 0 ∧ w0.th.priv ≠ 0 ∧ (w0.co.slots.get 3).task = none
    ∧ (wSlot3.co.slots.get 3).task ≠ none ∧ wSlot3.mayWait .cap := by
  refine ⟨⟨rfl, rfl, rfl, rfl, rfl⟩, rfl, ⟨rfl, rfl, rfl, rfl, rfl⟩, rfl, rfl, by decide +kernel, by decide +kernel, rfl, by decide +kernel, rfl, by decide, rfl, by decide +kernel, by unfold State.mayWait; decide +kernel⟩
/-- The server with a full queue, and a core of another context. -/
def wBusyServer : State := wServer.setCore 0 { wServer.coreAt 0 with delegHeld := 32 }
def wAbroad : State := wServer.setCore 0 { wServer.coreAt 0 with ctx := some 3 }
theorem witness_Delegation_waits : (wSend.coreAt 0).ctx = some wSend.curCtx ∧ 32 ≤ (wBusyServer.coreAt 0).delegQ.length + (wBusyServer.coreAt 0).delegHeld ∧ (wBusyServer.coreAt 0).server = true
    ∧ (wAbroad.coreAt 0).ctx ≠ some wAbroad.curCtx ∧ (wServer.g 3).toNat / 65536 % 64 = 0 ∧ wBusyServer.mayWait .cap ∧ wAbroad.mayWait .cap
    ∧ wServer.lineage? wServer.curCtx wServer.th.lid = some { Lineage.root with live := 1 } := by
  refine ⟨by decide +kernel, by decide +kernel, by decide +kernel, by decide +kernel, by decide +kernel, ?_, ?_, by decide +kernel⟩ <;> unfold State.mayWait <;> decide +kernel
theorem witness_Delegation_home : wDev.translateRange wDev.curCtx 1 (wDev.descWord wDev.curCtx 6 + 4 * ((wDev.g 2 * 0x9E3779B97F4A7C15 + wDev.g 0 * 0xC2B2AE3D27D4EB4F) >>> 52)) 4 needR
    = .ok [(none, 4 * ((wDev.g 2 * 0x9E3779B97F4A7C15 + wDev.g 0 * 0xC2B2AE3D27D4EB4F) >>> 52).toNat, 4)] ∧ wDev.op = [] ∧ wDev.lq = [] ∧ wDev.late = false :=
  ⟨ok_of (by decide +kernel), rfl, rfl, rfl⟩

/-! ### Work, groups, nodes, tags, lineages -/

/-- A core whose deque is full, and one whose frames are in use besides. -/
def wDeque : State := wCo fun x => { x with deque := List.replicate 64 ⟨0, 0, none⟩ }
def wFrames : State := wDeque.setSl { wDeque.sl with inline := (List.range 8).map fun i => ⟨i, w0.th⟩ }
theorem witness_Forks : w0.Plain ∧ w0.sl.task = some placedTask ∧ w0.lineage? placedTask.ctx w0.th.lid = some { Lineage.root with live := 1 } ∧ w0.co.deque.length < 64
    ∧ placedTask.spec = false ∧ wSpec.spec = true ∧ wSpec.sl.cb.length < 32 ∧ wDeque.Plain ∧ 64 ≤ wDeque.co.deque.length ∧ 0 ∉ wDeque.co.framesUsed
    ∧ wDeque.sl.inline.length < wDeque.th.inldepth.toNat ∧ wFrames.Plain ∧ 64 ≤ wFrames.co.deque.length ∧ ∀ j < 8, j ∈ wFrames.co.framesUsed := by
  refine ⟨plain_w0, rfl, by decide +kernel, by decide, rfl, by decide +kernel, by decide, ⟨rfl, rfl, rfl, rfl, rfl⟩, by decide +kernel, by decide +kernel, by decide +kernel, ⟨rfl, rfl, rfl, rfl, rfl⟩, by decide +kernel, by decide +kernel⟩
def wKid : State := wTh fun t => { t with children := 2 }
def wHeld : State := wSpec.setSl { wSpec.sl with cb := [.deque 0 0 1] }
def wInl : State := wSl fun x => { x with inline := [⟨0, w0.th⟩] }
def wDone : State := (wCtx (fun x => { x with kernels := [(0, ⟨0x8000, 0, 0, 0, 0, 0, 0, 0, 0, 8⟩)] })
    (wSl fun x => { x with task := some { placedTask with kind := .plain } })).setLineage 0 0 { Lineage.root with live := 2 }
theorem witness_JoinAndDone : w0.Plain ∧ w0.sl.cb = [] ∧ w0.th.children = 0 ∧ wKid.Plain ∧ wKid.th.children ≠ 0 ∧ wKid.mayWait .cap ∧ placedTask.spec = false ∧ wHeld.Plain
    ∧ wHeld.spec = true ∧ wHeld.mayWait .cap ∧ (∃ e ∈ wHeld.sl.cb, ∃ p q z, e = .deque p q z) ∧ wInl.Plain ∧ wInl.sl.inline = [] ++ [⟨0, w0.th⟩] ∧ w0.th.lid = wInl.th.lid := by
  refine ⟨plain_w0, rfl, rfl, ⟨rfl, rfl, rfl, rfl, rfl⟩, by decide, by unfold State.mayWait; decide +kernel, rfl, ⟨rfl, rfl, rfl, rfl, rfl⟩, by decide +kernel, by unfold State.mayWait; decide +kernel, ⟨_, List.mem_cons_self .., 0, 0, 1, rfl⟩,
    ⟨rfl, rfl, rfl, rfl, rfl⟩, rfl, rfl⟩
theorem witness_JoinAndDone_ends : wDone.Plain ∧ wDone.sl.inline = [] ∧ wDone.spec = false ∧ wDone.sl.cb = [] ∧ wDone.th.parent = none ∧ wDone.sl.claim = 0 ∧ wDone.sl.token = none
    ∧ (wDone.dieAt (dieOf wDone.curCore)).boostQ = [] ∧ (∀ e ∈ wDone.clusters, e.2.harp.lease = none)
    ∧ wDone.lineage? 0 wDone.th.lid = some { Lineage.root with live := 2 } ∧ ∃ y, wDone.ctx? 0 = some y ∧ (tget y.kernels 0).isSome = true :=
  ⟨⟨rfl, rfl, rfl, rfl, rfl⟩, rfl, rfl, rfl, rfl, rfl, rfl, rfl, by decide +kernel, by decide +kernel, _, rfl, rfl⟩
/-- A record of PRIO 3 in the inbox, and cores 0 and 1 in the core set, both of context 0. -/
def wPair : State :=
  let s := { (wTh fun t => { t with g := gs.set 3 0x20000 |>.set 4 1 }) with mem := mset w0.mem 0 3 }
  let s := { s with fw := { s.fw with l2p := tset s.fw.l2p 1 (l2pEntry true 1) } }
  s.setCore 1 { Core.reset with ctx := some 0 }
def wRival : State := wCo fun x => { x with inbox := [(0, ⟨.record { wRec with record := mkRec 0 0 0 0 0 0 0xD 0 0 0 0 }, 0, 0, 0, false, none, false⟩)] }
theorem witness_Packages : w0.sl.task = some placedTask ∧ w0.rival w0.curCore placedTask.prio = false ∧ wRival.Plain ∧ wRival.rival wRival.curCore placedTask.prio = true
    ∧ wRival.co.recRoom 4 = true ∧ wRival.sl.cb = [] ∧ wRival.sl.halt = none ∧ wRival.sl.claim = 0 ∧ (wRival.dieAt (dieOf wRival.curCore)).boostQ = []
    ∧ (wRival.co.inbox.map (·.1)).Pairwise (· < ·) ∧ ∀ e ∈ wRival.co.inbox, e.1 < 128 := by
  refine ⟨rfl, by decide +kernel, ⟨rfl, rfl, rfl, rfl, rfl⟩, by decide +kernel, by decide +kernel, rfl, rfl, rfl, rfl, by decide, by decide⟩
theorem witness_Packages_migrate : wPair.Plain ∧ wPair.physOf (BitVec.ofNat 13 (wPair.g 0).toNat) = some wPair.curCore ∧ wPair.inCoreSet 0 0 = true
    ∧ wPair.physOf (BitVec.ofNat 13 (wPair.g 4).toNat) = some 1 ∧ wPair.inCoreSet 0 1 = true ∧ wPair.sl.inline = [] ∧ wPair.sl.cb = [] ∧ wPair.enginesBusy wPair.curCore placedTask.id = false
    ∧ wPair.packRoom 0 1 = true ∧ wPair.sl.halt = none ∧ wPair.sl.claim = 0 ∧ (wPair.dieAt (dieOf wPair.curCore)).boostQ = [] ∧ (wPair.clusterAt (clusterOf wPair.curCore)).harp.lease = none := by
  refine ⟨⟨rfl, rfl, rfl, rfl, rfl⟩, by decide +kernel, by decide +kernel, by decide +kernel, by decide +kernel, rfl, rfl, by decide +kernel, by decide +kernel, rfl, rfl, rfl, rfl⟩
/-- A speculative thread with a buffer to commit, one whose engine is busy, and migrations refused: to no core, out of the core set, out of an inline child
and of a delegated task. -/
def wMove (f : Slot → Slot) : State := wPair.setSl (f wPair.sl)
theorem witness_Packages_stays :
    let s1 := wMove fun x => { x with cb := [.store ⟨none, 0x240⟩ 1 1], task := some { placedTask with kind := .plain, spec := true } }
    let s2 := wPair.setCo { wPair.co with
      cmu := [⟨9, .mzero 0, wPair.issuer, 0, 0, 2, 0, 0, 0, [], [], Alloc.whole 0xC000, Alloc.whole 0x8000, Alloc.whole 0x4000, 8, 0, 0, 0, false⟩] }
    s1.Plain ∧ s1.sl.cb ≠ [] ∧ s1.spec = true ∧ s2.Plain ∧ s2.enginesBusy s2.curCore placedTask.id = true ∧ s2.sl.cb = []
    ∧ wPair.physOf (BitVec.ofNat 13 (wPair.g 2).toNat) = none ∧ wPair.physOf 0 = some 0 ∧ { wPair with mem := mset wPair.mem 0 1 }.inCoreSet 0 1 = false
    ∧ (wMove fun x => { x with inline := [⟨0, x.thread⟩] }).sl.inline ≠ [] := by
  intro s1 s2
  refine ⟨⟨rfl, rfl, rfl, rfl, rfl⟩, ?_⟩
  refine ⟨by decide +kernel, by decide +kernel, ⟨rfl, rfl, rfl, rfl, rfl⟩, by decide +kernel, rfl, by decide +kernel, by decide +kernel, by decide +kernel, by decide +kernel⟩
theorem witness_Packages_waits : (wMove fun x => { x with cb := [.store ⟨none, 0x240⟩ 1 1] }).mayWait .cap ∧ ∃ q, ∃ k : Task, k.kind = .deleg q :=
  ⟨by unfold State.mayWait; decide +kernel, ⟨0, 0, 0, 0, 0, 0, false, 0, 0⟩, { placedTask with kind := .deleg ⟨0, 0, 0, 0, 0, 0, false, 0, 0⟩ }, rfl⟩
theorem witness_Packages_arrival : wFlight.transit[0]? = some ⟨w0.th, placedTask, [], 0, 0, [], 1, none⟩ ∧ wFlight.annulled 0 w0.th.lid = false
    ∧ (wFlight.coreAt 0).inbox.length + 4 ≤ 128 := ⟨rfl, by decide +kernel, by decide +kernel⟩
theorem witness_Groups : wPair.gangRun ((wPair.g 0).toNat % 2 ^ 13) ((wPair.g 0).toNat / 2 ^ 16 % 32) = none ∧ wPair.Plain
    ∧ wPair.gangRun ((wPair.g 3).toNat % 2 ^ 13) ((wPair.g 3).toNat / 2 ^ 16 % 32) = some [0, 1] ∧ [0, 1].Nodup ∧ wPair.sl.task = some placedTask ∧ placedTask.spec = false
    ∧ (∀ c ∈ [0, 1], c ≠ wPair.curCore → wPair.freeSlot c ≠ none ∧ wPair.reservedAt c = none)
    ∧ ∀ u : State, ∀ y, ∃ y', u.reloadDict placedTask.ctx y wPair.sl.dict.activeBank.handle = .ok y' := by
  refine ⟨by decide +kernel, ⟨rfl, rfl, rfl, rfl, rfl⟩, by decide +kernel, by decide, rfl, rfl, by decide +kernel, fun u y => ?_⟩
  have h : wPair.sl.dict.activeBank.handle = 0 := by decide +kernel
  rw [h]
  unfold State.reloadDict
  split
  · exact ⟨_, rfl⟩
  · split
    · exact ⟨_, rfl⟩
    · exact ⟨_, rfl⟩
def wLead : State := (wPair.setSl { wPair.sl with group := some (.leader [(0, 0), (1, 2)] 0 3) }).setSlot 1 2 { Slot.reset with group := some (.follower 0 0 1 true) }
theorem witness_Groups_rejoin : wLead.sl.group = some (.leader [(0, 0), (1, 2)] 0 3) ∧ wLead.sl.stepping = false ∧ wLead.sl.wait = none ∧ wLead.sl.pendA = none ∧ wLead.sl.newPc = none
    ∧ [(0, (0 : Fin 4)), (1, 2)].Nodup ∧ (wLead.slotAt 1 2).fwd = [] ∧ (wLead.slotAt 1 2).wait = none ∧ (wLead.slotAt 1 2).group = some (.follower 0 0 1 true) :=
  ⟨rfl, rfl, rfl, rfl, rfl, by decide, rfl, rfl, rfl⟩
/-- The follower in slot 2 of core 1 with the given units forwarded; and the machine in its turn. -/
def wFwd (l : List Fwd) : State := wLead.setSlot 1 2 { wLead.slotAt 1 2 with fwd := l, task := some placedTask }
def wTurn2 (l : List Fwd) : State := { wFwd l with curCore := 1, curSlot := 2 }
def fwd0 (done : Bool) (next : Option Word) : Fwd := ⟨0, 0, 0x8000, next, done, none, false⟩
theorem witness_GroupForwarding : (wFwd []).sl.group = some (.leader [(0, 0), (1, 2)] 0 3) ∧ ((1, 2) : Nat × Fin 4) ≠ ((wFwd []).curCore, (wFwd []).curSlot)
    ∧ (∀ l ∈ [[], [fwd0 true none], List.replicate 4 (fwd0 false (some 0))], ((wFwd l).slotAt 1 2).group = some (.follower 0 0 1 true) ∧ ((wFwd l).slotAt 1 2).fwd = l)
    ∧ (wFwd []).sl.stepping = false ∧ (wFwd []).sl.halt = none ∧ (wFwd []).sl.wait = none ∧ (wFwd []).sl.pendA = none ∧ (wFwd []).sl.newPc = none ∧ (wFwd []).sl.misTarget = none
    ∧ (wFwd []).sl.group ≠ none ∧ (wFwd []).gangRun (((wFwd []).g 3).toNat % 2 ^ 13) (((wFwd []).g 3).toNat / 2 ^ 16 % 32) ≠ none := by decide +kernel
theorem witness_GroupForwarding_follows : ((1, 2) : Nat × Fin 4) ≠ (0, 0) ∧ ∀ x ∈ [fwd0 false none, fwd0 false (some 0x8008), fwd0 false (some 0x9000)], let s := wTurn2 [x]
    s.sl.group = some (.follower 0 0 1 true) ∧ (s.slotAt 0 0).group = some (.leader [(0, 0), (1, 2)] 0 3) ∧ s.sl.stepping = false ∧ s.sl.halt = none ∧ s.sl.wait = none
    ∧ s.sl.pendA = none ∧ s.sl.newPc = none ∧ s.sl.misTarget = none ∧ s.sl.fwd = [x] ∧ x.done = false ∧ s.sl.parkAsked = false ∧ s.sl.overrun = false ∧ s.sl.reload = none
    ∧ s.breakHit = none := by decide +kernel
/-- What is told of a unit: to one behind, to one at the leader's pc, and to one that a `rejoin` has sent on. -/
theorem witness_GroupForwarding_told : ∀ l ∈ [[], [fwd0 true (some 0x8008)], [fwd0 false none]], let sl := (wFwd l).slotAt 1 2
    sl.group = some (.follower 0 0 1 true) ∧ sl.fwd = l ∧ sl.thread.pc ≠ (wFwd l).th.pc
    ∧ ((wFwd []).setSlot 1 2 { sl with thread := (wFwd []).th }).th.pc = (((wFwd []).setSlot 1 2 { sl with thread := (wFwd []).th }).slotAt 1 2).thread.pc := by decide +kernel
/-- A follower of slot 2 of core 1 whose engine is busy, and which would migrate to core 0. -/
def wFollowBusy : State :=
  let s := wTurn2 []
  s.setCo { s.co with
    cmu := [⟨9, .mzero 0, s.issuer, 0, 0, 2, 0, 0, 0, [], [], Alloc.whole 0xC000, Alloc.whole 0x8000, Alloc.whole 0x4000, 8, 0, 0, 0, false⟩]
    slots := s.co.slots.set 2 { s.sl with thread := { s.th with waitcap := 9, dla := 9 } } }
theorem witness_GroupForwarding_migrate : wFollowBusy.sl.group = some (.follower 0 0 1 true) ∧ (wFollowBusy.slotAt 0 0).group = some (.leader [(0, 0), (1, 2)] 0 3)
    ∧ wFollowBusy.sl.task = some placedTask ∧ wFollowBusy.sl.inline = [] ∧ wFollowBusy.sl.cb = [] ∧ wFollowBusy.physOf (BitVec.ofNat 13 (wFollowBusy.g 0).toNat) = some 0
    ∧ 0 ≠ wFollowBusy.curCore ∧ wFollowBusy.inCoreSet wFollowBusy.curCtx (BitVec.ofNat 13 (wFollowBusy.g 0).toNat) = true ∧ wFollowBusy.enginesBusy wFollowBusy.curCore placedTask.id = true
    ∧ wFollowBusy.mayWait .cap := by
  refine ⟨by decide +kernel, by decide +kernel, by decide +kernel, by decide +kernel, by decide +kernel, by decide +kernel, by decide +kernel, by decide +kernel, by decide +kernel, ?_⟩
  unfold State.mayWait; decide +kernel
/-- Nodes 0 (counter 2), 1 (counter 1) and 2 (counter 0, of generation 3) of die 0, node 0 on the ready list. -/
def wNode (h : BitVec 32) : State :=
  let n (c : BitVec 16) (r : Bool) : Node := ⟨wRec, c, 0, r⟩
  let s := wSend.setDie 0 { wSend.dieAt 0 with nodes := [(0, n 2 false), (1, n 1 false), (2, n 0 true)], gens := [(2, 3)], ready := [2] }
  { s.setSl { s.sl with remote := some ⟨.nodeDec h, none⟩ } with op := [] }
theorem witness_Nodes : wSend.Plain ∧ wSend.spec = false ∧ wSend.targetCore 0 (BitVec.ofNat 13 (wSend.g 3).toNat) ≠ none
    ∧ wSend.annulled 0 (recLid (BitVec.ofNat 512 (leNat (wSend.bufLoad .load .a (wSend.g 0).toNat 64)))) = false ∧ (wSend.dieAt 0).nodes = [] ∧ wSend.sl.remote = none ∧ wSend.mayWait .cap := by
  refine ⟨⟨rfl, rfl, rfl, rfl, rfl⟩, by decide +kernel, by decide +kernel, by decide +kernel, rfl, rfl, by unfold State.mayWait; decide +kernel⟩
theorem witness_Nodes_steps : (wNode 0).sl.task = some placedTask ∧ (wNode 0).sl.remote = some ⟨.nodeDec 0, none⟩ ∧ (wNode 0).op = []
    ∧ (tget ((wNode 0).dieAt 0).nodes 0) = some ⟨wRec, 2, 0, false⟩ ∧ tget ((wNode 0).dieAt 0).nodes 1 = some ⟨wRec, 1, 0, false⟩
    ∧ (3 : BitVec 12).toNat * 2 ^ 20 + 0 * 2 ^ 18 + 2 = (0x00300002 : BitVec 32).toNat ∧ wRec.ctx = placedTask.ctx ∧ ((wNode 0).dieAt 0).ready = [2]
    ∧ (wNode 0).annulled 0 (recLid wRec.record) = false ∧ (wNode 0).physOf 0 = some 0 ∧ ((wNode 0).coreAt 0).ctx = some 0 ∧ ((wNode 0).coreAt 0).recRoom 1 = true
    ∧ tget ((wNode 0).coreAt 0).inbox 0 = none := by decide +kernel
/-- Behind the node at the head, whose target is not resident, one whose own target has room. -/
theorem witness_Nodes_behind : let n (t : BitVec 13) : Node := ⟨wRec, 0, t, true⟩
    let s := wPair.setDie 0 { wPair.dieAt 0 with nodes := [(0, n 1), (2, n 0)], ready := [0, 2] }
    let s := s.setCore 1 { s.coreAt 1 with ctx := none }
    (s.dieAt 0).ready = [0] ++ 2 :: [] ∧ 2 ∉ [0] ∧ (∀ j ∈ [0], ∃ o, tget (s.dieAt 0).nodes j = some o ∧ s.annulled o.task.ctx (recLid o.task.record) = false
      ∧ ∀ q, s.physOf o.target = some q → (s.coreAt q).ctx ≠ some o.task.ctx ∨ (s.coreAt q).recRoom 1 = false)
    ∧ tget (s.dieAt 0).nodes 2 = some (n 0) ∧ s.physOf (n 0).target = some 0 ∧ (s.coreAt 0).ctx = some (n 0).task.ctx ∧ (s.coreAt 0).recRoom 1 = true := by
  intro n s
  refine ⟨rfl, by decide, fun j hj => ?_, by decide +kernel, by decide +kernel, by decide +kernel, by decide +kernel⟩
  rw [List.mem_singleton.mp hj]
  refine ⟨n 1, by decide +kernel, by decide +kernel, fun q hq => Or.inl ?_⟩
  have h : s.physOf (n 1).target = some 1 := by decide +kernel
  cases hq.symm.trans h
  decide +kernel
def wNodeBack : State := wSl fun x => { x with remote := some ⟨.nodeDec 5, some ⟨0, 0, 4⟩⟩, wait := some (w0.newWait (.nodeDec 1 .cap) .cap 1) }
theorem witness_Nodes_reply : wNodeBack.Retries (w0.newWait (.nodeDec 1 .cap) .cap 1) ∧ wNodeBack.sl.remote = some ⟨.nodeDec 5, some ⟨0, 0, 4⟩⟩ := ⟨⟨rfl, rfl, rfl, rfl, rfl⟩, rfl⟩
def wTag : State := wRecv.setCo { wRecv.co with inbox := [(0, ⟨.message wMsg 0, 0, 0, 5, false, none, false⟩)] }
theorem witness_Tags : wUser.Plain ∧ wUser.th.priv = 0 ∧ w0.Plain ∧ w0.th.priv ≠ 0 ∧ w0.co.inbox = [] ∧ wTag.Plain ∧ wTag.th.priv ≠ 0
    ∧ wTag.co.waiting wTag.curCtx (BitVec.ofNat 8 ((wTag.g 3).toNat % 256)) = [(0, ⟨.message wMsg 0, 0, 0, 5, false, none, false⟩)]
    ∧ (wTag.dieAt (dieOf (wTag.recordCore wTag.curCtx 18 wTag.curCore))).carriedPlaces < 4096 :=
  ⟨plain_wTh _, rfl, plain_w0, by decide, rfl, ⟨rfl, rfl, rfl, rfl, rfl⟩, by decide +kernel, by decide +kernel, by decide +kernel⟩
theorem witness_Tags_full : let s := wTag.setDie 0 { wTag.dieAt 0 with carriedPlaces := 4096 }
    4096 ≤ (s.dieAt (dieOf (s.recordCore s.curCtx 18 s.curCore))).carriedPlaces ∧ s.th.priv ≠ 0
    ∧ s.co.waiting s.curCtx (BitVec.ofNat 8 ((s.g 3).toNat % 256)) = [(0, ⟨.message wMsg 0, 0, 0, 5, false, none, false⟩)] := by decide +kernel
/-- A thread of lineage 1, which expires at 100 under the root; lineage 2 is annulled. -/
def wLin : State :=
  let l (e : Word) (st : LState) : Lineage := ⟨e, some 0, 0, 1, st, none, [], none, none⟩
  { (wTh fun t => { t with g := #v[0, 1, 2, 3, 50, 200, 0, 0, 0, 0, 0, 0, 0, 0, 0, 0], lid := 1 }) with
    lineages := [(0, Lineage.root), (1, l 100 .live), (2, l 100 .annulled)] }
def wLinFull (n : Nat) : State := { wLin with lineages := (0, Lineage.root) :: (1, ⟨100, some 0, 0, 1, .live, none, [], none, none⟩) :: List.replicate n (2, Lineage.root) }
theorem witness_Lineages : wLin.Plain ∧ wLin.annulled 0 2 = true ∧ wLin.annulled 0 1 = false ∧ wLin.instant = 0 ∧ wLin.effExpiry 0 1 = 100 ∧ wLin.freeLid 0 = some 3
    ∧ wLin.lineage? 0 3 = none ∧ wLin.lineage? 0 1 = some ⟨100, some 0, 0, 1, .live, none, [], none, none⟩ ∧ wLin.th.lid = 1 ∧ (wLin.g 4 = 50 ∧ wLin.g 0 = 0 ∧ wLin.g 5 = 200)
    ∧ wLin.lineage? 0 ((wLin.g 3).setWidth 20) = none ∧ (wLin.lineage? 0 ((wLin.g 2).setWidth 20)).isSome = true ∧ (wLin.lineage? 0 ((wLin.g 1).setWidth 20)).isSome = true :=
  ⟨⟨rfl, rfl, rfl, rfl, rfl⟩, by decide +kernel⟩
/-- The same in a speculative task. -/
def wLinSpec : State := wLin.setSl { wLin.sl with task := some { placedTask with kind := .plain, spec := true }, thread := { wLin.th with waitcap := 9 } }
theorem witness_Annulment_waits : wLinSpec.Plain ∧ wLinSpec.spec = true ∧ wLinSpec.mayWait .cap ∧ wLinSpec.annulled wLinSpec.curCtx ((wLinSpec.g 1).setWidth 20) = false
    ∧ (wLinSpec.g 1).setWidth 20 ≠ (0 : BitVec 20) ∧ (wLinSpec.lineage? wLinSpec.curCtx ((wLinSpec.g 1).setWidth 20)).isSome = true :=
  ⟨⟨rfl, rfl, rfl, rfl, rfl⟩, by decide +kernel, by unfold State.mayWait; decide +kernel, by decide +kernel, by decide +kernel, by decide +kernel⟩
theorem wLinFull_live (n : Nat) : (wLinFull n).annulled 0 1 = false := rfl
theorem wLinFull_full {n : Nat} (h : 1048576 ≤ n) : (wLinFull n).freeLid 0 = none := by
  refine if_pos ?_
  simp only [wLinFull, List.length_cons, List.length_replicate]
  omega
theorem witness_Lineages_full : ∃ n, (wLinFull n).Plain ∧ (wLinFull n).freeLid 0 = none ∧ (wLinFull n).annulled 0 1 = false :=
  ⟨1048576, ⟨rfl, rfl, rfl, rfl, rfl⟩, wLinFull_full (Nat.le_refl _), wLinFull_live _⟩
/-- Lineage 5 has passed its expiry with work left, 6 without, 7 has not. -/
def wExp : State :=
  { w0 with
    instant := 100
    lineages := tset (tset (tset w0.lineages 5 ⟨100, some 0, 0, 1, .live, none, [], none, none⟩) 6 ⟨100, none, 0, 0, .live, none, [], none, none⟩) 7
      ⟨101, some 0, 0, 0, .live, none, [], none, none⟩ }
theorem witness_Annulment : wLin.lineage? 0 ((wLin.g 2).setWidth 20) = some ⟨100, some 0, 0, 1, .annulled, none, [], none, none⟩ ∧ wLin.spec = false
    ∧ wLin.lineage? 0 ((wLin.g 1).setWidth 20) = some ⟨100, some 0, 0, 1, .live, none, [], none, none⟩ ∧ wLin.annulled 0 1 = false
    ∧ (wExp.lineages.map (·.1)).Pairwise (· < ·) ∧ (wExp.lineage? 0 5).isSome = true ∧ wExp.effExpiry 0 5 ≤ wExp.instant ∧ wExp.effExpiry 0 6 ≤ wExp.instant
    ∧ wExp.instant < wExp.effExpiry 0 7 := by decide +kernel
theorem witness_Annulment_expiry : wExp.annulSweep = wExp ∧ ∀ j y, wExp.lineage? 0 j = some y → y.parent ≠ some 5 ∧ y.parent ≠ some 6 := by
  refine ⟨rfl, fun j y h => ?_⟩
  have h2 : ∀ e ∈ wExp.lineages, e.2.parent ≠ some 5 ∧ e.2.parent ≠ some 6 := by decide +kernel
  obtain ⟨k, hk⟩ : ∃ k, (k, y) ∈ wExp.lineages := tget_mem h
  exact h2 _ hk

/-! ### Copies -/

def cf (dk sk : EndKind) : CopyFields := ⟨0, dk, sk, 1, 2, 3, false, false, .cap, false, 0, 0, false, 0x40, 0⟩
/-- The copy's three registers set; cores 0 and 1 may be dealt to. -/
def wCp (d s n : Word) : State := wPair.setTh { wPair.th with g := #v[0, d, s, n, 0, 0, 0, 0, 0, 0, 0, 0, 0, 0, 0, 0] }
def copy0 (dst : CopyDst) : Copy :=
  ⟨1, .dev 0x9000, dst, 4, 0, w0.issuer, none, false, 0x40, [], none, false, false, true, 9⟩
def wChan (x : Copy) (r : List Copy) (s : State) : State := s.setCore 0 { s.coreAt 0 with chans := (s.coreAt 0).chans.set 0 ⟨1, 1, 0, x :: r⟩ }
theorem witness_CopyAcceptance : wSpec.Plain ∧ wSpec.spec = true ∧ wSpec.mayWait .cap ∧ (wCp 0x10000 0x9000 0x1000001).Plain ∧ (wCp 0x10000 0x9000 0x1000001).spec = false
    ∧ 2 ^ 24 < ((wCp 0x10000 0x9000 0x1000001).g 3).toNat ∧ ((wCp 0x10000 0x9000 0x1000000).g 3).toNat ≤ 2 ^ 24
    ∧ 4 ≤ ((wChan (copy0 (.arr 0)) [copy0 (.arr 0), copy0 (.arr 0), copy0 (.arr 0)] w0).co.chans.get 0).queue.length
    ∧ (w0.co.chans.get 0).queue = [] := by
  refine ⟨plain_wSpec, by decide +kernel, by unfold State.mayWait; decide +kernel, ⟨rfl, rfl, rfl, rfl, rfl⟩, by decide +kernel, by decide +kernel, by decide +kernel, by decide +kernel, rfl⟩
theorem witness_CopyAcceptance_opens : (wCp 0x10000 0x9000 64).chanFree 0 ∧ (wCp 0x10000 0x9000 64).opens .dev 0x10000 64 needW ∧ (wCp 0x10000 0x9000 64).opens .dev 0x9000 64 needR
    ∧ (wCp 0x10000 0x9000 64).opens .arr 0 64 needR :=
  ⟨⟨by decide +kernel, fun x r h => by cases h⟩, fun _ _ => ⟨Or.inl rfl, (none, 0x10000), ok_of (by decide +kernel)⟩, fun _ _ => ⟨Or.inl rfl, (none, 0x9000), ok_of (by decide +kernel)⟩, nofun⟩
/-- The walk of an endpoint's first page still awaited. -/
def wLate (s : State) : State := { s with late := true }
theorem witness_CopyAcceptance_walks : ¬(wLate (wCp 0x10000 0x9000 64)).quick 0x9000 ∧ (64 : Nat) ≠ 0 ∧ (wLate (wCp 0x10000 0x9000 64)).mayWait .cap :=
  ⟨by unfold State.quick; decide +kernel, by decide, by unfold State.mayWait; decide +kernel⟩
/-- `cp.deal`: two cores of this die, a third that is none, and blocks of 8 and of 9; `cp.gath`: 4,096 and 4,097 blocks, sizes 6 and 7. -/
theorem witness_CopyAcceptance_deal : (∀ j < 2, ∃ c, (wCp 0x402000 0x9000 64).targetCore 0 (BitVec.ofNat 13 (0 + j)) = some c ∧ dieOf c = dieOf 0 ∧ [0, 1][j]? = some c)
    ∧ 0x402000 % 2 ^ 13 = 0 ∧ 0x402000 / 2 ^ 13 % 64 + 1 = 2 ∧ 0x402000 / 2 ^ 19 % 16 = 8 ∧ 0x482000 / 2 ^ 19 % 16 = 9
    ∧ (wCp 0x404000 0x9000 64).targetCore 0 (BitVec.ofNat 13 (0 + 2)) = none ∧ 0x1000 % 2 ^ 16 = 4096 ∧ 4096 < 0x1001 % 2 ^ 16 ∧ 0x60001 / 2 ^ 16 % 16 = 6 ∧ 6 < 0x70001 / 2 ^ 16 % 16 := by
  refine ⟨fun j hj => ?_, by decide, by decide, by decide, by decide, by decide +kernel, by decide, by decide, by decide, by decide⟩
  have h : j = 0 ∨ j = 1 := by omega
  rcases h with rfl | rfl
  · exact ⟨0, by decide +kernel, rfl, rfl⟩
  · exact ⟨1, by decide +kernel, rfl, rfl⟩
/-- A ring descriptor at 0 of the A buffer: DBASE 0x10000, FREEVA, HALF 0x1000, ROUND 5. -/
def wRing (freeva : Nat) (n : Word) (a : Option RemoteAns) : State :=
  let s := wCp 0 0 n
  let s := s.setCo { s.co with bufA := mputs [] 0 (leBytes 8 0x10000 ++ leBytes 8 freeva ++ leBytes 4 0x1000 ++ leBytes 4 5) }
  match a with
  | none => s
  | some a => s.setSl { s.sl with remote := some ⟨.gate 3, some a⟩, wait := some (s.newWait (.cpRot (cf .dev .a)) .cap 1) }
theorem witness_CopyAcceptance_gather : 0x6FFFF / 2 ^ 16 % 16 ≤ 6 ∧ 2 ^ 24 < 0x6FFFF % 2 ^ 16 * (64 * 2 ^ (0x6FFFF / 2 ^ 16 % 16)) ∧ 0x1001 / 2 ^ 16 % 16 ≤ 6
    ∧ 0x1001 % 2 ^ 16 * (64 * 2 ^ (0x1001 / 2 ^ 16 % 16)) ≤ 2 ^ 24 ∧ 4096 < 0x1001 % 2 ^ 16 := by decide
theorem witness_RingCopy : (wRing 0x9000 0x1000 none).Plain ∧ (wRing 0x9000 0x1000 none).sl.remote = none ∧ (wRing 0x9000 0x1000 none).spec = false
    ∧ leNat (bufRead (wRing 0x9000 0x1000 none).co.bufA (wRing 0x9000 0x1000 none).th.bufA 16 4) = 0x1000 ∧ 2 ^ 24 < ((wRing 0x9000 0x1000001 none).g 3).toNat
    ∧ 0x1000 < ((wRing 0x9000 0x1001 none).g 3).toNat ∧ ((wRing 0x9000 0x1000 none).g 3).toNat ≤ 0x1000
    ∧ leNat (bufRead (wRing 0x9004 0x1000 none).co.bufA (wRing 0x9004 0x1000 none).th.bufA 8 8) % 8 ≠ 0
    ∧ leNat (bufRead (wRing 0x9000 0x1000 none).co.bufA (wRing 0x9000 0x1000 none).th.bufA 8 8) = 0x9000 := by
  refine ⟨⟨rfl, rfl, rfl, rfl, rfl⟩, rfl, by decide +kernel, by decide +kernel, by decide +kernel, by decide +kernel, by decide +kernel, by decide +kernel, by decide +kernel⟩
theorem witness_RingCopy_poll : (wRing 0x9000 0x1000 none).field 0x9000 8 = 0 ∧ 0x9000 < 0xF000000000000 := by decide +kernel
theorem witness_RingCopy_gate : (wRing 0x9000 0x1000 none).translate 0 (wRing 0x9000 0x1000 none).th.priv 0x9000 needRW = .ok (none, 0x9000) ∧ (wRing 0x9000 0x1000 none).mayWait .cap
    ∧ (wRing 0x9000 0x1000 (some ⟨1, 0, 0⟩)).Retries ((wRing 0x9000 0x1000 none).newWait (.cpRot (cf .dev .a)) .cap 1)
    ∧ (wRing 0x9000 0x1000 (some ⟨1, 0, 0⟩)).sl.remote = some ⟨.gate 3, some ⟨1, 0, 0⟩⟩ ∧ (wRing 0x9000 0x1000 (some ⟨0, 6, 7⟩)).sl.remote = some ⟨.gate 3, some ⟨0, 6, 7⟩⟩
    ∧ (wRing 0x9000 0x1000 (some ⟨1, 0, 0⟩)).chanFree 0 ∧ (wRing 0x9000 0x1000 (some ⟨1, 0, 0⟩)).opens .dev 0x11000 0x1000 needW :=
  ⟨ok_of (by decide +kernel), by unfold State.mayWait; decide +kernel, ⟨rfl, rfl, rfl, rfl, rfl⟩, rfl, rfl, ⟨by decide +kernel, fun x r h => by cases h⟩,
    fun _ _ => ⟨Or.inl rfl, (none, 0x11000), ok_of (by decide +kernel)⟩⟩
/-- FREEVA's walk awaited, without a leaf, and at peer 5, whose link is dead or not. -/
theorem witness_RingCopy_walks : ¬(wLate (wRing 0x9000 0x1000 none)).quick 0x9000 ∧ (wRing 0x9000 0x1000 none).quick 0x9000
    ∧ (match (wRing 0x3FFFFFFFF8 0x1000 none).translate 0 (wRing 0x3FFFFFFFF8 0x1000 none).th.priv 0x3FFFFFFFF8 needRW with | .error _ => true | .ok _ => false) = true
    ∧ wPeer.translate 0 wPeer.th.priv 0x40008000 needRW = .ok (some 5, 0x8000)
    ∧ { wPeer with contexts := wPath.contexts }.deadPeer 0 6 = true ∧ wPeer.th.priv = (wRing 0x9000 0x1000 none).th.priv := by
  exact ⟨by unfold State.quick; decide +kernel, Or.inl rfl, by decide +kernel, ok_of (by decide +kernel), by decide +kernel, by decide +kernel⟩
def alA : Alloc := ⟨0, 0x100, 0x100⟩
theorem witness_CopyDelivery : ∃ s : State, ((s.coreAt 0).chans.get 0).queue = copy0 (.buf .a alA 0xFE) :: [] ∧ (copy0 (.buf .a alA 0xFE)).park = none
    ∧ (copy0 (.buf .a alA 0xFE)).done < (copy0 (.buf .a alA 0xFE)).len ∧ s.translate 0 w0.issuer.priv 0x9000 needR = .ok (none, 0x9000) ∧ s.op = [] ∧ (s.coreAt 0).locks = []
    ∧ (copy0 (.buf .a alA 0xFE)).failed = false ∧ s.copyByte (copy0 (.buf .a alA 0xFE)) 0 = .byte 0 ∧ physByte alA 0xFE 0 = some 0xFE ∧ physByte ⟨0, 0xC0, 0x100⟩ 0xFE 0 = none ∧ (s.clusterAt 0).locks = [] :=
  ⟨wChan (copy0 (.buf .a alA 0xFE)) [] w0, rfl, rfl, by decide, ok_of (by decide +kernel), rfl, rfl, rfl, by decide +kernel, by decide +kernel, by decide +kernel, rfl⟩
/-- A deal to cores 0 and 1 of the W buffer, at its last place and one past it; device memory; and a bound copy, with its barrier and without. -/
theorem witness_CopyDelivery_places : [0, 1][(0 : Nat) / 64 % [0, 1].length]? = some 0 ∧ (0xBFFF + 0 / 64 / 2 * 64 + 0 % 64) % 0x10000 < 0xC000 ∧ 0xC000 ≤ (0xC000 + 0 / 64 / 2 * 64 + 0 % 64) % 0x10000
    ∧ w0.translate 0 w0.issuer.priv (0x9000 + w64 0) needW = .ok (none, 0x9000) ∧ (∀ g, w0.unread g none) ∧ wSync.engineRef w0.issuer 6 = none
    ∧ wSync.engineRef w0.issuer 2 = some (.core w0.issuer.core 1) ∧ wSync.barRead (.core w0.issuer.core 1) = some ⟨false, 0, 0, 1, 0, 0⟩ :=
  ⟨by decide, by decide, by decide, ok_of (by decide +kernel), fun g => unread_of (by decide +kernel) rfl _ _, by decide +kernel, by decide +kernel, by decide +kernel⟩
theorem witness_CopyDelivery_resident : (wPair.coreAt 1).ctx = some w0.issuer.ctx ∧ (w0.coreAt 1).ctx ≠ some w0.issuer.ctx ∧ (wPair.coreAt 1).locks = [] := by decide +kernel
/-- The head copy over (its bytes moved or its link dead), one that waits behind it, and one at a page that does not translate. -/
def copyN (done : Nat) (nte failed : Bool) (dst : CopyDst) : Copy :=
  { copy0 dst with done := done, nte := nte, failed := failed }
def wEnds (x : Copy) : State := wChan x [{ copy0 (.arr 0) with started := false }] w0
theorem witness_CopyEnds : ((wEnds (copyN 4 false false (.arr 0))).coreAt 0).chans.get 0 = ⟨1, 1, 0, [copyN 4 false false (.arr 0), { copy0 (.arr 0) with started := false }]⟩
    ∧ (∀ y q, [{ copy0 (.arr 0) with started := false }] = y :: q → y.started = false) ∧ (copyN 4 false false (.arr 0)).park = none
    ∧ (copyN 4 false false (.arr 0)).len ≤ 4 ∧ (copyN 0 true true (.arr 0)).failed = true ∧ (wEnds (copyN 0 true true (.arr 0))).co.msgRoom = true
    ∧ (wEnds (copyN 0 true true (.arr 0))).co.pending = [] ∧ LowestFree (wEnds (copyN 0 true true (.arr 0))).co 0 := by
  refine ⟨rfl, fun y q h => ?_, rfl, by decide, rfl, by decide +kernel, rfl, by decide, rfl, fun j h => absurd h (by omega)⟩
  cases h; rfl
/-- The same with byte 3 of the copy in a page without a leaf, under each action of cause 14. -/
def wLost (b : Nat) : State := wAct b (wEnds (copyN 3 false false (.dev 0x3FFFFFFFFFD)))
theorem witness_CopyEnds_fault : (copyN 3 false false (.dev 0x3FFFFFFFFFD)).done < (copyN 3 false false (.dev 0x3FFFFFFFFFD)).len
    ∧ (match w0.translate w0.issuer.ctx w0.issuer.priv (0x3FFFFFFFFFD + w64 3) needW with | .error _ => true | .ok _ => false) = true
    ∧ (wLost 1).actionOf w0.issuer.ctx 14 = 1 ∧ (wLost 1).evtOf w0.issuer.ctx 14 = 0 ∧ (wLost 5).actionOf w0.issuer.ctx 14 = 1 ∧ (wLost 5).evtOf w0.issuer.ctx 14 ≠ 0
    ∧ (wLost 2).actionOf w0.issuer.ctx 14 = 2 ∧ (wLost 3).actionOf w0.issuer.ctx 14 = 3 ∧ (wLost 0).actionOf w0.issuer.ctx 14 = 0 := by decide +kernel
def pend (cmu harp : Option Nat) : PendingMsg := ⟨w0.issuer, 0x30, cmu, harp⟩
def wPend (p : PendingMsg) : State := wCo fun x => { x with pending := [p] }
theorem witness_EngineQueues : (∀ p ∈ [pend none none, pend (some 3) none, pend none (some 4)], ((wPend p).coreAt 0).pending = p :: [] ∧ ((wPend p).coreAt 0).msgRoom = true
    ∧ tget ((wPend p).coreAt 0).inbox 0 = none) ∧ (wCo fun x => { x with inboxHeld := 112 }).co.msgRoom = false := by decide +kernel

/-! ### Collectives, matrix unit, harp -/

def cof (boff : BitVec 9) : CollFields := ⟨4, 5, 6, .cap, true, 0, 7, boff⟩
def memb (core rank : Nat) : CollMember := ⟨none, rank, { w0.issuer with core := core }, 0x40, ⟨0, 0x1000, 0x1000⟩, 0x0102, 64, true, .add, .w, false, 0, 9⟩
/-- A group of two ranks at the object of slot 0, in its present phase. -/
def wColl (g : List CollMember) : State := { wSync with colls := [⟨.core 0 0, 0, g⟩] }
theorem witness_CollectiveAcceptance : (wColl [memb 1 0]).Plain ∧ wSync.Plain ∧ (wColl [memb 1 0]).spec = false ∧ (wColl [memb 1 0]).engineRef (wColl [memb 1 0]).issuer 0 = some (.core 0 0)
    ∧ (wColl [memb 1 0]).barRead (.core 0 0) = some ⟨false, 0, 0, 2, 0, 0⟩ ∧ ((wColl [memb 1 0]).membersAt (.core 0 0) 0).length < 2
    ∧ (∀ g ∈ wSync.colls, ¬(g.obj = .core 0 0 ∧ g.phase = 0)) ∧ (∃ g ∈ (wColl [memb 1 0]).colls, g.obj = .core 0 0 ∧ g.phase = 0)
    ∧ wSync.engineRef wSync.issuer (cof 6).boff = none ∧ (cof 6).nte = true ∧ wSync.co.msgRoom = true ∧ wSync.co.pending = [] ∧ LowestFree wSync.co 0 :=
  ⟨⟨rfl, rfl, rfl, rfl, rfl⟩, ⟨rfl, rfl, rfl, rfl, rfl⟩, by decide +kernel, by decide +kernel, by decide +kernel, by decide +kernel, by decide +kernel, ⟨_, List.mem_cons_self .., rfl, rfl⟩,
    by decide +kernel, rfl, by decide +kernel, rfl, by decide, rfl, fun j h => absurd h (by omega)⟩
theorem witness_CollectiveRun : (wColl [memb 1 1, memb 0 0]).colls[0]? = some ⟨.core 0 0, 0, [memb 1 1, memb 0 0]⟩
    ∧ (wColl [memb 1 1, memb 0 0]).barRead (.core 0 0) = some ⟨false, 0, 0, 2, 0, 0⟩ ∧ (∀ x ∈ [memb 1 1, memb 0 0], x.nte = false ∧ x.chip = none)
    ∧ [memb 0 0, memb 1 1].Perm [memb 1 1, memb 0 0] ∧ [memb 0 0, memb 1 1].length = (2 : BitVec 16).toNat ∧ [memb 0 0, memb 1 1][1]? = some (memb 1 1)
    ∧ (∀ j < 2, ∃ x, [memb 0 0, memb 1 1][j]? = some x ∧ x.rank = j ∧ x.len = 64 ∧ x.isRed = true ∧ x.op = .add ∧ x.ty = .w)
    ∧ (∀ x ∈ [memb 0 0, memb 1 1], ((wColl [memb 1 1, memb 0 0]).coreAt x.who.core).memWf = true) ∧ ([memb 0 0, memb 1 1].map fun x => x.who.core).Nodup
    ∧ (∃ x ∈ [memb 1 1, memb 0 2], (2 : BitVec 16).toNat ≤ x.rank) := by
  refine ⟨rfl, by decide +kernel, by decide, .swap .., rfl, rfl, fun j hj => ?_, by decide +kernel, by decide, ⟨memb 0 2, List.mem_cons_of_mem _ (List.mem_cons_self ..), by decide⟩⟩
  have h : j = 0 ∨ j = 1 := by omega
  rcases h with rfl | rfl <;> exact ⟨_, rfl, rfl, rfl, rfl, rfl, rfl⟩
def mwf : MwFields := ⟨4, 5, 6, .cap, 1, 7, 2⟩
/-- The formats of core 0, its scale locations, and the operations in its unit. -/
def cmuO (cycles : Nat) (kind : CmuKind) (ntf : BitVec 2) : CmuOp :=
  ⟨9, kind, w0.issuer, 0, 0, 2, 0, 0, 0, [], [], Alloc.whole 0xC000, Alloc.whole 0x8000, Alloc.whole 0x4000, cycles, ntf, 0, 0, false⟩
def wFmt (a b c : BitVec 4) (sc : BitVec 32) (cmu : List CmuOp) : State :=
  wG.setCo { wG.co with fmta := a, fmtb := b, fmtc := c, scla := sc, sclb := sc, cmu := cmu }
theorem witness_MatrixAcceptance : (wFmt 0 0 2 0 []).Plain ∧ (wFmt 0 0 2 0 []).spec = false
    ∧ (∃ mf, macFmt 0 0 2 = some mf ∧ mf.cls = 0) ∧ (∃ mf, macFmt 13 13 8 = some mf ∧ mf.cls = 1)
    ∧ macFmt 8 0 8 = none ∧ 2048 + 2048 ≤ 4096 ∧ 4096 < 2049 + 2048 ∧ 0x7FFFFFFF / 2 ^ 30 < 2 ∧ ¬0x80000000 / 2 ^ 30 < 2
    ∧ (wFmt 0 0 2 0 []).mayWait .cap :=
  ⟨⟨rfl, rfl, rfl, rfl, rfl⟩, rfl, ⟨_, rfl, rfl⟩, ⟨_, rfl, rfl⟩, by decide, by decide, by decide, by decide, by decide, by unfold State.mayWait; decide +kernel⟩
def wCmu (ntf : BitVec 2) (k : CmuKind) : State := wFmt 0 0 2 0 [cmuO 8 k ntf]
theorem witness_MatrixRun : (∀ k ∈ [CmuKind.mzero 0x4000, .mdrain 0 0 .w false, .mma 0 0 0 32], (wCmu 0 k).co.cmu = cmuO 8 k 0 :: [] ∧ (wCmu 1 k).co.cmu = cmuO 8 k 1 :: []
      ∧ (wCmu 1 k).co.msgRoom = true ∧ (wCmu 1 k).co.pending = [] ∧ tget (wCmu 1 k).co.inbox 0 = none ∧ (wCmu 0 k).co.memWf = true)
    ∧ (cmuO 8 (.mzero 0) 0).waiting = false ∧ (cmuO 8 (.mzero 0) 0).who.core = 0 ∧ Ty.ofCode (0 : BitVec 4).toNat = some .b ∧ Ty.ofCode (2 : BitVec 4).toNat = some .w := by decide +kernel
/-! The harp of cluster 0: a lease of this core and of another, no lease, out of service, with a claim. -/
def leaseOf (core count : Nat) (since : Word) : Lease := ⟨core, w0.curTask, 0, count, [], since, 0⟩
def wHarp (f : Harp → Harp) : State := wFmt 0 0 2 0x80000000 [] |>.setCluster 0 { w0.clusterAt 0 with harp := f (w0.clusterAt 0).harp }
def wLease : State := wHarp fun h => { h with lease := some (leaseOf 0 31 0) }
theorem witness_HarpLease : wLease.Plain ∧ wLease.sl.task = some placedTask ∧ wLease.curCore < 8192 ∧ (wLease.clusterAt 0).harp.lease = some (leaseOf 0 31 0)
    ∧ (leaseOf 0 31 0).core = wLease.curCore ∧ (wLease.clusterAt 0).harp.claims = []
    ∧ let free := wHarp fun h => { h with lastCtx := some placedTask.ctx }
      (free.clusterAt 0).harp.lease = none ∧ (free.clusterAt 0).harp.disabled.length ≤ 8 ∧ (free.clusterAt 0).harp.claims = [] ∧ (free.clusterAt 0).harp.lastCtx = some placedTask.ctx
      ∧ placedTask.image = none ∧ free.Plain
    ∧ let other := wHarp fun h => { h with lease := some (leaseOf 1 0 0) }
      (other.clusterAt 0).harp.lease = some (leaseOf 1 0 0) ∧ (leaseOf 1 0 0).core ≠ other.curCore ∧ other.mayWait .cap
    ∧ let out := wHarp fun h => { h with disabled := List.range 9 }
      (∀ l, (out.clusterAt 0).harp.lease = some l → l.core ≠ out.curCore) ∧ 8 < (out.clusterAt 0).harp.disabled.length := by
  refine ⟨⟨rfl, rfl, rfl, rfl, rfl⟩, rfl, by decide +kernel, rfl, rfl, rfl, rfl, by decide +kernel, rfl, rfl, rfl, ⟨rfl, rfl, rfl, rfl, rfl⟩, rfl, by decide +kernel,
    by unfold State.mayWait; decide +kernel, fun l h => ?_, by decide +kernel⟩
  exact nomatch h
theorem witness_HarpCommands : wLease.Plain ∧ wLease.spec = false ∧ (wLease.clusterAt 0).harp.lease = some (leaseOf 0 31 0) ∧ (leaseOf 0 31 0).count < 32
    ∧ ((wLease.clusterAt 0).harp.queue.map (·.cycles)).sum + 4096 ≤ 4096 ∧ weightCls 0 = some 0 ∧ weightCls 13 = some 1 ∧ weightCls 9 = some 2 ∧ weightCls 8 = none
    ∧ 0x80000000 / 2 ^ 30 = 2 ∧ 0xBFFFFFFF / 2 ^ 30 = 2 ∧ 0x7FFFFFFF / 2 ^ 30 ≠ 2 ∧ 0xC0000000 / 2 ^ 30 ≠ 2
    ∧ (∃ mf, macFmt wLease.co.fmta (wLease.clusterAt 0).harp.planeFmts.1 wLease.co.fmtc = some mf ∧ mf.cls = 0)
    ∧ (∃ ps, wLease.pinPages wLease.curCtx wLease.th.priv (wLease.g 5) (64 + 1024 * 64) needR = .ok ps) ∧ (∃ ps, wLease.pinPages wLease.curCtx wLease.th.priv (wLease.g 5) 1024 needW = .ok ps)
    ∧ ∃ e, wLease.pinPages wLease.curCtx wLease.th.priv 0x3FFFFFFFFFFF 1024 needW = .error e :=
  ⟨⟨rfl, rfl, rfl, rfl, rfl⟩, rfl, rfl, by decide, by decide +kernel, rfl, rfl, rfl, rfl, by decide, by decide, by decide, by decide, ⟨_, rfl, rfl⟩,
    ⟨_, ok_of rfl⟩, ⟨_, ok_of rfl⟩, ⟨_, rfl⟩⟩
def hcmd (k : HarpKind) : HarpCmd := ⟨4, k, w0.issuer, 0, 0, 2, 0, [], 0, 8, 0, 0, 0, Alloc.whole 0x4000, 0, 0, 0, 0, false, [], none⟩
def wHq (k : HarpKind) : State := wHarp fun h => { h with queue := [hcmd k] }
/-- A save image of one row in the array buffer. -/
def saved1 : Memory := mputs [] 0 [1, 0, 0]
theorem witness_HarpRun : (∀ k ∈ [HarpKind.swap, .stream (.array saved1 0) 1 63 true 0, .drain .array 0xFFFFF (.array [] 0) 1 0 true, .save (.array [] 0) false 64 0,
      .restore (.array saved1 0) 1 0, .ldw (.array saved1 0) none], ((wHq k).clusterAt 0).harp.queue = hcmd k :: [] ∧ (hcmd k).waiting = false ∧ (hcmd k).park = none ∧ (hcmd k).ntf = 0
      ∧ ((wHq k).clusterAt 0).array.wf = true ∧ (((wHq k).clusterAt 0).harp.acc.map (·.1)).Pairwise (· < ·))
    ∧ Ty.ofCode (hcmd .swap).fmta.toNat = some .b ∧ Ty.ofCode ((wHq .swap).clusterAt 0).harp.active.fmtb.toNat = some .b ∧ Ty.ofCode (hcmd .swap).fmtc.toNat = some .w
    ∧ mget saved1 ((0 + 0) % 0x100000) = 1 ∧ mget saved1 ((0 + 1) % 0x100000) = 0 ∧ (mget saved1 ((0 + 2) % 0x100000)).toNat + 1 = 1 := by decide +kernel
def claimOf (ctx : Nat) : HarpClaim := ⟨0, 0, w0.curTask, ctx, 0, 0⟩
def wTurn (f : Harp → Harp) (t : Word) : State := { wHarp f with instant := t }
theorem witness_HarpTurns : let a := wTurn (fun h => { h with claims := [claimOf 0], lastCtx := some 0 }) 0
    ((a.clusterAt 0).harp.lease = none ∧ (a.clusterAt 0).harp.disabled.length ≤ 8 ∧ (a.clusterAt 0).harp.claims = [claimOf 0] ∧ (claimOf 0).core < 8192
      ∧ (a.slotAt 0 0).task = some placedTask ∧ placedTask.image = none ∧ (a.clusterAt 0).harp.lastCtx = some (claimOf 0).ctx ∧ (a.clusterAt 0).harp.lastCtx ≠ some (claimOf 3).ctx
      ∧ (a.clusterAt 0).harp.queue = [])
    ∧ (∀ n ∈ [65535999, 65536000], ((wTurn (fun h => { h with lease := some { leaseOf 0 0 0 with spent := n } }) 0).clusterAt 0).harp.lease = some { leaseOf 0 0 0 with spent := n })
    ∧ ((wTurn (fun h => { h with stepdown := some 0 }) 1000).clusterAt 0).harp.stepdown = some 0 ∧ (0 : Word).toNat + 1000 ≤ (1000 : Word).toNat ∧ (999 : Word).toNat < (0 : Word).toNat + 1000
    ∧ ((wTurn (fun h => { h with disabled := [1, 2, 3, 4, 5, 6] }) 0).clusterAt 0).harp.disabled = [1, 2, 3, 4, 5, 6] ∧ 263 < 264 ∧ 263 ∉ [1, 2, 3, 4, 5, 6] := by decide +kernel
/-! ### Power, dictionaries -/

def wPow (claim : BitVec 2) (pool : BitVec 16) (f : Course → Course) : State :=
  let s := (wSl fun x => { x with claim := claim }).setDie 0 { w0.dieAt 0 with pool := pool }
  s.setCourse 0 (f (s.courseAt 0))
theorem witness_BoostClaims : (wPow 0 4 id).Plain ∧ (wPow 0 4 id).curCore < 8192 ∧ (1 : BitVec 2) ≤ (wPow 2 4 id).sl.claim ∧ ((wPow 2 4 id).courseAt 0).inFall = false
    ∧ (wPow 0 4 id).sl.claim < 1 ∧ ((wPow 0 4 id).dieAt 0).boostQ = [] ∧ ((wPow 0 4 id).dieAt 0).fall = 0 ∧ 4 ≤ ((wPow 0 4 id).dieAt 0).pool.toNat
    ∧ (∀ e ∈ (wPow 0 4 id).cores, courseOf e.1 = 0 → ∀ t : Fin 4, (e.2.slots.get t).claim ≤ 1) ∧ ¬4 ≤ ((wPow 0 3 id).dieAt 0).pool.toNat ∧ (wPow 0 3 id).mayWait .cap
    ∧ (wPow 0 3 id).sl.claim = 0 ∧ (wPow 2 3 id).sl.claim ≠ 0 :=
  ⟨⟨rfl, rfl, rfl, rfl, rfl⟩, by decide +kernel, by decide +kernel, by decide +kernel, by decide +kernel, by decide +kernel, by decide +kernel, by decide +kernel, by decide +kernel,
    by decide +kernel, by unfold State.mayWait; decide +kernel, by decide +kernel, by decide +kernel⟩
/-- A claim that waits at the head of its die's queue. -/
def wBoostQ : State :=
  let s := wSl fun x => { x with wait := some (w0.newWait (.boost1050 3 .cap) .cap 0) }
  s.setDie 0 { s.dieAt 0 with boostQ := [⟨0, 0, 2, 0⟩] }
theorem witness_PowerSteps : ((wPow 0 4 fun x => { x with level := 2, clock := 1 }).courseAt 0).clock < ((wPow 0 4 fun x => { x with level := 2, clock := 1 }).courseAt 0).level
    ∧ ((wPow 0 4 id).courseAt 0).level ≤ ((wPow 0 4 id).courseAt 0).clock ∧ (w0.dieAt 0).boostQ = [] ∧ (wBoostQ.dieAt 0).boostQ = [⟨0, 0, 2, 0⟩] ∧ (wBoostQ.dieAt 0).fall = 0
    ∧ 4 ≤ (wBoostQ.dieAt 0).pool.toNat ∧ (wBoostQ.slotAt 0 0).wait = some (w0.newWait (.boost1050 3 .cap) .cap 0) ∧ (wBoostQ.slotAt 0 0).group = none
    ∧ (wBoostQ.slotAt 0 0).stepping = false ∧ (wBoostQ.slotAt 0 0).pendA = none ∧ (wBoostQ.slotAt 0 0).newPc = none ∧ dieOf 0 = 0 ∧ (4999 : Word).toNat < 5000 * ((w0.dieAt 0).interval + 1)
    ∧ 5000 * ((w0.dieAt 0).interval + 1) ≤ (5000 : Word).toNat := by decide +kernel
/-- Every course of die 0 busy, and course 5 with the highest level 2 in the interval. -/
def wBusy (h5 : BitVec 2) : State :=
  { w0 with instant := 5000, courses := (List.range 128).map fun j => (j, { Course.reset with busy := true, highest := if j = 5 then h5 else 0 }) }
theorem witness_PowerSteps_interval : (∀ j < 128, ((wBusy 0).courseAt (128 * 0 + j)).highest = 0 ∧ ((wBusy 0).courseAt (128 * 0 + j)).busy = true)
    ∧ (∀ j < 128, 128 * 0 + j ≠ 5 → ((wBusy 2).courseAt (128 * 0 + j)).highest = 0 ∧ ((wBusy 2).courseAt (128 * 0 + j)).busy = true)
    ∧ ((wBusy 2).courseAt 5).highest = 2 ∧ ((wBusy 2).courseAt 5).inFall = false ∧ ((wBusy 2).courseAt 5).busy = true := by decide +kernel
/-- The store of slot 0 with bank 0 active of handle 3 and bank 1 of handle 4; g3 names one of them; an image at 0x9000. -/
def wDict (es : Tab DictEntry) (handle : Word) : State :=
  wTh (fun t => { t with g := gs.set 3 handle |>.set 4 0x9000 }) |> fun s => s.setSl { s.sl with dict := ⟨⟨3, es⟩, ⟨4, []⟩, false⟩ }
/-- An image of handle `h` whose entries run from `first` to `last`. -/
def wImage (h : Nat) (first last : Byte) : State := { wDict [] 3 with mem := mputs w0.mem 0x9000 (leBytes 4 h ++ [first, last]) }
/-- The image's first 64 bytes, and with them `n` more, lie in this chip's memory. -/
def okRange (s : State) (va : Word) (n : Nat) : Bool :=
  match s.imageRange va 64, s.imageRange va (64 + n) with
  | .ok h, .ok l => decide (l = h ++ l.drop 64) && l.all fun x => x.1 == none && decide (x.2 < 0x8000000000)
  | _, _ => false
theorem okRange_spec {s : State} {va : Word} {n : Nat} (h : okRange s va n = true) :
    ∃ hd rest, s.imageRange va 64 = .ok hd ∧ s.imageRange va (64 + n) = .ok (hd ++ rest) ∧ ∀ x ∈ hd ++ rest, x.1 = none ∧ x.2 < 0x8000000000 := by
  unfold okRange at h
  split at h
  · next hd l h1 h2 =>
    rw [Bool.and_eq_true, decide_eq_true_eq] at h
    refine ⟨hd, l.drop 64, h1, h.1 ▸ h2, h.1 ▸ ?_⟩
    simpa using h.2
  · exact nomatch h
theorem witness_DictionaryLoads : (wDict [] 3).Plain ∧ (wDict [] 3).sl.dict.bank0.handle = (((wDict [] 3).g 3).setWidth 32 : BitVec 32) ∧ (wDict [] 4).sl.dict.bank1.handle = (((wDict [] 4).g 3).setWidth 32 : BitVec 32)
    ∧ (wDict [] 4).sl.dict.bank0.handle ≠ ((wDict [] 4).g 3).setWidth 32 ∧ (((wDict [] 0).g 3).setWidth 32 : BitVec 32) = 0 ∧ (wDict [] 5).sl.dict.bank0.handle ≠ ((wDict [] 5).g 3).setWidth 32
    ∧ (wDict [] 5).sl.dict.bank1.handle ≠ ((wDict [] 5).g 3).setWidth 32 ∧ (wImage 3 252 255).spec = false ∧ (wImage 3 252 255).late = false ∧ (wImage 3 252 255).op = [] ∧ (wImage 3 252 255).lq = [] :=
  ⟨⟨rfl, rfl, rfl, rfl, rfl⟩, by decide +kernel, by decide +kernel, by decide +kernel, by decide +kernel, by decide +kernel, by decide +kernel, rfl, rfl, rfl, rfl⟩
theorem witness_DictionaryLoads_image : let va (s : State) : Word := s.cgVa ⟨4, .dla, 0⟩ &&& ~~~63#64
    (wImage 3 252 255).watchHit (va (wImage 3 252 255)).toNat (64 + 64) true false = none
    ∧ (∀ e ∈ [(3, (252 : Byte), (255 : Byte)), (0, 7, 7), (3, 2, 1)], ∃ hd rest, (wImage e.1 e.2.1 e.2.2).imageRange (va (wImage e.1 e.2.1 e.2.2)) 64 = .ok hd
      ∧ (wImage e.1 e.2.1 e.2.2).imageRange (va (wImage e.1 e.2.1 e.2.2)) (64 + if e.2.2 < e.2.1 then 0 else 16 * (e.2.2.toNat - e.2.1.toNat + 1)) = .ok (hd ++ rest)
      ∧ ∀ x ∈ hd ++ rest, x.1 = none ∧ x.2 < 0x8000000000)
    ∧ leNat (mbytes (wImage 3 252 255).mem 0x9000 4) = 3 ∧ mget (wImage 3 252 255).mem 0x9005 = 255 ∧ leNat (mbytes (wImage 0 7 7).mem 0x9000 4) = 0
    ∧ mget (wImage 3 2 1).mem 0x9004 = 2 ∧ mget (wImage 3 2 1).mem 0x9005 = 1 := by
  refine ⟨by decide +kernel, fun e he => ?_, by decide +kernel, by decide +kernel, by decide +kernel, by decide +kernel, by decide +kernel⟩
  simp only [List.mem_cons, List.not_mem_nil, or_false] at he
  rcases he with rfl | rfl | rfl <;> exact okRange_spec (by decide +kernel)
theorem witness_Expansion : ∀ e ∈ [DictEntry.mk 0x6C000040 0x80022114, ⟨0x11000004, 0x80022114⟩, ⟨0x38000004, 0xC0022315⟩, ⟨0, 0xC0000000⟩, ⟨0, 0x80000000⟩, ⟨0, 0xA0000000⟩, ⟨0, 0x7FFFFFFF⟩, ⟨0x1000F000000, 0xA0034114⟩,
      ⟨0xF000000, 0x80000000⟩, ⟨0x6C000040, 0xA0000000⟩, ⟨0, 0xE0000000⟩],
    (wDict [(255, e)] 3).sl.group = none ∧ (wDict [(255, e)] 3).sl.wait = none ∧ (wDict [(255, e)] 3).sl.pendA = none ∧ (wDict [(255, e)] 3).sl.stepping = false ∧ (wDict [(255, e)] 3).sl.newPc = none
    ∧ (wDict [(255, e)] 3).sl.dictLag = [] ∧ (wDict [(255, e)] 3).sl.dict.active = false ∧ tget (wDict [(255, e)] 3).sl.dict.bank0.entries 255 = some e
    ∧ tget (wDict [(255, e)] 3).sl.dict.bank0.entries 254 = none := by decide +kernel
/-! ### The scheduler, timed steps, tokens -/

def rec0 : Queued := { wRec with record := mkRec 0 0 0 0 0 0 0 0 0 0 0 }
def kern0 : Kernel := ⟨0x8000, 0, 0, 0, 0, 0, 0, 0, 0, 0⟩
/-- Cores 0 and 1 of context 0, a record in core 0's inbox or deques in core 1, and contexts 0 and 3 with kernel 0. -/
def wStart (inb : Tab InSlot) (dq : List DequeEntry) : State :=
  let s := wCtx (fun x => { x with kernels := [(0, kern0)] }) wPair
  let s := { s with contexts := tset s.contexts 3 { Context.fresh placedDesc with kernels := [(0, kern0)] } }.setLineage 3 0 Lineage.root
  (s.setCo { s.co with inbox := inb }).setCore 1 { Core.reset with ctx := some 0, deque := dq }
def inb0 : Tab InSlot := [(0, ⟨.record rec0, 0, 0, 0, false, none, false⟩)]
def cand0 : Cand := ((wStart inb0 []).candidates 0).headD ⟨.rerun ⟨rec0, .plain⟩, 0, 0, 0, 0, 0⟩
theorem witness_TaskStarts : 0 < 8192 ∧ ((wStart inb0 []).coreAt 0).ctx = some 0 ∧ ((wStart inb0 []).slotAt 0 1).task = none ∧ ((wStart inb0 []).slotAt 0 1).reserved = none
    ∧ (wStart inb0 []).privFor 0 = none ∧ ((wStart inb0 []).coreAt 0).switches = [] ∧ recDict rec0.record = 0 ∧ (((wStart inb0 []).coreAt 0).inbox.map (·.1)).Pairwise (· < ·) := by
  decide +kernel
theorem witness_TaskStarts_cand : (wStart inb0 []).candidates 0 = [cand0] := by decide +kernel
theorem witness_TaskStarts_record : (wStart inb0 []).ctx? rec0.ctx = some { Context.fresh placedDesc with kernels := [(0, kern0)] }
    ∧ tget [(0, kern0)] (recKHandle rec0.record).toNat = some kern0 := ⟨by decide +kernel, by decide +kernel⟩
theorem witness_TaskStarts_kind : cand0.passed [cand0] = false ∧ cand0.kind = .record 0 rec0 := ⟨by decide +kernel, by decide +kernel⟩
theorem witness_TaskStarts_unannulled : (wStart inb0 []).unannulled 0 := by
  have h1 : ((wStart inb0 []).coreAt 0).inbox = inb0 := by decide +kernel
  have h2 : ((wStart inb0 []).coreAt 0).deque = [] ∧ ((wStart inb0 []).coreAt 0).rerun = [] ∧ ((wStart inb0 []).coreAt 0).delegQ = [] := by decide +kernel
  rw [State.unannulled, h1, h2.1, h2.2.1, h2.2.2]
  refine ⟨fun e he l hl => ?_, fun d hd => absurd hd List.not_mem_nil, fun d hd => absurd hd List.not_mem_nil, fun d hd => absurd hd List.not_mem_nil⟩
  simp only [inb0, List.mem_singleton] at he
  subst he
  cases hl
  decide +kernel
theorem near_one (v : Nat) (h : 1 ≤ v) (h2 : v < 8192) : nearerVictim 0 v (some 1) = some 1 := by
  unfold nearerVictim
  simp only
  rw [if_pos]
  have h1 : victimKey 0 1 = [0, 1, 1] := by decide
  rw [h1]
  unfold victimKey
  split
  · rename_i hd
    have hv : v < 2048 := by unfold dieOf at hd; omega
    have hh : 1 ≤ hops 0 v := by show 1 ≤ (0 - v / 32 % 64) + (v / 32 % 64 - 0) + (0 - v % 32) + (v % 32 - 0); omega
    simp [keyLe]; omega
  · simp [keyLe]
theorem nextVictim_first : nextVictim 0 none = 1 := by
  have key : ∀ l : List Nat, (∀ v ∈ l, 1 ≤ v ∧ v < 8192) → l.foldl (fun b v => nearerVictim 0 v b) (some 1) = some 1 := by
    intro l
    induction l with
    | nil => intro _; rfl
    | cons v l ih =>
      intro h
      rw [List.foldl_cons, near_one v (h v (List.mem_cons_self ..)).1 (h v (List.mem_cons_self ..)).2]
      exact ih fun w hw => h w (List.mem_cons_of_mem _ hw)
  have h0 : (List.range 8192).filter (fun w => w != 0) = 1 :: ((List.range 8190).map (· + 2)) := by
    rw [List.range_succ_eq_map, List.filter_cons_of_neg (by simp), List.range_succ_eq_map]
    rw [List.filter_eq_self.mpr]
    · simp [Function.comp_def]
    · intro a ha; simp at ha; rcases ha with rfl | ⟨b, hb, rfl⟩ <;> simp
  unfold nextVictim
  simp only [h0]
  have ht : (1 :: (List.range 8190).map (· + 2)).filter (fun _ => true) = 1 :: (List.range 8190).map (· + 2) := List.filter_eq_self.mpr fun _ _ => rfl
  rw [ht, List.foldl_cons]
  have h1 : nearerVictim 0 1 none = some 1 := rfl
  rw [h1, key]
  · rfl
  · intro v hv; simp at hv; omega

/-- A record of context 0 in core 1's deque, stolen from within the die, and one of context 3. -/
def deq (ctx : Nat) : DequeEntry := ⟨0, 2, some { rec0 with ctx := ctx }⟩
theorem witness_TaskStarts_steal : (wStart [] [deq 0]).candidates 0 = [] ∧ (wStart [] [deq 0]).slotAt 0 1 = { (wStart [] [deq 0]).slotAt 0 1 with scan := none }
    ∧ nextVictim 0 none = 1 ∧ ((wStart [] [deq 0]).coreAt 1).deque = deq 0 :: [] ∧ dieOf 0 = dieOf 1 ∧ ((wStart [] [deq 3]).coreAt 1).deque = deq 3 :: [] ∧ (3 : Nat) ≠ 0
    ∧ (wStart [] [deq 3]).ctx? 3 = some { Context.fresh placedDesc with kernels := [(0, kern0)] } :=
  ⟨by decide +kernel, rfl, nextVictim_first, rfl, rfl, rfl, by decide, rfl⟩
theorem witness_TaskStarts_steal_unannulled : ∀ ctx, (wStart [] [deq ctx]).annulled ctx (recLid rec0.record) = false → (wStart [] [deq ctx]).unannulled 1 := by
  intro ctx hx
  have h : ((wStart [] [deq ctx]).coreAt 1).inbox = [] ∧ ((wStart [] [deq ctx]).coreAt 1).deque = [deq ctx] ∧ ((wStart [] [deq ctx]).coreAt 1).rerun = []
      ∧ ((wStart [] [deq ctx]).coreAt 1).delegQ = [] := ⟨rfl, rfl, rfl, rfl⟩
  rw [State.unannulled, h.1, h.2.1, h.2.2.1, h.2.2.2]
  refine ⟨fun e he => absurd he List.not_mem_nil, fun d hd q hq => ?_, fun d hd => absurd hd List.not_mem_nil, fun d hd => absurd hd List.not_mem_nil⟩
  simp only [List.mem_singleton] at hd
  subst hd
  rw [← Option.some.inj hq]
  exact hx
theorem witness_TaskStarts_lives : (wStart [] [deq 0]).annulled 0 (recLid rec0.record) = false ∧ (wStart [] [deq 3]).annulled 3 (recLid rec0.record) = false := by decide +kernel
/-- A wait of which both bounds are 100 or its cap comes first, at an instant. -/
def wTimed (sel cap now : Word) : State :=
  { wSl fun x => { x with wait := some ⟨.ldgD 1 ⟨2, .cap, 0⟩, 0, sel, cap, cap, 0, 0, none, none, 0, none, none⟩ } with instant := now }
theorem witness_TimedSteps : (∀ s ∈ [wTimed 100 100 99, wTimed 100 100 100, wTimed 101 100 100], (s.slotAt 0 0).group = none ∧ (s.slotAt 0 0).stepping = false
      ∧ (s.slotAt 0 0).pendA = none ∧ (s.slotAt 0 0).newPc = none ∧ (s.slotAt 0 0).task = some placedTask ∧ s.annulled placedTask.ctx (s.slotAt 0 0).thread.lid = false ∧ (s.slotAt 0 0).remote = none
      ∧ s.priv = [] ∧ (s.slotAt 0 0).wait.isSome = true)
    ∧ (wTimed 100 100 99).instant < 100 ∧ (100 : Word) ≤ (wTimed 100 100 100).instant ∧ (100 : Word) < 101 ∧ (100 : Word) ≤ (wTimed 101 100 100).instant := by decide +kernel
/-- A budget that has run out, under each action of cause 19. -/
def wOver (b : Nat) : State := wAct b (wTh fun t => { t with remain := 0 })
theorem witness_TimedSteps_budget : (∀ b < 6, ((wOver b).slotAt 0 0).thread.remain = 0 ∧ ((wOver b).slotAt 0 0).park = none ∧ ((wOver b).slotAt 0 0).halt = none
      ∧ ((wOver b).slotAt 0 0).wait = none ∧ ((wOver b).slotAt 0 0).task = some placedTask) ∧ placedTask.ordinary = true ∧ (wOver 1).actionOf 0 19 = 1 ∧ (wOver 1).evtOf 0 19 = 0
    ∧ (wOver 5).actionOf 0 19 = 1 ∧ (wOver 5).evtOf 0 19 ≠ 0 ∧ (wOver 2).actionOf 0 19 = 2 := by decide +kernel
/-- A thread parked at 0 under PTIME `pt`, or for 10 µs. -/
def parkOf (a : Fin 5) (evt : BitVec 2) (pt : BitVec 16) : Park := ⟨4, 0, 0, 0, 0, 0x8000, a, evt, 0, pt⟩
def wParked (p : Park) (now : Word) : State := { wSl fun x => { x with park := some p } with instant := now }
theorem witness_TimedSteps_parked : (∀ e ∈ [(parkOf 2 0 0, (0 : Word)), (parkOf 2 0 1, 999), (parkOf 2 0 1, 1000), (parkOf 1 2 0, 9999), (parkOf 1 2 0, 10000)],
      let s := wParked e.1 e.2
      (∃ x ∈ s.contexts, x.1 = 0) ∧ s.item? 0 (s.threadItem 0 0) = some (.thread 0 0) ∧ (s.slotAt 0 0).park = some e.1
      ∧ (∀ x ∈ s.contexts, x.1 ≠ 0 → s.item? x.1 (s.threadItem 0 0) = none) ∧ (s.slotAt 0 0).task = some placedTask ∧ (s.slotAt 0 0).wait = none
      ∧ e.1.cause ≠ 19 ∧ (s.slotAt 0 0).token = none ∧ s.clusters = [])
    ∧ recCtask placedTask.record = 0 ∧ (0 : Word).toNat + 1000 * (1 : BitVec 16).toNat ≤ (1000 : Word).toNat ∧ (999 : Word).toNat < (0 : Word).toNat + 1000 * (1 : BitVec 16).toNat
    ∧ (0 : Word).toNat + 10000 ≤ (10000 : Word).toNat ∧ (9999 : Word).toNat < (0 : Word).toNat + 10000 := by decide +kernel
/-- The device load's bytes, and those of a `home` that waits. -/
def wHome : State := wSl fun x => { x with wait := some ⟨.home 1 2 3 .cap, 0, 100, 100, 100, 0, 0, none, none, 0, none, none⟩ }
theorem witness_TimedSteps_reads : (∃ ps, (wTimed 100 100 99).translateRange 0 ((wTimed 100 100 99).slotAt 0 0).thread.priv 0 8 needR = .ok ps ∧ ∀ p ∈ ps, p.1 = none ∧ p.2.1 + p.2.2 < 0xF000000000000)
    ∧ ((wTimed 100 100 99).slotAt 0 0).thread.g.get 2 + BitVec.signExtend 64 (0 : BitVec 11) = 0 ∧ (wHome.slotAt 0 0).thread.g.get 2 = 0 ∧ (wHome.slotAt 0 0).thread.g.get 3 = 0
    ∧ ∃ ps, wHome.translateRange 0 1 (wHome.descWord 0 6 + 4 * ((0 * 0x9E3779B97F4A7C15 + 0 * 0xC2B2AE3D27D4EB4F) >>> 52)) 4 needR = .ok ps ∧ ∀ p ∈ ps, p.1 = none ∧ p.2.1 + p.2.2 < 0xF000000000000 :=
  ⟨⟨[(none, 0, 8)], ok_of (by decide +kernel), by decide⟩, by decide +kernel, by decide +kernel, by decide +kernel, ⟨[(none, 0, 4)], ok_of (by decide +kernel), by decide⟩⟩
/-- A token of chip 9, which is peer 5 of context 0, for the object at 0x9000; tokens are full at 1,024. -/
def tok0 : Token := ⟨some 9, 4, 0x9000⟩
def wTok (n : Nat) (susp : List Nat) : State := { wPath with tokens := (List.range n).map (fun i => ⟨some 9, w64 i, 0x8000⟩), suspended := susp }
theorem witness_AbsenceTokens : (∃ e ∈ (wTok 1023 []).contexts, ∃ p ∈ e.2.peers.toList, p.valid = true ∧ p.dead = false ∧ p.chip.toNat = 9) ∧ (wTok 1023 []).tokens.length < 1024
    ∧ tok0 ∉ (wTok 1023 []).tokens ∧ 1024 ≤ (wTok 1024 []).tokens.length ∧ (¬∃ e ∈ (wTok 0 []).contexts, ∃ p ∈ e.2.peers.toList, p.valid = true ∧ p.dead = false ∧ p.chip.toNat = 10)
    ∧ 0x8000 ∉ (wTok 1 []).suspended ∧ (∃ k ∈ (wTok 1 []).tokens, k.obj = 0x8000) ∧ 2 ^ 52 ∉ (wTok 1 []).suspended ∧ 0x9000 ∈ (wTok 1 [0x9000]).suspended
    ∧ ∀ k ∈ (wTok 1 [0x9000]).tokens, k.obj ≠ 0x9000 := by decide +kernel
/-- A wait on the object at 0x9000, and the same suspended at 7. -/
def wWaits (susp : Option Word) : State :=
  wSl fun x => { x with wait := some ⟨.barWait 3 ⟨0, true, .cap, .dev, 0⟩, 0, 100, 100, 100, 2, 0, some (.dev 0x9000 false), susp, 0, none, none⟩ }
theorem witness_AbsenceTokens_wait : ∀ u, ∃ w, (wWaits u).waitsOn ((wWaits u).slotAt 0 0) w 0x9000 ∧ w.suspended = u :=
  fun _ => ⟨_, ⟨rfl, _, _, rfl, rfl, rfl⟩, rfl⟩

/-! ### What the silicon does to itself -/

def wErr (n : Nat) (win now : Word) (sd : BitVec 2) : State :=
  { wCo fun x => { x with timingErrors := n, errorWindow := win, stepdown := sd, stepdownAt := 0 } with instant := now }
theorem witness_TimingErrors : ((wErr 1 0 999999999 0).slotAt 0 0).task = some placedTask ∧ ((wErr 1 0 999999999 0).coreAt 0).timingErrors ≠ 0
    ∧ (999999999 : Word).toNat < (0 : Word).toNat + 1000000000 ∧ ((wErr 0 0 0 3).coreAt 0).timingErrors = 0 ∧ (wCmu 0 (.mzero 0)).co.cmu ≠ []
    ∧ ((wHq .swap).clusterAt 0).harp.queue ≠ [] ∧ ((wErr 0 0 1000 3).coreAt 0).stepdown ≠ 0 ∧ ((wErr 0 0 1000 3).coreAt 0).stepdownAt.toNat + 1000 ≤ (1000 : Word).toNat
    ∧ (999 : Word).toNat < ((wErr 0 0 999 3).coreAt 0).stepdownAt.toNat + 1000 ∧ ((wErr 0 0 0 0).coreAt 0).stepdown = 0 := by decide +kernel
/-- A thread in a device load under the park action, and the copy of its core at its first byte. -/
def wSoft : State := wAct 2 (wChan (copy0 (.arr 0)) [] (wTimed 100 100 0))
theorem witness_SoftErrors : (wSoft.slotAt 0 0).task = some placedTask ∧ placedTask.ordinary = true ∧ (wSoft.slotAt 0 0).wait = some ⟨.ldgD 1 ⟨2, .cap, 0⟩, 0, 100, 100, 100, 0, 0, none, none, 0, none, none⟩
    ∧ wSoft.actionOf placedTask.ctx 23 = 2 ∧ ((wSoft.coreAt 0).chans.get 0).queue = copy0 (.arr 0) :: [] ∧ (copy0 (.arr 0)).park = none ∧ (copy0 (.arr 0)).failed = false
    ∧ (copy0 (.arr 0)).done < (copy0 (.arr 0)).len ∧ (copy0 (.arr 0)).src = .dev 0x9000 ∧ wSoft.actionOf w0.issuer.ctx 23 = 2
    ∧ (((wNode 0).dieAt 0).nodes.map (·.1)).Pairwise (· < ·) ∧ tget ((wNode 0).dieAt 0).nodes 1 = some ⟨wRec, 1, 0, false⟩
    ∧ ((wDict [(255, ⟨0, 0⟩)] 3).sl.dict.bank0.entries.map (·.1)).Pairwise (· < ·) := by decide +kernel
/-- A thread between two units, one that has just loaded from a buffer, and a harp command that reads device memory. -/
def wLoad : State := wAct 2 (wSl fun x => { x with lastLoad := some 0x8000 })
def wHarpRead : State := wAct 2 (wHq (.ldw (.device 0x9000 []) none))
theorem witness_SoftErrors_more : (wLoad.slotAt 0 0).wait = none ∧ (wLoad.slotAt 0 0).park = none ∧ (wLoad.slotAt 0 0).halt = none ∧ (wLoad.slotAt 0 0).newPc = none ∧ (wSoft.slotAt 0 0).newPc = none
    ∧ (0x8000 : Word) >>> 3 = (wLoad.slotAt 0 0).thread.pc >>> 3 ∧ (wLoad.slotAt 0 0).stalled = false ∧ (wLoad.slotAt 0 0).lastLoad = some 0x8000 ∧ (w0.slotAt 0 0).lastLoad = none
    ∧ (wHarpRead.clusterAt 0).harp.queue = hcmd (.ldw (.device 0x9000 []) none) :: [] ∧ (hcmd (.ldw (.device 0x9000 []) none)).waiting = false ∧ (hcmd (.ldw (.device 0x9000 []) none)).park = none
    ∧ Ty.ofCode (hcmd (.ldw (.device 0x9000 []) none)).fmtb.toNat = some .b ∧ 65535 < 65536 ∧ wHarpRead.actionOf w0.issuer.ctx 23 = 2 := by decide +kernel
/-- A resting core 0 (its thread parked), its neighbour empty and cool, core 0 hot; lanes of port 2; the firewall register of region 0; a core with errors. -/
def wWorn : State :=
  let s := { wStart [] [] with fw := { (wStart [] []).fw with lanes := [(2, 7)], fwctl := [(0, 0x40FFFFFF), (1, 0x40000000), (2, 0)] } }
  s.setSl { s.sl with park := some (parkOf 2 0 0) }
def temps0 : List (Nat × Nat) := [(0, 381), (1, 320)]
theorem witness_WornParts : (tget wWorn.fw.lanes 2).getD 0 < 8 ∧ (tget wWorn.fw.lanes 3).getD 0 ≤ 4 ∧ tget wWorn.fw.fwctl 0 = some 0x40FFFFFF ∧ tget wWorn.fw.fwctl 1 = some 0x40000000
    ∧ tget wWorn.fw.fwctl 2 = some 0 ∧ (0x40FFFFFF : BitVec 32).getLsbD 30 = true ∧ (0 : BitVec 32).getLsbD 30 = false ∧ clusterOf 0 = clusterOf 1 ∧ wWorn.logOf? 0 = some 0
    ∧ wWorn.logOf? 1 = some 1 ∧ (wWorn.cores.map (·.1)).Pairwise (· < ·) ∧ wWorn.thermLim = 95 ∧ (temps0.find? fun q => q.1 == 0) = some (0, 381) ∧ 4 * wWorn.thermLim < 381
    ∧ (temps0.find? fun q => q.1 == 1) = some (1, 320) ∧ 320 ≤ 4 * (wWorn.thermLim - 15)
    ∧ (∀ u : Fin 4, ((wWorn.coreAt 0).slots.get u).task = none ∨ ((wWorn.coreAt 0).slots.get u).park ≠ none)
    ∧ (∀ u : Fin 4, ((wWorn.coreAt 1).slots.get u).task = none ∧ ((wWorn.coreAt 1).slots.get u).reserved = none)
    ∧ (¬∀ u : Fin 4, ((w0.coreAt 0).slots.get u).task = none ∨ ((w0.coreAt 0).slots.get u).park ≠ none) ∧ (w0.coreAt 0).ctx ≠ none := by decide +kernel
def wMap (n : Nat) : State := { (wCo fun x => { x with ctx := none, timingErrors := n }) with cores := [(0, { w0.co with ctx := none, timingErrors := n })] }
theorem witness_WornParts_map : ((wMap 0).coreAt 0).timingErrors ≤ (wMap 0).thTerr ∧ (∀ n, (wMap n).thTerr < n → (wMap n).thTerr < ((wMap n).coreAt 0).timingErrors)
    ∧ (wMap ((wMap 0).thTerr + 1)).thTerr < (wMap 0).thTerr + 1 ∧ (wMap 9).logOf? 0 = some 0 ∧ ((wMap 9).coreAt 0).ctx = none :=
  ⟨by decide +kernel, fun _ h => h, by decide +kernel, by decide +kernel, rfl⟩
/-! ### Peers, monitors, bring-up -/

/-- A message held from chip 9, whose mirror in context 0 is lineage 4. -/
def held0 (core : BitVec 13) : HeldMsg := ⟨9, 2, 7, 500, core, 0, wMsg, 0, false⟩
def mirror0 : Lineage := ⟨500, none, 0, 1, .live, some (9, 2, 7, 500), [], none, none⟩
def wHeldM (core : BitVec 13) (now : Word) (f : Core → Core) : State :=
  let s := (wStart [] []).setLineage 0 4 mirror0
  { s.setCo (f s.co) with heldMsgs := [held0 core], instant := now }
theorem witness_PortMessages : (wHeldM 0 500 id).heldMsgs[0]? = some (held0 0) ∧ (held0 0).hops = 0 ∧ (held0 0).expiry ≤ (wHeldM 0 500 id).instant ∧ (wHeldM 0 499 id).instant < (held0 0).expiry
    ∧ (wHeldM 9 0 id).targetCore 0 (held0 9).core = none ∧ (wHeldM 0 0 id).targetCore 0 (held0 0).core = some 0 ∧ ((wHeldM 0 0 fun x => { x with inboxHeld := 112 }).coreAt 0).msgRoom = false
    ∧ ((wHeldM 0 0 fun x => { x with ctx := some 3 }).coreAt 0).ctx ≠ some 0 ∧ ((wHeldM 0 0 id).coreAt 0).ctx = some 0 ∧ ((wHeldM 0 0 id).coreAt 0).msgRoom = true
    ∧ tget ((wHeldM 0 0 id).coreAt 0).inbox 0 = none ∧ (wHeldM 0 0 id).mirrorOf 0 (9, 2, 7, 500) = some 4 ∧ (wHeldM 0 0 id).lineage? 0 4 = some mirror0 := by decide +kernel
theorem witness_PortMessages_stub : ∀ m, (wHeldM 0 0 id).stubTarget 0 0 m = none := by
  intro m
  have h : (wHeldM 0 0 id).vread 0 ((wHeldM 0 0 id).stubVa 0 0) 1 = .ok [0] := ok_of (by decide +kernel)
  unfold State.stubTarget
  rw [h]
  rfl
/-- A queue in its reset, whose notices went out at 0, and which waits for peers. -/
def queue0 : HostQueue :=
  { pa := 0x10000, ring := 0x20000, size := 16, qctx := 0, notify := false, evring := 0x30000, evsize := 16, interval := 1, lastTail := 0, stopped := false, closing := false
    parked := false, cur := none, events := [], resetting := false, resetNoticed := none, resetLids := [], resetPeers := [], resetMask := 0, resetCookie := 0 }
def queueR (ps : List Nat) : HostQueue := { queue0 with resetting := true, resetNoticed := some 0, resetPeers := ps }
def wQ (h : HostQueue) (now : Word) : State :=
  let s := wCtx (fun x => { x with peers := (x.peers.set 3 ⟨9, 0, true, 0, false, false⟩).set 4 ⟨8, 0, true, 0, false, false⟩ }) (wStart [] [])
  { s.setDie 0 { s.dieAt 0 with queues := [(5, h)] } with instant := now }
theorem witness_Notices : (wHeldM 0 0 id).fw.resetNotices = [] ∧ (wHeldM 0 0 id).mirrorsFrom 9 2 8 = [] ∧ (wHeldM 0 0 id).mirrorsFrom 9 2 7 ≠ []
    ∧ (∀ ps ∈ [[3], [3, 4]], (wQ (queueR ps) 0).queueAt 0 5 = some (queueR ps) ∧ (queueR ps).resetting = true ∧ (queueR ps).resetNoticed = some 0 ∧ 3 ∈ (queueR ps).resetPeers
      ∧ (∀ e ∈ (wQ (queueR ps) 0).lineages, e.2.resetBy ≠ some (0, 5)) ∧ (∀ p ∈ (queueR ps).resetPeers, (wQ (queueR ps) 0).deadPeer 0 p = false) ∧ (wQ (queueR ps) 0).memWf = true)
    ∧ ([3, 4].filter fun p => p != 3) ≠ [] ∧ ([3].filter fun p => p != 3) = [] ∧ (99999999 : Word).toNat < (0 : Word).toNat + 100000000 ∧ (0 : Word).toNat + 100000000 ≤ (100000000 : Word).toNat := by
  decide +kernel
theorem witness_Notices_unread : ∀ g, (wQ (queueR [3]) 0).unread g none := fun g => unread_of (by decide +kernel) rfl _ _
def wMon (sel : Word) (now : Word) : State :=
  { w0.setDie 0 { w0.dieAt 0 with monitors := [(3, ⟨sel, 0, 0, Figures.empty, Figures.empty⟩)] } with instant := now }
theorem witness_Monitors : let l : List (Word × Word) := [(6, 0), (7, 0), (8, 0), (0, 0), (7 + 2 ^ 32, 1000), (1, 999)]
    (l.map fun e => tget ((wMon e.1 e.2).dieAt 0).monitors 3) = (l.map fun e => some ⟨e.1, 0, 0, Figures.empty, Figures.empty⟩) ∧ (6 : Word).toNat % 16 = 6 ∧ (7 : Word).toNat % 16 = 7
    ∧ (8 : Word).toNat % 16 ≠ 6 ∧ (8 : Word).toNat % 16 ≠ 7 ∧ (0 : Word).toNat + 1000 * max 1 ((7 + 2 ^ 32 : Word).toNat / 2 ^ 32) ≤ (1000 : Word).toNat ∧ (999 : Word).toNat < (0 : Word).toNat + 1000 * max 1 ((1 : Word).toNat / 2 ^ 32)
    ∧ 2 ^ 64 - 1 < 2 ^ 64 := by decide +kernel
theorem witness_EnergyCounters : 515 < 516 ∧ 2 ^ 64 - 1 < 2 ^ 64 := by decide
theorem witness_Monitors_droop : (w0.courseAt 0).droop = false ∧ 695 + 25 ≤ w0.setPoint 0 := by decide +kernel
def wPtp (b : Boot) (set : Bool) (tab : List Byte) (now : Word) : State := { w0 with instant := now, fw := { w0.fw with boot := b, instantSet := set, ctxEver := false, table := tab } }
theorem witness_PrecisionTime : (wPtp .ready true [] 0).ptpPort = some 0 ∧ (wPtp .timing false [] 0).ptpPort = some 0 ∧ (wPtp .ready true [] 0).ptpPort ≠ some 1
    ∧ (wPtp .ready true (List.replicate 0x18 0 ++ [0xFF, 0xFF]) 0).ptpPort = none ∧ (wPtp .timing false [] 0).fw.ctxEver = false
    ∧ 5000000000 ≤ (wPtp .timing false [] 5000000000).instant.toNat ∧ (wPtp .timing false [] 4999999999).instant.toNat < 5000000000 := by decide +kernel
/-- The least image and a table of the defaults, with a signature. -/
def image0 (sig : List Byte) : List Byte := List.replicate 8 0 ++ sig ++ List.replicate 4 0
def fields0 : List Byte :=
  [1, 0, 0, 0, 0, 0, 0, 0, 1] ++ List.replicate 43 0 ++ (List.range 4).flatMap (fun _ => [1, 3] ++ List.replicate 254 0) ++ List.replicate 1024 0
theorem witness_Bringup_stops : imageOk 0 [] = false ∧ tableOk 0 [] = false := by
  refine ⟨by decide +kernel, ?_⟩
  simp [tableOk, tableSize]
/-- The clauses that need an image and a table hold their premises for the signatures that the keys, which are free (log 40), pass. -/
theorem witness_Bringup_image (sig : List Byte) (hl : sig.length = 132) (h : ecdsaValid Config.bootKey (sha512 (List.replicate 8 0)) sig = true) :
    imageOk 0 (image0 sig) = true := by
  have ht : imageTrailer (image0 sig) = image0 sig := by
    unfold imageTrailer
    rw [show (image0 sig).length = 144 by simp [image0, hl]]
    rfl
  have h8 : (image0 sig).take 8 = List.replicate 8 0 := rfl
  have hs : ((image0 sig).drop 8).take 132 = sig := by
    show (sig ++ List.replicate 4 0).take 132 = sig
    rw [← hl, List.take_left]
  have hd : imageDigest (image0 sig) = sha512 (List.replicate 8 0) := by
    rw [imageDigest, show (image0 sig).length = 144 by simp [image0, hl]]; exact congrArg sha512 h8
  have hv : imageValid 0 (image0 sig) = true := by
    simp only [imageValid, hd, imageSig, ht, hs, h, Bool.and_true]
    exact decide_eq_true (Nat.zero_le _)
  have hi : imagesIn (image0 sig) = [image0 sig] := by
    rw [imagesIn, show (image0 sig).length = 144 by simp [image0, hl]]
    show [(image0 sig).take 144] = _
    rw [List.take_of_length_le (by simp [image0, hl])]
  rw [imageOk, imageIn, hi, List.find?_cons_of_pos hv]; rfl
/-- The same slot meets the premises of the clause on what image is found, at a body of length 0. -/
theorem witness_Bringup_found (sig : List Byte) (hl : sig.length = 132) (h : ecdsaValid Config.bootKey (sha512 (List.replicate 8 0)) sig = true) :
    0 + 144 ≤ (image0 sig).length ∧ leNat (((image0 sig).drop (0 + 4)).take 4) = 0 ∧ (0 : BitVec 32).toNat ≤ leNat (((image0 sig).drop 0).take 4)
    ∧ ecdsaValid Config.bootKey (sha512 ((image0 sig).take (0 + 8))) (((image0 sig).drop (0 + 8)).take 132) = true ∧ ∀ j : Nat, ¬j < 0 := by
  refine ⟨by simp [image0, hl], rfl, Nat.zero_le _, ?_, fun j => Nat.not_lt_zero j⟩
  have hs : ((image0 sig).drop 8).take 132 = sig := by
    show (sig ++ List.replicate 4 0).take 132 = sig
    rw [← hl, List.take_left]
  rw [Nat.zero_add, hs]
  exact h
theorem fields0_length : fields0.length = 0x834 := by decide +kernel
theorem table0_prefix (sig : List Byte) (off n : Nat) (h : off + n ≤ 0x834) : tabWord (fields0 ++ sig) off n = tabWord fields0 off n := by
  unfold tabWord
  rw [List.drop_append_of_le_length (by rw [fields0_length]; omega), List.take_append_of_le_length (by rw [List.length_drop, fields0_length]; omega)]
theorem witness_Bringup_table (sig : List Byte) (hl : sig.length = 132)
    (h : ∃ k, tableKey = some k ∧ ecdsaValid k (sha512 fields0) sig = true) : tableOk 0 (fields0 ++ sig) = true := by
  obtain ⟨k, hk, h⟩ := h
  have hs : ((fields0 ++ sig).drop 0x834).take 132 = sig := by
    rw [← fields0_length, List.drop_left, ← hl, List.take_length]
  have hp : (fields0 ++ sig).take 0x834 = fields0 := by rw [← fields0_length, List.take_left]
  have hsig : tableSigned tableKey (fields0 ++ sig) = true := by rw [hk]; simp only [tableSigned, hs, hp, h]
  have hr : ∀ d < 4, roles (fields0 ++ sig) d = roles fields0 d := by
    intro d hd
    have hw : nutWidth (fields0 ++ sig) = 1 ∧ nutWidth fields0 = 1 := by
      refine ⟨?_, by decide +kernel⟩
      unfold nutWidth
      rw [table0_prefix _ _ _ (by decide)]
      decide +kernel
    unfold roles
    rw [hw.1, hw.2]
    refine List.map_congr_left fun i hi => table0_prefix _ _ _ ?_
    have := List.mem_range.mp hi
    omega
  have hf : tableFields (fields0 ++ sig) = tableFields fields0 := by
    unfold tableFields
    have hall : (List.range 4).flatMap (roles (fields0 ++ sig)) = (List.range 4).flatMap (roles fields0) := by
      show roles _ 0 ++ (roles _ 1 ++ (roles _ 2 ++ (roles _ 3 ++ []))) = _
      rw [hr 0 (by decide), hr 1 (by decide), hr 2 (by decide), hr 3 (by decide)]
      rfl
    have hone : ((List.range 4).all fun d => (roles (fields0 ++ sig) d).contains 1) = (List.range 4).all fun d => (roles fields0 d).contains 1 := by
      show ((roles (fields0 ++ sig) 0).contains 1 && ((roles (fields0 ++ sig) 1).contains 1 && ((roles (fields0 ++ sig) 2).contains 1
      && ((roles (fields0 ++ sig) 3).contains 1 && true)))) = _
      rw [hr 0 (by decide), hr 1 (by decide), hr 2 (by decide), hr 3 (by decide)]
      rfl
    have hw : nutWidth (fields0 ++ sig) = nutWidth fields0 := by unfold nutWidth; rw [table0_prefix _ _ _ (by decide)]
    rw [hall, hone, hw]
    simp only [table0_prefix _ _ _ (show 0x000 + 4 ≤ 0x834 by decide), table0_prefix _ _ _ (show 0x008 + 2 ≤ 0x834 by decide), table0_prefix _ _ _ (show 0x00B + 1 ≤ 0x834 by decide),
      table0_prefix _ _ _ (show 0x00C + 4 ≤ 0x834 by decide), table0_prefix _ _ _ (show 0x020 + 4 ≤ 0x834 by decide), table0_prefix _ _ _ (show 0x028 + 4 ≤ 0x834 by decide),
      table0_prefix _ _ _ (show 0x030 + 4 ≤ 0x834 by decide)]
  have hg : tableFields fields0 = true := by decide +kernel
  simp only [tableOk, hf, hg, hsig, Bool.and_true, Bool.and_eq_true, decide_eq_true_eq]
  refine ⟨?_, Nat.zero_le _⟩
  rw [List.length_append, fields0_length, hl]
  all_goals decide
theorem witness_Bringup_cores : 1024 ≤ ((List.range 8192).filter fun n => decide (n % 32 < 32 - 1) && !([] : List Nat).contains n).length := by
  have h2 : 1024 ≤ ((List.range 1100).filter fun n => decide (n % 32 < 32 - 1) && !([] : List Nat).contains n).length := by decide +kernel
  rw [show (8192 : Nat) = 1100 + 7092 from rfl, List.range_add, List.filter_append, List.length_append]
  exact Nat.le_trans h2 (Nat.le_add_right ..)
/-! ### The management endpoint and the queues -/

theorem witness_CommandsBeforeReady : State.reset.fw.boot ≠ .ready := by decide
/-- Context 0 READY with core 1 in the table and empty; its action table at `at_`. -/
def wMgmt (at_ : Word) : State :=
  let s := wCtx (fun x => { x with desc := x.desc.set 5 at_ |>.set 7 0x9000 }) (wStart [] [])
  s.setCore 1 Core.reset
theorem witness_ContextCommands : (wMgmt 0x9000).fw.boot = .ready ∧ (wMgmt 0x9000).ctx? 0 ≠ none ∧ (wMgmt 0x9000).ctx? 15 = none ∧ 15 < 16 ∧ 0x7FFFFFFF80 + 0x80 ≤ 0x8000000000
    ∧ ((wMgmt 0x9000).contexts.map (·.1)).Pairwise (· < ·) ∧ (wMgmt 0x9000).physOf 9 = none ∧ (wMgmt 0x9000).physOf 1 = some 1 ∧ ((wMgmt 0x9000).coreAt 1).ctx = none
    ∧ tget (wMgmt 0x9000).cores (savedNum 0 1) = none ∧ (∀ d ∈ (wMgmt 0x9000).dies, ∀ q ∈ d.2.queues, q.2.qctx ≠ 0) := by decide +kernel
theorem witness_ContextCommands_tables : ∃ x l l' e, (wMgmt 0x9000).ctx? 0 = some x ∧ (wMgmt 0x9000).vread 0 (x.desc.get 7) 512 = .ok l ∧ (wMgmt 0x9000).vread 0 (x.desc.get 5) 1040 = .ok l'
    ∧ ∃ y, (wMgmt 0x3FFFFFFFF000).ctx? 0 = some y ∧ (wMgmt 0x3FFFFFFFF000).vread 0 (y.desc.get 5) 1040 = .error e :=
  ⟨_, _, _, _, rfl, ok_of rfl, ok_of rfl, _, rfl, rfl⟩
/-- Core 1 vacant, with its tables where `wMgmt` has them, and with an image of context 0 saved for it; core 1 of context 0, whose save areas lie at `area`. -/
def wSaved : State := { wMgmt 0x9000 with cores := tset (wMgmt 0x9000).cores (savedNum 0 1) Core.reset }
def wOut (area : Word) : State := wCtx (fun x => { x with desc := x.desc.set 11 area }) (wStart [] [])
theorem witness_ContextCommands_switch : (∀ s ∈ [wMgmt 0x9000, wSaved, wOut 0, wOut 0x3FFFFFFFF000], s.logOf? 1 = some 1 ∧ s.physOf (BitVec.ofNat 13 1) = some 1 ∧ (s.coreAt 1).switches = []
      ∧ (∀ t : Fin 4, ((s.coreAt 1).slots.get t).task = none ∧ ((s.coreAt 1).slots.get t).wait = none) ∧ s.fw.boot = .ready)
    ∧ tget wSaved.cores (savedNum 0 (BitVec.ofNat 13 1)) ≠ none ∧ ((wOut 0).coreAt 1).ctx = some 0 ∧ ((wOut 0).coreAt 1).cmu = [] ∧ ((wOut 0).clusterAt (clusterOf 1)).harp.queue = []
    ∧ ((wOut 0).clusterAt (clusterOf 1)).harp.lease = none ∧ (∀ e ∈ (wMgmt 0x9000).cores, ∀ t : Fin 4, (e.2.slots.get t).wait = none) := by decide +kernel
theorem witness_ContextCommands_image : ∃ l, wSaved.vread 0 (wSaved.saveArea 0 (BitVec.ofNat 13 1)) 0x20000 = .ok l := by
  have h : (wSaved.translateRange 0 1 (wSaved.saveArea 0 (BitVec.ofNat 13 1)) 0x20000 needR).toOption.isSome = true := by decide +kernel
  obtain ⟨ps, hp⟩ := Option.isSome_iff_exists.mp h
  exact ⟨wSaved.readPieces ps, by unfold State.vread; rw [ok_of hp]⟩
theorem vwrite_ok {s : State} {ctx n : Nat} {va : Word} {f : Nat → Byte} (h : (s.translateRange ctx 1 va n needW).toOption.isSome = true) :
    ∃ s', s.vwrite ctx va ((List.range n).map f) = .ok s' := by
  obtain ⟨ps, hp⟩ := Option.isSome_iff_exists.mp h
  exact ⟨_, by unfold State.vwrite; rw [List.length_map, List.length_range, ok_of hp]⟩
theorem vwrite_error {s : State} {ctx n : Nat} {va : Word} {f : Nat → Byte} (h : (s.translateRange ctx 1 va n needW).toOption.isNone = true) :
    ∃ e, s.vwrite ctx va ((List.range n).map f) = .error e := by
  cases hr : s.translateRange ctx 1 va n needW with
  | error e => exact ⟨e, by unfold State.vwrite; rw [List.length_map, List.length_range, hr]⟩
  | ok ps => rw [hr] at h; exact nomatch h
theorem witness_ContextCommands_save : (∃ s', (wOut 0).vwrite 0 ((wOut 0).saveArea 0 (BitVec.ofNat 13 1)) ((List.range 0x28000).map fun i => (wOut 0).imageAt 1 i) = .ok s')
    ∧ ∃ e, (wOut 0x3FFFFFFFF000).vwrite 0 ((wOut 0x3FFFFFFFF000).saveArea 0 (BitVec.ofNat 13 1)) ((List.range 0x28000).map fun i => (wOut 0x3FFFFFFFF000).imageAt 1 i) = .error e :=
  ⟨vwrite_ok (by decide +kernel), vwrite_error (by decide +kernel)⟩
/-- A slot of core 0 has a task; whether the supervisor forces its park is the model's free value (log 83). -/
theorem witness_ContextCommands_waits : (∃ t : Fin 4, (((wMgmt 0x9000).coreAt 0).slots.get t).task ≠ none) ∧ (wMgmt 0x9000).physOf (BitVec.ofNat 13 0) = some 0 ∧ (wMgmt 0x9000).logOf? 0 = some 0
    ∧ ((wMgmt 0x9000).coreAt 0).switches = [] := ⟨⟨0, by decide +kernel⟩, by decide +kernel, by decide +kernel, by decide +kernel⟩
/-- A queue descriptor at 0x10000: BASE 0x20000, SIZE, context 0 with NOTIFY, EVBASE 0x30000, EVSIZE; TAIL, PROG, EVHEAD and EVTAIL at their places. -/
def wDescr (size evsize tail prog evhead evtail : Nat) (more : List Byte) (h : Option HostQueue) : State :=
  let s := wStart [] []
  let m := mputs s.mem 0x10000 (leBytes 8 0x20000 ++ leBytes 4 size ++ [0x10, 0, 0, 0] ++ leBytes 8 tail ++ leBytes 8 prog ++ leBytes 8 0 ++ leBytes 8 0x30000
    ++ leBytes 4 evsize ++ leBytes 4 evhead ++ leBytes 4 evtail)
  let s := { s with mem := mputs m 0x20000 more }
  match h with
  | none => s
  | some h => s.setDie 0 { s.dieAt 0 with queues := [(5, h)] }
theorem witness_QueueMapping : let s := wDescr 16 65536 0 0 0 0 [] none
    s.fw.boot = .ready ∧ s.queueAt 0 5 = none ∧ s.field 0x10000 8 % 128 = 0 ∧ s.field (0x10000 + 0x28) 8 % 64 = 0 ∧ s.field (0x10000 + 8) 4 = 2 ^ 4 ∧ s.field (0x10000 + 0x30) 4 = 2 ^ 16
    ∧ s.field (0x10000 + 0xC) 1 % 16 = 0 ∧ (s.ctx? 0).isSome = true ∧ s.residentSomewhere 0 = true ∧ (∀ d ∈ s.dies, ∀ p ∈ d.2.queues, p.2.qctx ≠ 0)
    ∧ (wDescr 15 16 0 0 0 0 [] none).field (0x10000 + 8) 4 < 16 ∧ 65536 < (wDescr 65537 16 0 0 0 0 [] none).field (0x10000 + 8) 4 ∧ 4095 < 4096 ∧ 3 < 4 := by decide +kernel
theorem witness_QueueMapping_queue : let s := wDescr 16 16 17 1 0 0 [] (some queue0)
    s.queueAt 0 5 = some queue0 ∧ queue0.cur = none ∧ queue0.events = [] ∧ queue0.resetting = false ∧ (s.dieAt 0).queues = [(5, queue0)] ∧ queue0.parked = false
    ∧ queue0.stopped = false ∧ queue0.closing = false ∧ (BitVec.ofNat 32 (s.field (queue0.pa + 0x10) 4) - BitVec.ofNat 32 (s.field (queue0.pa + 0x18) 4)).toNat ≤ queue0.size
    ∧ queue0.size < (BitVec.ofNat 32 ((wDescr 16 16 18 1 0 0 [] (some queue0)).field (queue0.pa + 0x10) 4) - BitVec.ofNat 32 ((wDescr 16 16 18 1 0 0 [] (some queue0)).field (queue0.pa + 0x18) 4)).toNat
    ∧ (wDescr 16 16 18 1 0 0 [] (some queue0)).memWf = true := by decide +kernel
/-- A stopped queue with a SUBMIT under way. -/
theorem witness_QueueMapping_unmap : (wDescr 16 16 17 1 0 0 [] (some { queue0 with cur := some ⟨4, 1, false⟩, stopped := true })).queueAt 0 5 = some { queue0 with cur := some ⟨4, 1, false⟩, stopped := true }
    ∧ 0x10000 + 64 ≤ 0x8000000000 := by decide +kernel
theorem start_unread {s : State} (h : s.cores = (wStart [] []).cores) (ht : s.transit = []) (g : Gran) : s.unread g none := unread_of (by rw [h]; decide +kernel) ht _ _
theorem wDescr_unread (a b c d e f : Nat) (l : List Byte) (h : HostQueue) : ∀ g, (wDescr a b c d e f l (some h)).unread g none := start_unread rfl rfl
theorem witness_RegistersAndStore : 0xF7FFFFFFFFFFF < 0xF800000000000 ∧ w0.fw.boot = .ready ∧ State.reset.fw.boot ≠ .ready ∧ 0x7FFFFF + [(1 : Byte)].length ≤ 0x800000
    ∧ 0x800000 < 0x800000 + [(1 : Byte)].length := by decide +kernel
/-- Commands of each opcode: a no-op, an opcode 4, SUBMIT of 64 records (FAN 63) and with LMODE 1 under LID 0, ANNUL and RESET. -/
def cmd (opc fan lmode : Byte) (core : Nat) (expiry : Nat) (lid : Nat) : List Byte :=
  [opc, fan, lmode, 1] ++ leBytes 4 core ++ leBytes 8 expiry ++ leBytes 8 0x77 ++ leBytes 4 lid ++ List.replicate 36 0 ++ leBytes 64 (mkRec 0 0 0 0 0 0 0 1 2 3 4).toNat
def queueC : HostQueue := { queue0 with lastTail := 1 }
def wCmd (l : List Byte) (lins : List (BitVec 20 × Lineage)) : State :=
  lins.foldl (fun s e => s.setLineage 0 e.1 e.2) (wDescr 16 16 1 0 0 0 l (some queueC))
def atCmd (l : List Byte) : Bool :=
  let s := wCmd l []
  decide (s.queueAt 0 5 = some queueC) && decide (queueC.lastTail ≠ BitVec.ofNat 32 (s.field (queueC.pa + 0x18) 4))
    && decide (BitVec.ofNat 32 (s.field (queueC.pa + 0x38) 4) - BitVec.ofNat 32 (s.field (queueC.pa + 0x34) 4) ≠ BitVec.ofNat 32 queueC.evsize)
    && decide (l = mbytes s.mem (queueC.ring + 128 * (s.field (queueC.pa + 0x18) 4 % queueC.size)) 128)
theorem atCmd_spec {l : List Byte} (h : atCmd l = true) : (wCmd l []).atCommand 0 5 queueC l := by
  simp only [atCmd, Bool.and_eq_true, decide_eq_true_eq] at h
  exact ⟨h.1.1.1, rfl, rfl, rfl, rfl, h.1.1.2, h.1.2, h.2⟩
theorem witness_QueueCommands : ∀ l ∈ [cmd 0 0 0 0 0 0, cmd 4 0 0 0 0 0, cmd 1 63 0 0 9 0, cmd 1 64 0 0 9 0, cmd 1 0 1 0 0 0, cmd 2 0 0 0 0 5, cmd 3 0 0 0 0 0, cmd 0 64 0 0 0 0, cmd 2 0 2 0 0 5,
    cmd 3 255 255 0 0 0], (wCmd l []).atCommand 0 5 queueC l := by
  have h : ∀ l ∈ [cmd 0 0 0 0 0 0, cmd 4 0 0 0 0 0, cmd 1 63 0 0 9 0, cmd 1 64 0 0 9 0, cmd 1 0 1 0 0 0, cmd 2 0 0 0 0 5, cmd 3 0 0 0 0 0, cmd 0 64 0 0 0 0,
    cmd 2 0 2 0 0 5, cmd 3 255 255 0 0 0], atCmd l = true := by decide +kernel
  exact fun l hl => atCmd_spec (h l hl)
/-- SUBMIT's checks: two cores, the second none; expiry; the table's next LID; a lineage that lives, and one that is annulled. -/
theorem witness_QueueCommands_checks : let s := wCmd (cmd 1 1 0 0 9 0) [(5, { mirror0 with state := .annulled })]
    s.memWf = true ∧ s.targetCore 0 0 = some 0 ∧ s.targetCore 0 1 = some 1 ∧ s.targetCore 0 2 = none ∧ s.instant = 0 ∧ s.freeLid 0 = some 1 ∧ s.lineage? 0 0 ≠ none
    ∧ s.annulled 0 0 = false ∧ s.annulled 0 5 = true ∧ s.lineage? 0 5 ≠ none ∧ s.lineage? 0 6 = none := by decide +kernel
theorem witness_QueueCommands_annul : let u := (wCmd (cmd 2 0 0 0 0 5) [(5, mirror0)]).annulLineage 0 5
    (wCmd (cmd 2 0 0 0 0 5) [(5, mirror0)]).annulled 0 5 = false ∧ u.memWf = true ∧ u.queueAt 0 5 = some queueC := by decide +kernel
/-- The queue's SUBMIT at its second and last record. -/
def wSub : State :=
  let s := (wDescr 16 16 1 0 0 0 (cmd 1 1 0 0 9 0) (some { queueC with cur := some ⟨4, 1, false⟩ })).setLineage 0 4 mirror0
  s
theorem witness_QueueCommands_record : wSub.queueAt 0 5 = some { queueC with cur := some ⟨4, 1, false⟩ } ∧ wSub.annulled 0 4 = false ∧ wSub.targetCore 0 (BitVec.ofNat 13 (0 % 8192 + 1)) = some 1
    ∧ (wSub.coreAt 1).ctx = some 0 ∧ (wSub.coreAt 1).recRoom 1 = true ∧ tget (wSub.coreAt 1).inbox 0 = none ∧ wSub.lineage? 0 4 = some mirror0 ∧ wSub.memWf = true
    ∧ cmd 1 1 0 0 9 0 = mbytes wSub.mem (queueC.ring + 128 * (wSub.field (queueC.pa + 0x18) 4 % queueC.size)) 128 := by decide +kernel
theorem wCmd_unread (l : List Byte) : ∀ g, (wCmd l []).unread g none := start_unread rfl rfl
theorem witness_ResetsAndEvents : (wCmd (cmd 3 0 0 0 0 0) []).memWf = true ∧ leNat ((cmd 3 0 0 0 0 0).take 1) = 3 ∧ queueC.resetting = false
    ∧ (∀ e ∈ (wCmd (cmd 3 0 0 0 0 0) []).lineages, e.2.origin ≠ some (0, 5) ∧ e.2.resetBy ≠ some (0, 5))
    ∧ (wDescr 16 16 1 0 0 0 [] (some { queueC with events := [7] })).queueAt 0 5 = some { queueC with events := [7] }
    ∧ ¬BitVec.ofNat 32 ((wDescr 16 16 1 0 0 0 [] none).field 0x10038 4) - BitVec.ofNat 32 ((wDescr 16 16 1 0 0 0 [] none).field 0x10034 4) = (16 : BitVec 32)
    ∧ BitVec.ofNat 32 ((wDescr 16 16 1 0 3 19 [] none).field 0x10038 4) - BitVec.ofNat 32 ((wDescr 16 16 1 0 3 19 [] none).field 0x10034 4) = (16 : BitVec 32) := by decide +kernel
/-- A record that waits: its lineage gone or annulled, or its queue stopped or its ring full. -/
theorem witness_QueueCommands_gone : ({ queueC with cur := some ⟨4, 1, true⟩ } : HostQueue).closing = false ∧ (wSub.setLineage 0 4 { mirror0 with state := .annulled }).annulled 0 4 = true
    ∧ wSub.annulled 0 4 = false ∧ ¬BitVec.ofNat 32 (wSub.field (queueC.pa + 0x38) 4) - BitVec.ofNat 32 (wSub.field (queueC.pa + 0x34) 4) = BitVec.ofNat 32 queueC.evsize
    ∧ (queueC.parked = false ∧ queueC.stopped = false ∧ queueC.closing = false) := by decide +kernel
/-- RSTAT in memory with a reset in progress, and without. -/
def wRstat (v : Nat) : State := { wCmd (cmd 3 0 0 0 0 0) [] with mem := mputs (wCmd (cmd 3 0 0 0 0 0) []).mem 0x10020 (leBytes 8 v) }
theorem witness_ResetsAndEvents_rstat : (wRstat (2 ^ 62)).field (queueC.pa + 0x20) 8 / 2 ^ 62 % 4 = 1 ∧ (wRstat (2 ^ 63)).field (queueC.pa + 0x20) 8 / 2 ^ 62 % 4 ≠ 1 ∧ (wRstat (2 ^ 62)).memWf = true
    ∧ (wRstat (2 ^ 62)).queueAt 0 5 = some queueC ∧ cmd 3 0 0 0 0 0 = mbytes (wRstat (2 ^ 62)).mem (queueC.ring + 128 * ((wRstat (2 ^ 62)).field (queueC.pa + 0x18) 4 % queueC.size)) 128 := by
  decide +kernel
/-! ### The control page, dispositions, the debugger, steps -/

/-- Kernel descriptor pointers at 0x9000 of context 0, with NKERN 2, and descriptors at 0x9100. -/
def wKern (d : List Byte) (busy : Option (BitVec 16)) (tab : Word) : State :=
  let s := wCtx (fun x => { x with desc := x.desc.set 1 tab |>.set 2 2, kbusy := busy, ipend := [4 * 0x8 + 0] }) w0
  { s with mem := mputs (mputs s.mem 0x9000 (leBytes 8 0x9100 ++ leBytes 8 0x9100)) 0x9100 d }
def kdesc (base w a c flags : Nat) : List Byte := leBytes 8 base ++ leBytes 4 w ++ leBytes 4 a ++ leBytes 4 c ++ leBytes 4 flags ++ List.replicate 40 0
theorem witness_ControlPage : ([none, some 1, some 2].map fun b => (wKern (kdesc 0x8000 64 64 64 0) b 0x9000).ctx? 0)
    = [none, some (1 : BitVec 16), some 2].map fun b => some { Context.fresh placedDesc with desc := placedDesc.set 1 0x9000 |>.set 2 2, kbusy := b, ipend := [32] } := by
  decide +kernel
theorem witness_ControlPage_load : ∃ x y l d e, (wKern (kdesc 0x8000 64 64 64 0) (some 1) 0x9000).ctx? 0 = some x ∧ (1 : BitVec 16).toNat < (x.desc.get 2).toNat % 2 ^ 32
    ∧ (x.desc.get 2).toNat % 2 ^ 32 ≤ (2 : BitVec 16).toNat
    ∧ (wKern (kdesc 0x8000 64 64 64 0) (some 1) 0x9000).vread 0 (x.desc.get 1 + 8 * (1 : BitVec 16).setWidth 64) 8 = .ok l ∧ (wKern (kdesc 0x8000 64 64 64 0) (some 1) 0x9000).vread 0 (w64 (leNat l)) 64 = .ok d
    ∧ (wKern [] (some 1) 0x3FFFFFFFF000).ctx? 0 = some y ∧ (wKern [] (some 1) 0x3FFFFFFFF000).vread 0 (y.desc.get 1 + 8 * (1 : BitVec 16).setWidth 64) 8 = .error e :=
  ⟨_, _, _, _, _, rfl, by decide +kernel, by decide +kernel, ok_of rfl, ok_of rfl, rfl, rfl⟩
/-- A descriptor that fits, one with a misaligned base, one with a W allocation of 0, and one whose allocation ends past the buffer. -/
theorem witness_ControlPage_descriptor : let f (d : List Byte) (off n : Nat) : Nat := leNat ((d.drop off).take n)
    let fits (d : List Byte) (off whole : Nat) : Prop := 64 ≤ f d off 4 % 65536 ∧ f d off 4 % 65536 % 64 = 0 ∧ f d off 4 / 65536 % 1024 * 64 + f d off 4 % 65536 ≤ whole
    let ok := kdesc 0x8000 0xC000 0x8000 0x4000 (4 * 8)
    f ok 0 8 % 8 = 0 ∧ fits ok 0x08 0xC000 ∧ fits ok 0x0C 0x8000 ∧ fits ok 0x10 0x4000 ∧ f ok 0x14 4 / 4 % 16 ≤ 8 ∧ f (kdesc 0x8004 64 64 64 0) 0 8 % 8 ≠ 0
    ∧ ¬fits (kdesc 0x8000 0 64 64 0) 0x08 0xC000 ∧ ¬fits (kdesc 0x8000 (65536 + 0xC000) 64 64 0) 0x08 0xC000 := by decide +kernel
/-- Invalidations of a page and of everything, and frame 9 owned by context 0 and shared with context 3. -/
def wShare : State := { wKern [] none 0 with frames := [(9, BitVec.ofNat 32 (2 ^ 24 + 8)), (10, BitVec.ofNat 32 (2 ^ 24 + 5 * 2 ^ 20))] }
theorem witness_ControlPage_share : 4 * 0x8 + 0 < 2 ^ 60 ∧ wShare.op = [] ∧ wShare.lq = [] ∧ (∀ c ∈ wShare.clusters, c.2.harp.queue = []) ∧ tget wShare.frames 8 = none
    ∧ tget wShare.frames 9 = some (BitVec.ofNat 32 (2 ^ 24 + 8)) ∧ (BitVec.ofNat 32 (2 ^ 24 + 8)).getLsbD 24 = true ∧ (BitVec.ofNat 32 (2 ^ 24 + 8)).toNat / 2 ^ 20 % 16 = 0
    ∧ tget wShare.frames 10 = some (BitVec.ofNat 32 (2 ^ 24 + 5 * 2 ^ 20)) ∧ ¬(BitVec.ofNat 32 (2 ^ 24 + 5 * 2 ^ 20)).toNat / 2 ^ 20 % 16 = 0
    ∧ (∀ i < 16, (BitVec.ofNat 32 (2 ^ 24 + 8)).getLsbD i = true → (((0x800009 : BitVec 64) >>> 20).setWidth 16 &&& ~~~BitVec.twoPow 16 0).getLsbD i = true)
    ∧ (0x800009 : BitVec 64).getLsbD 36 = false
    ∧ (∃ i < 16, (BitVec.ofNat 32 (2 ^ 24 + 8)).getLsbD i = true ∧ (((0x400009 : BitVec 64) >>> 20).setWidth 16 &&& ~~~BitVec.twoPow 16 0).getLsbD i = false) := by decide +kernel
theorem witness_HostAccess : tget wShare.frames 8 = none ∧ 15 < 16 ∧ 262143 < 262144 ∧ tget wShare.frames 9 = some (BitVec.ofNat 32 (2 ^ 24 + 8))
    ∧ (wShare.ctx? ((BitVec.ofNat 32 (2 ^ 24 + 8)).toNat / 2 ^ 20 % 16)).isSome = true ∧ 3 ≠ (BitVec.ofNat 32 (2 ^ 24 + 8)).toNat / 2 ^ 20 % 16
    ∧ 0x7FFFFFFFFF + [(1 : Byte)].length ≤ 0x8000000000 ∧ wShare.memWf = true ∧ 0x8000000000 < 0x8000000000 + [(1 : Byte)].length := by decide +kernel
theorem witness_HostAccess_unread : ∀ g, wShare.unread g none := fun g => unread_of (by decide +kernel) rfl _ _
/-- A dead peer entry of context 0 at 0x9050, and a store of the host that reaches it. -/
def wDead : State := wCtx (fun x => { x with desc := x.desc.set 7 0x9000, peers := x.peers.set 5 ⟨9, 0, true, 0, true, false⟩ }) w0
theorem witness_HostAccess_dead : (wDead.ctx? 0).map (fun y => ((y.peers.get 5).dead, (y.peers.get 4).dead)) = some (true, false)
    ∧ wDead.translateRange 0 1 (0x9000 + w64 (16 * 5)) 16 needR = .ok [(none, 0x9050, 16)] ∧ 0x9050 < 0x905F + [(1 : Byte)].length ∧ 0x905F < 0x9050 + 16
    ∧ ¬0x9060 < 0x9050 + 16 ∧ wDead.memWf = true ∧ ∀ g, wDead.unread g none :=
  ⟨by decide +kernel, ok_of (by decide +kernel), by decide, by decide, by decide, by decide +kernel, fun g => unread_of (by decide +kernel) rfl _ _⟩
/-- A thread parked by each kind of cause, or not parked, and its handle; a handle of no item. -/
def parkedBy (cause : BitVec 6) (kind : BitVec 2) (a : Fin 5) (evt : BitVec 2) (addr : Word) : Park := ⟨cause, 0, kind, 0, addr, 0x8000, a, evt, 0, 0⟩
def wDisp (p : Option Park) : State := { wSl fun x => { x with park := p } with mem := mputs w0.mem 0x9000 [1] }
theorem witness_DispositionSteps : (∀ p ∈ [none, some (parkedBy 4 0 2 0 0), some (parkedBy 4 0 4 0 0), some (parkedBy 19 0 2 0 0), some (parkedBy 7 1 1 1 0x9008)],
      (wDisp p).item? 0 ((wDisp p).threadItem 0 0) = some (.thread 0 0) ∧ ((wDisp p).slotAt 0 0).task = some placedTask ∧ ((wDisp p).slotAt 0 0).park = p
      ∧ ((wDisp p).slotAt 0 0).group = none ∧ ((wDisp p).slotAt 0 0).token = none ∧ ((wDisp p).slotAt 0 0).wait = none ∧ (wDisp p).slotHarp 0 0 = none ∧ (wDisp p).item? 0 0x1FFF = none
      ∧ (∀ e ∈ (wDisp p).cores, (∀ j : Fin 8, (e.2.chans.get j).queue = []) ∧ ∀ u : Fin 4, (e.2.slots.get u).token = none))
    ∧ recCtask placedTask.record = 0 ∧ placedTask.ctx = 0 ∧ (0x9008 : Word).toNat / 2 ^ (12 + 9 * 0) = (0x9000 : Word).toNat / 2 ^ (12 + 9 * 0) := by decide +kernel
theorem witness_DispositionSteps_copy : let s := wEnds { copyN 0 false false (.arr 0) with park := some (parkedBy 14 1 2 0 0x9000) }
    s.item? 0 (s.copyItem 0 0 1) = some (.copy 0 0) ∧ ((s.coreAt 0).chans.get 0).queue = { copyN 0 false false (.arr 0) with park := some (parkedBy 14 1 2 0 0x9000) } :: [{ copy0 (.arr 0) with started := false }]
    ∧ ({ copyN 0 false false (.arr 0) with park := some (parkedBy 14 1 2 0 0x9000) } : Copy).park ≠ none := by decide +kernel
theorem witness_DispositionSteps_reload : ∃ y l, (wDisp none).ctx? 0 = some y ∧ (wDisp none).vread 0 (y.desc.get 5) 1040 = .ok l := ⟨_, _, rfl, ok_of rfl⟩
/-- The context's debug page claimed, and the thread halted by a breakpoint, or not. -/
def wDbg (h : Option Halt) (task : Option Task) : State := wCtx (fun x => { x with debug := some DebugPage.clear }) (wSl fun x => { x with halt := h, task := task })
theorem witness_DebugCommands : w0.fw.boot = .ready ∧ w0.ctx? 5 = none ∧ (w0.ctx? 0).map (·.debug) = some none ∧ w0.physOf 9 = none
    ∧ ∀ h ∈ [none, some ⟨1, 0⟩, some ⟨2, 7⟩], ∀ t ∈ [none, some placedTask], (wDbg h t).physOf 0 = some 0 ∧ ((wDbg h t).coreAt 0).ctx = some 0
      ∧ (wDbg h t).ctx? 0 = some { Context.fresh placedDesc with debug := some DebugPage.clear } ∧ ((wDbg h t).slotAt 0 0).halt = h ∧ ((wDbg h t).slotAt 0 0).task = t
      ∧ ((wDbg h t).slotAt 0 0).group = none ∧ ((wDbg h t).slotAt 0 0).wait = none ∧ ((wDbg h t).slotAt 0 0).remote = none ∧ (wDbg h t).fw.boot = .ready := by decide +kernel
theorem witness_DebugWindows : (wDbg none none).fw.boot = .ready ∧ 0xF800002000001 % 8 ≠ 0 ∧ 0xF800001FFFFF8 < 0xF800002000000 ∧ (wDbg none none).ctx? 15 = none ∧ (wDbg none none).physOf (BitVec.ofNat 13 0) = some 0
    ∧ ((wDbg none none).coreAt 0).ctx = some 0 ∧ ((wDbg none none).ctx? 0).map (·.debug) = some (some DebugPage.clear) ∧ ((wDbg none none).slotAt 0 0).task = none
    ∧ ((wDbg none (some placedTask)).slotAt 0 0).halt = none ∧ ((wDbg (some ⟨1, 0⟩) (some placedTask)).slotAt 0 0).task ≠ none ∧ ((wDbg (some ⟨1, 0⟩) (some placedTask)).slotAt 0 0).halt ≠ none := by
  decide +kernel
/-- A halted thread in a wait; a halted follower. -/
def wDbgWait : State := (wDbg (some ⟨1, 0⟩) (some placedTask)).setSlot 0 0 { (wDbg (some ⟨1, 0⟩) (some placedTask)).slotAt 0 0 with wait := some (w0.newWait (.join .cap) .cap 1) }
def wDbgFollow : State := (wDbg (some ⟨1, 0⟩) (some placedTask)).setSlot 0 0 { (wDbg (some ⟨1, 0⟩) (some placedTask)).slotAt 0 0 with group := some (.follower 1 0 1 true) }
theorem witness_DebugWindows_wait : (wDbgWait.slotAt 0 0).wait ≠ none ∧ (wDbgWait.slotAt 0 0).task ≠ none ∧ (wDbgWait.slotAt 0 0).halt ≠ none ∧ (wDbgFollow.slotAt 0 0).group = some (.follower 1 0 1 true)
    ∧ (wDbgFollow.slotAt 0 0).halt = some ⟨1, 0⟩ ∧ (wDbgFollow.coreAt 0).ctx = some 0 := by decide +kernel
/-- A unit placed where the next issue cycle of core 0 fetches: each way it may read. -/
def wUnit (a b : Nat) : State := State.reset.placeUnit (a, b)
def issues (s : State) : Bool :=
  let cands := fourSlots.filter fun t => (1 : BitVec 4).getLsbD t.val && s.ready? 0 t && !s.slotAnnulled 0 t
  let s1 : State := { s with curCore := 0, curSlot := 0, late := false }
  cands == [0] && decide (s.chooseSlot 0 [0] = some 0) && !s1.sl.parkAsked && !s1.sl.overrun && s1.sl.reload.isNone && s1.breakHit.isNone && s1.sl.misTarget.isNone
    && s1.sl.group.isNone && decide ((s1.translate s1.curCtx s1.th.priv s1.th.pc needX).toOption = some (none, 0x8000))
def readAs (s : State) : UnitRead := readUnit (s.field 0x8000 4) (s.field 0x8004 4)
theorem witness_StepRunsDecoded : (∀ u ∈ [(0x8F200000, 0xDEADBEEF), (0x02400003, 0), (0, 0x38220004), (0x11110004, 0x38220004), (0x80000000, 0)],
      (wUnit u.1 u.2).endDue = none ∧ (wUnit u.1 u.2).agenda = .issue 0 1 false :: [] ∧ issues { wUnit u.1 u.2 with agenda := [] } = true)
    ∧ readAs (wUnit 0x8F200000 0xDEADBEEF) = .lone (some (.ldi 2 0xDEADBEEF)) ∧ readAs (wUnit 0x02400003 0) = .pair (some (.bc 1 3)) (some .nopA)
    ∧ readAs (wUnit 0 0x38220004) = .pair (some .nopC) (some (.addiA 1 1 4)) ∧ readAs (wUnit 0x11110004 0x38220004) = .pair (some (.addiC 1 1 4)) (some (.addiA 1 1 4))
    ∧ readAs (wUnit 0x80000000 0) = .classFault ∧ w0.pairFault (some (.bc 1 3)) (some .nopA) = none := by decide +kernel
/-- A pair whose slots write different registers raises no fault at its issue. -/
theorem witness_StepRunsDecoded_pair : w0.pairFault (some .nopC) (some (.addiA 1 1 4)) = none ∧ w0.pairFault (some (.addiC 2 1 4)) (some (.addiA 1 1 4)) = none := by decide +kernel
/-- No interval has ended before its instant; at its instant one has. -/
theorem witness_StepRunsDecoded_time : w0.fw.boot = .ready ∧ (∀ d < 4, w0.instant.toNat ≤ 5000 * ((w0.dieAt d).interval + 1)) ∧ ({ w0 with instant := 5000 } : State).endDue = some 0 := by decide +kernel
theorem witness_StepRunsDecoded_attempt : ((wAmo none).slotAt 0 0).wait = some (w0.newWait (.amoAdd 1 2 3 .d .dev .cap) .cap 1) ∧ (wAmo none).slotAnnulled 0 0 = false
    ∧ ((wAmo none).slotAt 0 0).overrun = false := by decide +kernel
theorem witness_EncodingRoundTrip : (Instr.addiC 15 1 0xFFFF).wf = true ∧ (Instr.addiA 1 15 4).wf = true ∧ (Instr.ldi 2 0xDEADBEEF).wf = true ∧ Instr.correctedError.wf = true := by decide +kernel
theorem witness_MemoryStaysCanonical : ∃ t, { w0 with agenda := [.hw .correctedError] }.memWf = true ∧ step { w0 with agenda := [.hw .correctedError] } = .next t := ⟨_, rfl, rfl⟩
theorem witness_ASlotFrame : wG.Plain ∧ encodeParts (.addiA 1 2 4) = .a 0x38240004 ∧ Instr.addiA 1 2 4 ≠ .udfa ∧ ∀ x h0 h1 h2, Instr.addiA 1 2 4 ≠ .dxa x h0 h1 h2 :=
  ⟨plain_wTh _, by decide, by decide, fun _ _ _ _ => nofun⟩
theorem witness_FixedOpcodes : w0.Plain ∧ 0x00FFFFFF / 2 ^ 24 % 128 = 0 ∧ 0x7FFFFFFF / 2 ^ 24 % 128 = 0x7F ∧ 0x80000000 / 2 ^ 31 % 2 = 1 ∧ 0x01FFFFFF / 2 ^ 25 % 128 = 0 := ⟨plain_w0, by decide⟩
theorem witness_SelectByPredicate : w0.Plain ∧ 15 < 16 ∧ 3 < 4 := ⟨plain_w0, by decide⟩

/-! ### Further forms -/

/-- Sync slot 3 a proxy of the device object at 0x9000, with answers late. -/
def wProxyLate : State := wLate (wSync.setCo { wSync.co with sync := tset wSync.co.sync 3 (0xC000000000000000, 0x9000) })
theorem witness_CollectiveAcceptance_walk : wProxyLate.Plain ∧ wProxyLate.spec = false ∧ wProxyLate.engineVa wProxyLate.issuer (cof 6).boff = some 0x9000 ∧ ¬wProxyLate.quick 0x9000 ∧ wProxyLate.mayWait (cof 6).ds :=
  ⟨⟨rfl, rfl, rfl, rfl, rfl⟩, rfl, by decide +kernel, by unfold State.quick; decide +kernel, by unfold State.mayWait; decide +kernel⟩
theorem witness_CollectiveRun_gone : wPath.accepts 0 9 0 = true := by decide +kernel
/-- The lease held with answers late; formats of no class for a stream; weights of each class with the scales where they must be, and not. -/
theorem witness_HarpCommands_forms : (wLate wLease).Plain ∧ (wLate wLease).spec = false ∧ ((wLate wLease).clusterAt 0).harp.lease = some (leaseOf 0 31 0) ∧ (leaseOf 0 31 0).core = (wLate wLease).curCore
    ∧ (∀ q ∈ ((wLate wLease).clusterAt 0).harp.claims, ¬(q.core = 0 ∧ q.slot = 0))
    ∧ (wLate wLease).missing (pageVas ((wLate wLease).g 5) 65536) = true ∧ wLease.missing (pageVas (wLease.g 5) 65536) = false ∧ (wLate wLease).mayWait .cap
    ∧ (∃ ps, wLease.pinPages wLease.curCtx wLease.th.priv (wLease.g 5) 131072 needR = .ok ps)
    ∧ (∃ e, wLease.pinPages wLease.curCtx wLease.th.priv 0x3FFFFFFFFFFF 131072 needR = .error e)
    ∧ macFmt 8 (wLease.clusterAt 0).harp.planeFmts.1 wLease.co.fmtc = none ∧ ((wLease.clusterAt 0).harp.queue.map (·.cycles)).sum + (512 + 2 * 64) ≤ 4096 :=
  ⟨⟨rfl, rfl, rfl, rfl, rfl⟩, rfl, rfl, rfl, by decide +kernel, by decide +kernel, by decide +kernel, by unfold State.mayWait; decide +kernel, ⟨_, ok_of rfl⟩, ⟨_, rfl⟩, by decide +kernel, by decide +kernel⟩
/-- Three claims of the harp: the later one of a higher PRIO, and of two at one instant the one of the lower core first. -/
def claimAt (core : Nat) (prio : BitVec 2) (at_ : Word) : HarpClaim := ⟨core, 0, 7 + core, 0, prio, at_⟩
def wClaims : State := wTurn (fun h => { h with claims := [claimAt 2 3 9, claimAt 3 1 5, claimAt 1 1 5], lastCtx := some 0 }) 9
theorem witness_HarpTurns_order : (wClaims.clusterAt 0).harp.lease = none ∧ (wClaims.clusterAt 0).harp.disabled.length ≤ 8 ∧ (wClaims.clusterAt 0).harp.claims = [claimAt 2 3 9, claimAt 3 1 5, claimAt 1 1 5]
    ∧ (∀ y ∈ [claimAt 2 3 9, claimAt 3 1 5, claimAt 1 1 5], y.core < 8192) ∧ (wClaims.clusterAt 0).harp.lastCtx = some 0 ∧ (wClaims.slotAt 1 0).task = none
    ∧ ∀ y ∈ [claimAt 2 3 9, claimAt 3 1 5, claimAt 1 1 5], y ≠ claimAt 1 1 5 →
      (claimAt 1 1 5).at_ < y.at_ ∨ ((claimAt 1 1 5).at_ = y.at_ ∧ (y.prio < (claimAt 1 1 5).prio ∨ ((claimAt 1 1 5).prio = y.prio ∧ (claimAt 1 1 5).core < y.core))) := by decide +kernel
/-- The thread of a claim that waits: its lineage alive, and annulled. -/
theorem witness_PowerSteps_annulled : wBoostQ.slotAnnulled 0 0 = false ∧ (wBoostQ.setLineage 0 0 { Lineage.root with state := .annulled }).slotAnnulled 0 0 = true
    ∧ ((wBoostQ.setLineage 0 0 { Lineage.root with state := .annulled }).dieAt 0).boostQ = [⟨0, 0, 2, 0⟩] := by decide +kernel
/-- A speculative task of a supervisor, and an image in the context's control page, which a leaf maps at 2^30. -/
def wWindow : State :=
  { (wSl fun x => { x with task := some { placedTask with kind := .plain, spec := true }, thread := { x.thread with g := gs.set 4 0x40000000 } }) with
    mem := mputs w0.mem 0x3008 (leBytes 8 0x000F00000000005F) }
theorem witness_DictionaryLoads_window : wWindow.Plain ∧ wWindow.spec = true ∧ wWindow.late = false ∧ wWindow.mayWait .cap :=
  ⟨⟨rfl, rfl, rfl, rfl, rfl⟩, rfl, rfl, by unfold State.mayWait; decide +kernel⟩
theorem witness_DictionaryLoads_range : let va := wWindow.cgVa ⟨4, .cap, 0⟩ &&& ~~~63#64
    (∃ all, wWindow.imageRange va (64 + wWindow.imageTail va) = .ok all ∧ ∃ x ∈ all, x.1 = none ∧ isWindow x.2 = true)
    ∧ wWindow.watchHit va.toNat (64 + wWindow.imageTail va) true false = none := by
  have h : (match wWindow.imageRange (wWindow.cgVa ⟨4, .cap, 0⟩ &&& ~~~63#64) (64 + wWindow.imageTail (wWindow.cgVa ⟨4, .cap, 0⟩ &&& ~~~63#64)) with
    | .ok l => l.any fun x => x.1 == none && isWindow x.2 | .error _ => false) = true := by decide +kernel
  refine ⟨?_, by decide +kernel⟩
  split at h
  · next l hl =>
    obtain ⟨x, hx, hy⟩ := List.any_eq_true.mp h
    rw [Bool.and_eq_true, beq_iff_eq] at hy
    exact ⟨l, hl, x, hx, hy⟩
  · exact nomatch h
/-- Entries with holes: an `addi` of either slot filled with registers 3 and 2, and one whose class is none. -/
def filledBy (e : DictEntry) (gs : List Nat) (x : Nat) : Bool :=
  (List.range 64).all fun j => x.testBit j == (([2, 1, 0].findSome? fun k =>
    let hole := e.desc.toNat / 2 ^ (9 * k) % 512
    if hole % 64 ≤ j ∧ j < hole % 64 + hole / 64 then some ((gs.getD k 0).testBit (j - hole % 64)) else none).getD (e.template.getLsbD j))
theorem witness_Expansion_filled : filledBy ⟨0x11000004, 0x80022114⟩ [3, 2, 0] 0x11320004 = true ∧ decodeC 0x11320004 0 = some (.addiC 3 2 4) ∧ loneC 0x11 = false
    ∧ filledBy ⟨0x38000004, 0xC0022315⟩ [3, 2, 0] 0x38640004 = true ∧ decodeA 0x38640004 = some (.addiA 3 2 4) ∧ 0x38640004 / 2 ^ 25 % 128 ≠ 0x7F
    ∧ filledBy ⟨0x1000F000000, 0xA0034114⟩ [3, 5, 0] 0x1050F300000 = true ∧ loneC (0x1050F300000 / 2 ^ 24 % 128) = true
    ∧ filledBy ⟨0, 0xE0000000⟩ [0, 0, 0] 0 = true ∧ (0xE0000000 : BitVec 32).toNat / 2 ^ 29 % 4 = 3 ∧ filledBy ⟨0xFF, 0x80000000⟩ [0, 0, 0] 0xFF = true := by decide +kernel

/-- The same budget overrun, of a task whose lineage is annulled. -/
theorem witness_TimedSteps_annulled : (∀ b < 6, (wOver b).annulled placedTask.ctx ((wOver b).slotAt 0 0).thread.lid = false)
    ∧ ((wOver 1).setLineage 0 0 { Lineage.root with state := .annulled }).annulled placedTask.ctx (((wOver 1).setLineage 0 0 { Lineage.root with state := .annulled }).slotAt 0 0).thread.lid = true := by
  decide +kernel
/-- A thread in `bar.wait` on a device object, and one whose arrival at it is still to be taken, under the park action. -/
def wBarSoft (i : Instr) (q : Option Remote) : State :=
  wAct 2 (wSl fun x => { x with remote := q, wait := some { w0.newWait i .cap 1 with obj := some (.dev 0x9000 false) } })
theorem witness_SoftErrors_barriers : let o : CqAddr := ⟨0, true, .cap, .dev, 0⟩
    (∀ s ∈ [wBarSoft (.barWait 3 o) none, wBarSoft (.barArrive 3 o) (some ⟨.barArrive (.dev 0x9000 false), none⟩)],
      (s.slotAt 0 0).task = some placedTask ∧ (s.slotAt 0 0).newPc = none ∧ s.actionOf placedTask.ctx 23 = 2)
    ∧ ((wBarSoft (.barWait 3 o) none).slotAt 0 0).wait = some { w0.newWait (.barWait 3 o) .cap 1 with obj := some (.dev 0x9000 false) }
    ∧ ((wBarSoft (.barWait 3 o) none).slotAt 0 0).remote = none
    ∧ ((wBarSoft (.barArrive 3 o) (some ⟨.barArrive (.dev 0x9000 false), none⟩)).slotAt 0 0).remote = some ⟨.barArrive (.dev 0x9000 false), none⟩ ∧ placedTask.ordinary = true := by decide +kernel
/-- R250's example: slots 0 and 1 of PRIO 3, slot 2 of PRIO 0 and slot 3 of PRIO 1, with the counts given and the slot of PRIO 3 that issued last. -/
def wPrio (h2 h3 : BitVec 3) (last : Fin 4) : State :=
  let t (p : BitVec 2) (h : BitVec 3) : Slot := { Slot.reset with task := some { placedTask with kind := .plain, prio := p }, hp := h }
  wCo fun x => { x with slots := #v[t 3 0, t 3 0, t 0 h2, t 1 h3], lastIssued := x.lastIssued.set 3 last }
/-- Its cycles 1, 2, 5, 6, 10 and 11. -/
theorem witness_StepRunsDecoded_chooses : (wPrio 0 0 3).Chooses 0 fourSlots 0 ∧ (wPrio 1 1 0).Chooses 0 fourSlots 1 ∧ (wPrio 4 4 1).Chooses 0 fourSlots 2 ∧ (wPrio 0 4 1).Chooses 0 fourSlots 3
    ∧ (wPrio 4 3 0).Chooses 0 fourSlots 2 ∧ (wPrio 0 4 0).Chooses 0 [0, 1, 2] 1 := by
  refine ⟨?_, ?_, ?_, ?_, ?_, ?_⟩ <;> dsimp only [State.Chooses] <;> decide +kernel
/-- Descriptors that end past device memory, and of a SIZE that is no power of two. -/
theorem witness_QueueMapping_refused : (0x8000000000 < 0x7FFFFFFFC1 + 64) ∧ (wDescr 17 16 0 0 0 0 [] none).queueAt 0 5 = none ∧ (wDescr 17 16 0 0 0 0 [] none).fw.boot = .ready
    ∧ (wDescr 17 16 0 0 0 0 [] none).field 0x10008 4 = 17 ∧ ∀ i, 17 ≠ 2 ^ i := by
  refine ⟨by decide, by decide +kernel, rfl, by decide +kernel, fun i h => ?_⟩
  cases i with
  | zero => exact absurd h (by decide)
  | succ i => rw [Nat.pow_succ] at h; omega
theorem witness_QueueMapping_closing : (wDescr 16 16 17 1 0 0 [] (some { queue0 with resetting := true })).queueAt 0 5 = some { queue0 with resetting := true } ∧ ({ queue0 with events := [7] } : HostQueue).events ≠ [] := by
  decide +kernel
/-- The record of a stopped queue, of a parked one, and of a parked one that closes and whose lineage lives. -/
theorem witness_QueueCommands_parked : ∀ h ∈ [{ queueC with stopped := true }, { queueC with parked := true }, { queueC with parked := true, closing := true }],
    (wCmd (cmd 1 1 0 0 9 0) [(4, mirror0)]).annulled 0 4 = false ∧ ({ h with cur := some ⟨4, 1, false⟩ } : HostQueue).cur = some ⟨4, 1, false⟩
    ∧ (wDescr 16 16 1 0 0 0 (cmd 1 1 0 0 9 0) (some { h with cur := some ⟨4, 1, false⟩ })).queueAt 0 5 = some { h with cur := some ⟨4, 1, false⟩ } := by decide +kernel
/-- A full event ring; a parked queue. -/
theorem witness_QueueParking : (wDescr 16 16 1 0 3 19 [] (some queueC)).queueAt 0 5 = some queueC ∧ (wDescr 16 16 1 0 3 19 [] (some queueC)).ringFull queueC
    ∧ (wDescr 16 16 1 0 0 0 [] (some { queueC with parked := true })).queueAt 0 5 = some { queueC with parked := true } := by
  refine ⟨by decide +kernel, ?_, by decide +kernel⟩
  unfold State.ringFull; decide +kernel
/-- The one queue of context 5, which is resident nowhere, and of context 0, of which core 1 alone is resident. -/
def wParkIn : State :=
  let s := (wDescr 16 16 17 1 0 0 [] (some { queue0 with qctx := 5, parked := true })).setCore 1 Core.reset
  { s with contexts := tset s.contexts 5 (Context.fresh placedDesc) }
def wParkOut : State :=
  let s := wDescr 16 16 17 1 0 0 [] (some queue0)
  let s := wCtx (fun x => { x with desc := x.desc.set 11 0 }) s
  { s with cores := [(1, { Core.reset with ctx := some 0 })] }
theorem sole_one {s : State} {k d q : Nat} {h : HostQueue} (hq : s.queueAt d q = some h) (hk : h.qctx = k) (ha : s.dies.all (fun e => e.2.queues.all fun p => e.1 == d && p.1 == q) = true) :
    s.soleQueue k d q h := by
  refine ⟨hq, hk, fun e he p hp _ => ?_⟩
  have := List.all_eq_true.mp (List.all_eq_true.mp ha e he) p hp
  rw [Bool.and_eq_true, beq_iff_eq, beq_iff_eq] at this
  exact this
theorem witness_QueueParking_in : wParkIn.fw.boot = .ready ∧ wParkIn.physOf (BitVec.ofNat 13 1) = some 1 ∧ wParkIn.logOf? 1 = some 1 ∧ (wParkIn.coreAt 1).switches = []
    ∧ (∀ t : Fin 4, ((wParkIn.coreAt 1).slots.get t).task = none ∧ ((wParkIn.coreAt 1).slots.get t).wait = none) ∧ (wParkIn.coreAt 1).ctx = none
    ∧ wParkIn.ctx? 5 = some (Context.fresh placedDesc) ∧ tget wParkIn.cores (savedNum 5 (BitVec.ofNat 13 1)) = none ∧ wParkIn.residentSomewhere 5 = false ∧ wParkIn.memWf = true := by decide +kernel
theorem witness_QueueParking_sole : wParkIn.soleQueue 5 0 5 { queue0 with qctx := 5, parked := true } ∧ wParkOut.soleQueue 0 0 5 queue0 :=
  ⟨sole_one (by decide +kernel) rfl (by decide +kernel), sole_one (by decide +kernel) rfl (by decide +kernel)⟩
theorem start_quiet (g : Gran) : wParkOut.unread g none := unread_of (by decide +kernel) rfl _ _
theorem park_in_quiet (g : Gran) : wParkIn.unread g none := unread_of (by decide +kernel) rfl _ _
theorem witness_QueueParking_out : wParkOut.fw.boot = .ready ∧ wParkOut.physOf (BitVec.ofNat 13 1) = some 1 ∧ wParkOut.logOf? 1 = some 1 ∧ (wParkOut.coreAt 1).switches = []
    ∧ (∀ t : Fin 4, ((wParkOut.coreAt 1).slots.get t).task = none ∧ ((wParkOut.coreAt 1).slots.get t).wait = none) ∧ (wParkOut.coreAt 1).ctx = some 0
    ∧ (wParkOut.cores.map (·.1)).Pairwise (· < ·) ∧ (∀ e ∈ wParkOut.cores, e.1 < 8192 → e.2.ctx = some 0 → e.1 = 1) ∧ (wParkOut.coreAt 1).cmu = []
    ∧ (wParkOut.clusterAt (clusterOf 1)).harp.queue = [] ∧ (wParkOut.clusterAt (clusterOf 1)).harp.lease = none ∧ queue0.parked = false ∧ wParkOut.memWf = true := by decide +kernel

/-- Where nobody reads and no package moves, a write aborts nothing. -/
theorem abort_quiet {s : State} (h : quietCores s.cores = true) (ht : s.transit = []) (hits : Nat → Gran → Bool) (w : Option (Nat × Fin 4)) : s.abortWhere hits w = s := by
  have h1 : (s.cores.flatMap fun e => ([0, 1, 2, 3] : List (Fin 4)).filterMap fun t => let sl := e.2.slots.get t
      match sl.task with
      | some k => if sl.rs.any (hits k.ctx) && some (e.1, t) != w then some (e.1, t) else none
      | none => none) = [] := by
    rw [List.flatMap_eq_nil_iff]
    intro e he
    rw [List.filterMap_eq_nil_iff]
    intro t _
    have hr : (e.2.slots.get t).rs = [] := by
      have hx := (Bool.and_eq_true_iff.mp (List.all_eq_true.mp h e he)).1
      exact List.isEmpty_iff.mp (List.all_eq_true.mp hx _ (by simp [Vector.get, Vector.toList]))
    dsimp only
    split
    · rw [hr]; rfl
    · rfl
  have h2 : (s.cores.flatMap fun e => e.2.inbox.filterMap fun q => match q.2.entry with
      | .package _ id (some pk) => if pk.rs.any (hits pk.task.ctx) then some (e.1, id, pk) else none
      | _ => none) = [] := by
    rw [List.flatMap_eq_nil_iff]
    intro e he
    rw [List.isEmpty_iff.mp (Bool.and_eq_true_iff.mp (List.all_eq_true.mp h e he)).2]
    rfl
  unfold State.abortWhere
  extract_lets slots s1 pks s2 gone
  have e1 : s1 = s := by show List.foldl _ s slots = s; rw [show slots = [] from h1]; rfl
  have e2 : s2 = s := by show List.foldl _ s1 pks = s; rw [show pks = [] from by show List.flatMap _ s1.cores = []; rw [e1]; exact h2, e1]; rfl
  have e3 : gone = [] := by show List.filter _ s2.transit = []; rw [e2, ht]; rfl
  rw [e3, e2]
  rfl
theorem putByte_gran (l : List GranStore) (a : Option Nat × Nat) (b : Byte) (P : Gran → Prop) (hl : ∀ e ∈ l, P e.gran) (ha : P (granOf a)) : ∀ e ∈ putByte l a b, P e.gran := by
  unfold putByte
  dsimp only
  split
  · intro e he
    obtain ⟨x, hx, rfl⟩ := List.mem_map.mp he
    split
    · exact hl x hx
    · exact hl x hx
  · intro e he
    rcases List.mem_append.mp he with h | h
    · exact hl e h
    · rw [List.mem_singleton.mp h]; exact ha
theorem writes_quiet (l : List GranStore) (ctx : Nat) (hl : ∀ e ∈ l, e.gran.peer = none ∧ isWindow (64 * e.gran.num) = false) :
    ∀ s : State, quietCores s.cores = true → s.transit = [] → ∃ m p, l.foldl (fun s (e : GranStore) =>
      match e.gran.peer with
      | some p => { s with sent := s.sent ++ [PeerOut.item ctx p (.store e.gran.num e.bytes e.mask)] }.abortPeer ctx p e.gran.num none
      | none => if isWindow (64 * e.gran.num) then s.winGran ctx e.gran.num e.bytes e.mask else s.writeGran e.gran.num e.bytes e.mask none) s = { s with mem := m, places := p } := by
  induction l with
  | nil => exact fun s _ _ => ⟨_, _, rfl⟩
  | cons e r ih =>
    intro s hq ht
    obtain ⟨h1, h2⟩ := hl e (List.mem_cons_self ..)
    simp only [List.foldl_cons, h1, h2, Bool.false_eq_true, if_false]
    have hw : s.writeGran e.gran.num e.bytes e.mask none = { s with mem := mputGran s.mem e.gran.num e.bytes e.mask, places := s.places.filter fun x => x.1 != e.gran.num } :=
      abort_quiet (s := { s with mem := mputGran s.mem e.gran.num e.bytes e.mask, places := s.places.filter fun x => x.1 != e.gran.num }) hq ht (fun _ x => x == ⟨none, e.gran.num⟩) none
    rw [hw]
    exact ih (fun x hx => hl x (List.mem_cons_of_mem _ hx)) _ hq ht
theorem putBytes_gran (P : Gran → Prop) (z : List ((Option Nat × Nat) × Byte)) : ∀ g : List GranStore, (∀ e ∈ z, P (granOf e.1)) → (∀ e ∈ g, P e.gran) →
    ∀ e ∈ z.foldl (fun l e => putByte l e.1 e.2) g, P e.gran := by
  induction z with
  | nil => exact fun g _ hg => hg
  | cons e r ih => exact fun g hz hg => ih _ (fun x hx => hz x (List.mem_cons_of_mem _ hx)) (putByte_gran _ _ _ P hg (hz e (List.mem_cons_self ..)))
theorem putPhys_quiet {s : State} {ctx : Nat} {l : List (Option Nat × Nat)} {bytes : List Byte} (h : quietCores s.cores = true) (ht : s.transit = [])
    (hl : ∀ a ∈ l, a.1 = none ∧ isWindow (64 * (a.2 / 64)) = false) : ∃ m p, s.putPhys ctx l bytes = { s with mem := m, places := p } := by
  have hz : ∀ e ∈ l.zip bytes, (granOf e.1).peer = none ∧ isWindow (64 * (granOf e.1).num) = false := fun e he => by
    have := hl e.1 (List.of_mem_zip he).1
    rw [granOf]; exact this
  unfold State.putPhys
  exact writes_quiet _ ctx (putBytes_gran (fun q => q.peer = none ∧ isWindow (64 * q.num) = false) (l.zip bytes) [] hz fun e he => absurd he List.not_mem_nil) s h ht
theorem vwrite_quiet {s : State} {ctx n : Nat} {va : Word} {f : Nat → Byte} (hq : quietCores s.cores = true) (ht : s.transit = [])
    (h : (match s.translateRange ctx 1 va n needW with
      | .ok ps => ps.all fun p => p.1 == none && decide (p.2.1 + p.2.2 < 0xF000000000000) | .error _ => false) = true) :
    ∃ s', s.vwrite ctx va ((List.range n).map f) = .ok s' ∧ s' = { s with mem := s'.mem, places := s'.places } := by
  unfold State.vwrite
  rw [List.length_map, List.length_range]
  split at h
  · next ps hp =>
    rw [hp]
    have hl : ∀ a ∈ byteList ps, a.1 = none ∧ isWindow (64 * (a.2 / 64)) = false := by
      intro a ha
      simp only [byteList, List.mem_flatMap, List.mem_map, List.mem_range] at ha
      obtain ⟨p, hpm, i, hi, rfl⟩ := ha
      have := List.all_eq_true.mp h p hpm
      rw [Bool.and_eq_true, beq_iff_eq, decide_eq_true_eq] at this
      refine ⟨this.1, decide_eq_false ?_⟩
      have := this.2
      dsimp only
      omega
    obtain ⟨m, q, hm⟩ := putPhys_quiet (s := s.walkedOver ctx va n) (ctx := ctx) (l := byteList ps) (bytes := (List.range n).map f) hq ht hl
    exact ⟨_, rfl, by rw [hm]; rfl⟩
  · exact nomatch h
theorem witness_QueueParking_save : ∃ s', wParkOut.vwrite 0 (wParkOut.saveArea 0 (BitVec.ofNat 13 1)) ((List.range 0x28000).map fun i => wParkOut.imageAt 1 i) = .ok s'
    ∧ s' = { wParkOut with mem := s'.mem, places := s'.places } := vwrite_quiet (by decide +kernel) rfl (by decide +kernel)

/-- INLDEPTH of 9 in a descriptor; a pointer that leads where nothing is mapped; an invalidation with nothing under way. -/
theorem witness_ControlPage_depth : let d := kdesc 0x8000 0xC000 0x8000 0x4000 (4 * 9)
    leNat ((d.drop 0x14).take 4) / 4 % 16 = 9 ∧ 8 < leNat ((d.drop 0x14).take 4) / 4 % 16 ∧ leNat (d.take 8) % 8 = 0 := by decide +kernel
def wKernBad : State := { wKern [] (some 1) 0x9000 with mem := mputs w0.mem 0x9000 (leBytes 8 0 ++ leBytes 8 0x3FFFFFFFF000) }
theorem witness_ControlPage_pointer : ∃ x l e, wKernBad.ctx? 0 = some x ∧ wKernBad.vread 0 (x.desc.get 1 + 8 * (1 : BitVec 16).setWidth 64) 8 = .ok l
    ∧ wKernBad.vread 0 (w64 (leNat l)) 64 = .error e := ⟨_, _, _, rfl, ok_of rfl, rfl⟩
theorem witness_ControlPage_settled : (wShare.ctx? 0).map (·.ipend) = some [32] ∧ wShare.op = [] ∧ wShare.lq = [] ∧ wShare.colls = [] ∧ (∀ c ∈ wShare.clusters, c.2.harp.queue = [])
    ∧ ∀ c ∈ wShare.cores, ∀ t : Fin 4, (c.2.slots.get t).cb = [] ∧ (c.2.slots.get t).objects = [] := by decide +kernel
/-- A parked plain task of lineage `lid` whose record, lineage and context have the given CTASK, CANC, CLIN and CCTX, after some replays; its spawn
parent, thread 77, runs in slot 1. -/
def wKill (f0 f1 : Nat) (f2 : BitVec 2) (f3 : Byte) (retries : Nat) (lid : BitVec 20) (parent : Option Nat) : State :=
  let task : Task := { placedTask with id := 5, kind := .plain, record := mkRec 0 0 0 lid 0 0 (BitVec.ofNat 32 (0xD + 16 * f0 + 64 * f1)) 0 0 0 0, retries := retries }
  let s := wCtx (fun x => { x with actions := some (f3 :: List.replicate 1039 0) })
    (wSl fun x => { x with task := some task, park := some (parkedBy 4 0 2 0 0), thread := { x.thread with lid := lid, parent := parent, tid := 5 } })
  let y : Lineage := if lid = 0 then { Lineage.root with clin := f2, live := 1 } else ⟨500, some 0, f2, 1, .live, none, [], none, none⟩
  (s.setLineage 0 lid y).setSlot 0 1 { Slot.reset with task := some { placedTask with id := 77 }, thread := { w0.th with tid := 77 } }
def killCases : List State :=
  (List.range 16).flatMap fun n => [(0, (0 : BitVec 20), (some 77 : Option Nat)), (2, 4, some 77), (3, 4, none), (3, 0, some 78)].map fun e => wKill (n / 4) (n % 4) 3 3 e.1 e.2.1 e.2.2
theorem witness_Containment : ∀ s ∈ killCases, s.item? 0 (s.threadItem 0 0) = some (.thread 0 0) ∧ (s.slotAt 0 0).park = some (parkedBy 4 0 2 0 0) ∧ (s.slotAt 0 0).group = none
    ∧ (s.slotAt 0 0).wait = none ∧ (s.slotAt 0 1).group = none ∧ ((s.slotAt 0 0).task.map fun t => (t.kind, t.ctx)) = some (.plain, 0)
    ∧ ((s.ctx? 0).map (·.actions)) = some (some ((3 : Byte) :: List.replicate 1039 0)) := by decide +kernel
theorem witness_Containment_fields : (killCases.map fun s => (s.slotAt 0 0).task.map fun t => (recCtask t.record, recCanc t.record, t.retries))
      = (List.range 16).flatMap fun n => [0, 2, 3, 3].map fun r => some (BitVec.ofNat 2 (n / 4), BitVec.ofNat 2 (n % 4), r) := by decide +kernel
theorem witness_Containment_units : (killCases.map fun s => ((s.slotAt 0 0).thread.lid, (s.lineage? 0 (s.slotAt 0 0).thread.lid).map (·.clin), (s.slotAt 0 0).parent.bind s.findThread))
      = (List.range 16).flatMap fun _ => [(0, some 3, some (0, 1)), (4, some 3, some (0, 1)), (4, some 3, none), (0, some 3, none)] := by decide +kernel
/-- The values of CLIN and CCTX that decide at their levels. -/
theorem witness_Containment_upper : ∀ f2 < 4, ∀ f3 < 4, let s := wKill 3 3 (BitVec.ofNat 2 f2) (BitVec.ofNat 8 f3) 0 4 none
    (s.lineage? 0 4).map (·.clin) = some (BitVec.ofNat 2 f2) ∧ (((s.ctx? 0).bind (·.actions)).map fun l => leNat (l.take 1)) = some f3 := by decide +kernel
/-- A fault-record task of a first fault, before its first unit, and one of a double fault. -/
def wNested (cause : Nat) : State :=
  wSl fun x => { x with task := some { placedTask with kind := .supervisor true none, firstDone := false, record := mkRec 0 0 0 0 0 0 0xD (w64 (cause * 2 ^ 58)) 0 0 9 } }
theorem witness_DoubleFaults : ∀ cause ∈ [4, 20], (wNested cause).Plain
    ∧ (∃ k e, (wNested cause).sl.task = some k ∧ k.kind = .supervisor true e ∧ k.firstDone = false ∧ (recArg k.record 0).toNat / 2 ^ 58 = cause) := by
  intro cause h
  simp only [List.mem_cons, List.not_mem_nil, or_false] at h
  rcases h with rfl | rfl <;> exact ⟨⟨rfl, rfl, rfl, rfl, rfl⟩, _, _, rfl, rfl, rfl, by decide +kernel⟩
/-- A fault record on the privileged queue of core 0, whose kernel, handle 7, is not loaded. -/
def wPriv (cause : Nat) : State := { wStart [] [] with priv := [⟨9, 0, 0, mkRec 7 0 0 0 0 0 0xD (w64 (cause * 2 ^ 58)) 0 0 9, none, .thread 0 0, 0, false⟩] }
theorem witness_DoubleFaults_start : ∀ cause ∈ [4, 20], (((wPriv cause).coreAt 0).ctx = some 0 ∧ ((wPriv cause).slotAt 0 1).task = none ∧ ((wPriv cause).slotAt 0 1).reserved = none
      ∧ ((wPriv cause).coreAt 0).server = false ∧ ((wPriv cause).coreAt 0).switches = []) ∧ (wPriv cause).privFor 0 = (wPriv cause).priv.head?
    ∧ (((wPriv cause).ctx? 0).map fun x => tget x.kernels 7) = some none ∧ ((wPriv cause).priv.map fun r => (recArg r.record 0).toNat / 2 ^ 58) = [cause] := by decide +kernel
theorem witness_DoubleFaults_unannulled (cause : Nat) : (wPriv cause).unannulled 0 := by
  have h : ((wPriv cause).coreAt 0).inbox = [] ∧ ((wPriv cause).coreAt 0).deque = [] ∧ ((wPriv cause).coreAt 0).rerun = [] ∧ ((wPriv cause).coreAt 0).delegQ = [] := ⟨rfl, rfl, rfl, rfl⟩
  rw [State.unannulled, h.1, h.2.1, h.2.2.1, h.2.2.2]
  exact ⟨fun _ h => absurd h List.not_mem_nil, fun _ h => absurd h List.not_mem_nil, fun _ h => absurd h List.not_mem_nil, fun _ h => absurd h List.not_mem_nil⟩
/-- A notice held for a context without a queue that asks for notices, and one in the events of a context's one queue. -/
theorem witness_DoubleFaults_notice : (∀ d ∈ (wNested 20).dies, ∀ q ∈ d.2.queues, q.2.qctx = 0 → q.2.notify = false) ∧ ((wNested 20).ctx? 0).map (·.notices.length) = some 0
    ∧ (wDescr 16 16 1 0 0 0 [] (some { queue0 with notify := true })).queueAt 0 5 = some { queue0 with notify := true } := by decide +kernel
/-- A claimed context with a halted package in flight, and a follower that runs a stepped unit. -/
def wDbgMore : State :=
  let s := (wDbg (some ⟨5, 0⟩) (some placedTask)).setSlot 0 1 { (wDbg none (some placedTask)).slotAt 0 0 with fwd := [{ fwd0 false none with stepped := true }] }
  { s with transit := [⟨w0.th, placedTask, [], 0, 0, [], 1, some ⟨5, 0⟩⟩] }
theorem witness_DebugCommands_packages : wDbgMore.fw.boot = .ready ∧ ((wDbgMore.ctx? 0).map fun x => decide (x.debug ≠ none)) = some true ∧ (wDbgMore.transit.map (·.halt)) = [some ⟨5, 0⟩]
    ∧ (wDbgMore.slotAt 0 0).halt = some ⟨5, 0⟩ ∧ (wDbgMore.slotAt 0 1).halt = none ∧ (wDbgMore.slotAt 0 1).task = some placedTask ∧ placedTask.ctx = 0
    ∧ ((wDbgMore.slotAt 0 1).fwd.map (·.stepped)) = [true] := by decide +kernel

/-! ## Well-formedness refuses what the encoding tables refuse -/

/-- R85, R86, R143: TY outside an instruction's class, in the C slot and in the scalar A forms. -/
theorem test_ill_formed_scalar : [Instr.cmp 0 1 2 .lt .f32, .add 3 1 2 .q4, .mulh 3 1 2 .zb, .mulhz 3 1 2 .f16, .div 3 1 2 .zw, .divz 3 1 2 .bf16, .shl 3 1 2 .f32, .clz 3 1 .e4m3,
      .min 3 1 2 .zh, .maxz 3 1 2 .q4, .fadd 3 1 2 .e4m3, .ffma 4 1 2 3 .w, .fsgn 3 1 2 .b, .fcmp 0 1 2 .e5m2 .lt, .fclass 3 1 .q4, .frcp 3 1 .d].all (fun i => !i.wf) = true := by decide
/-- R146 to R153: TY, FN, VC and the type pairs of the vector forms. -/
theorem test_ill_formed_vector : [Instr.vadd 0 1 2 ⟨0, false⟩ .f32 true, .vadd 0 1 2 ⟨0, false⟩ .d false, .vmin 0 1 2 ⟨0, false⟩ .w true, .vmul 0 1 2 ⟨0, false⟩ .e4m3, .vand 0 1 2 ⟨0, false⟩ .d,
      .vshl 0 1 2 ⟨0, false⟩ .f32, .vcmp 0 1 2 .uo ⟨0, false⟩ .w, .vcmp 0 1 2 .eq ⟨0, false⟩ .d, .vsel 0 1 2 0 ⟨0, false⟩ .d, .vcvt 0 1 .w ⟨0, false⟩ .h false, .vrint 0 1 .rne ⟨0, false⟩ .w,
      .vperm 0 1 2 3 ⟨0, false⟩ .h false, .vred 0 1 .add ⟨0, false⟩ .d, .vscan 0 1 .xor ⟨0, false⟩ .f32 false, .vpopc 0 1 ⟨0, false⟩ .f16, .vbin 0 1 2 ⟨0, false⟩ .q4,
      .vnarrow 0 1 2 .b ⟨0, false⟩ .h false, .vwiden 0 1 false .w ⟨0, false⟩ .h, .vdot4 0 1 2 ⟨0, false⟩ .w, .vaddS 0 1 2 ⟨0, false⟩ .f16 true, .vsraS 0 1 2 ⟨0, false⟩ .bf16].all (fun i => !i.wf) = true := by
  decide
/-- R83, R97, R165, R208, R229: a loop of no unit, a K of 0 and of 65 tiles, and types that an atomic, a collective or an indexed access does not take. -/
theorem test_ill_formed_others : [Instr.lend 0, .loop 0 1 true 0 0, .mma mwf 0, .mma mwf 65, .amoAdd 1 2 3 .h .dev .cap, .collRed (cof 0) .add .q4, .fcvt 1 2 .w false .w].all (fun i => !i.wf) = true := by decide
/-- The neighbours of the checks that must pass. -/
theorem test_well_formed : [Instr.mma mwf 1, .mma mwf 64, .vmin 0 1 2 ⟨0, false⟩ .f32 true, .vcmp 0 1 2 .ge ⟨0, false⟩ .zb, .vcmp 0 1 2 .uo ⟨0, false⟩ .f16, .vred 0 1 .xor ⟨0, false⟩ .zb,
      .fsgn 3 1 2 .e5m2, .amoAdd 1 2 3 .w .dev .cap].all (fun i => i.wf) = true := by decide

/-! ## Words that the manual's tables refuse -/

/-- R53, R54, R85, R86: FN 6 and TY 7 of `cmp`, its L bit set, `udf`, `udfa`, and an A opcode above the table; and the pair of `sel` with any field. -/
theorem test_refused_words : decodeC 0x0C112630 0 = none := by decide
theorem test_refused_type : decodeC 0x0C112270 0 = none := by decide
theorem test_class_fault : readUnit 0x8C112230 0x04842060 = .classFault ∧ readUnit 0x80000000 0xFE0A1822 = .classFault := by decide
theorem test_udf : decodeC 0x17000000 0 = some .udf ∧ decodeA 0xFC000000 = some .udfa := by decide

/-! ## Values worked in the manual, each one step -/

/-- What an instruction leaves in g3 and in FFLAGS, of g1 and g2. -/
def gives (i : Instr) (g1 g2 : Word) : Option (Word × BitVec 5) :=
  match exec i (wTh fun t => { t with g := #v[0, g1, g2, 0, 0, 0, 0, 0, 0, 0, 0, 0, 0, 0, 0, 0] }) with
  | .next t => some (t.th.g.get 3, t.th.fflags)
  | _ => none
/-- The same under a rounding mode. -/
def givesMode (i : Instr) (mode : BitVec 2) (g1 g2 : Word) : Option (Word × BitVec 5) :=
  match exec i (wTh fun t => { t with rmode := mode, g := #v[0, g1, g2, 0, 0, 0, 0, 0, 0, 0, 0, 0, 0, 0, 0, 0] }) with
  | .next t => some (t.th.g.get 3, t.th.fflags)
  | _ => none
/-- R129's table, and the `div.w` and `bfx` of its chapter. -/
theorem test_scalar_values : gives (.add 3 1 2 .b) 0x7F 1 = some (0xFFFFFFFFFFFFFF80, 0) ∧ gives (.add 3 1 2 .zb) 0x1F0 0x20 = some (0x10, 0)
    ∧ gives (.shl 3 1 2 .w) 0x40000001 1 = some (0xFFFFFFFF80000002, 0) ∧ gives (.shl 3 1 2 .w) 0x40000001 32 = some (0, 0) ∧ gives (.clz 3 1 .h) 0xFFFF0010 0 = some (11, 0)
    ∧ gives (.div 3 1 2 .w) 0xFFFFFFFF80000000 (-1) = some (0xFFFFFFFF80000000, 0) ∧ gives (.bfxImm 3 1 0x20C) 0xABC123 0 = some (0xBC, 0) := by decide +kernel
/-- R120's table (NV 16, DZ 8, OF 4, UF 2, NX 1), and `frcp.f16` of 2^−24. -/
theorem test_conversions : gives (.fcvt 3 1 .bf16 false .f32) 0x3FC08000 0 = some (0x3FC0, 1) ∧ gives (.fcvt 3 1 .bf16 false .f32) 0x3FC18000 0 = some (0x3FC2, 1)
    ∧ gives (.fcvt 3 1 .f32 false .f16) 0x3555 0 = some (0x3EAAA000, 0) ∧ gives (.fcvt 3 1 .e4m3 false .f32) 0x43E80000 0 = some (0x7E, 1)
    ∧ gives (.fcvt 3 1 .e4m3 false .f32) 0x43EB0000 0 = some (0x7F, 5) ∧ gives (.fcvt 3 1 .e4m3 true .f32) 0x43EB0000 0 = some (0x7E, 5)
    ∧ gives (.fcvt 3 1 .e5m2 false .f32) 0x37400000 0 = some (0x01, 3) ∧ gives (.fcvt 3 1 .w false .f32) 0xC0200000 0 = some (0xFFFFFFFFFFFFFFFE, 1)
    ∧ gives (.fcvt 3 1 .w true .f32) 0x4FC00000 0 = some (0x7FFFFFFF, 16) ∧ gives (.fcvt 3 1 .f32 false .e4m3) 0x01 0 = some (0x3B000000, 0)
    ∧ gives (.frcp 3 1 .f16) 1 0 = some (0x7C00, 5) := by decide +kernel
theorem test_conversion_toward_zero : givesMode (.fcvt 3 1 .e4m3 false .f32) 1 0x43EB0000 0 = some (0x7E, 1) := by decide +kernel
/-- R151 and R152: the lanes of the worked `vred.f32` in each order, and the digits of the worked `vbin.h`. -/
def wVec (lanes : List Nat) (n : Nat) : State :=
  let s := wTh fun t => { t with g := t.g.set 5 4 }
  s.setSl { s.sl with v := s.sl.v.set 1 (ofLanes n lanes), m := s.sl.m.set 1 0xF }
def vAfter (i : Instr) (s : State) (d : Fin 16) : Option (VWord × BitVec 5) := match exec i s with | .next t => some (t.sl.v.get d, t.th.fflags) | _ => none
theorem test_vred_order : vAfter (.vred 2 1 .add ⟨1, false⟩ .f32) (wVec [0x3F800000, 0x4B800000, 0x3F800000, 0x3F800000] 32) 2 = some (0x4B800000, 1)
    ∧ vAfter (.vred 2 1 .add ⟨1, false⟩ .f32) (wVec [0x3F800000, 0x3F800000, 0x3F800000, 0x4B800000] 32) 2 = some (0x4B800002, 1) := by decide +kernel
theorem test_vbin : vAfter (.vbin 4 1 5 ⟨1, false⟩ .h) (wVec [0x3C21, 0x3C5A, 0xBC35, 0x0025] 16) 4 = some (ofLanes 32 [0, 0, 2, 1, 0, 1], 0) := by decide +kernel
/-- R188: the granule of the worked address is homed at slice 4. -/
theorem test_home_slice : homeSlice 0x12340 = 0x04 := by decide +kernel
/-- R243: the worked `join` ends CAP (2) where its cap comes first, and DEADLINE (1) where the deadline does. -/
def joins (dla : Word) (now : Word) : Option (BitVec 8) :=
  let s := (wTh fun t => { t with dla := dla, waitcap := 500000, children := 1, g := t.g }).setLineage 0 0 { Lineage.root with expiry := 7000000, live := 2 }
  match exec (.join .dla) { s with instant := 5000000 } with
  | .next t => match exec (.deadlineStep 0 0) { t with instant := now } with
    | .next u => if u.sl.wait.isSome then none else some (u.th.ws.setWidth 8)
    | _ => none
  | _ => none
theorem test_wait_bounds : joins 5900000 5499999 = none ∧ joins 5900000 5500000 = some 2 ∧ joins 5400000 5400000 = some 1 := by decide +kernel
/-- R359: the worked reads of an accumulator. -/
theorem test_energy_latch : (match exec (.energyLoRead none 3) { w0 with energy := tset [] 3 ⟨0x00000001FFFFFFF0, false, 0, []⟩ } with
    | .next t => (match exec (.energyCount 3 0x20) t with
      | .next u => some ((u.energyAt 3).count, (u.energyAt 3).latchHost, u.replies)
      | _ => none)
    | _ => none) = some (0x0000000200000010, 1, [⟨0, leBytes 4 0xFFFFFFF0⟩]) := by decide +kernel
/-- FIPS 180-4's example: the SHA-512 digest of "abc". -/
theorem test_sha512 : sha512 [0x61, 0x62, 0x63] = 0xddaf35a193617abacc417349ae20413112e6fa4e89a97ea20a9eeee64b55d39a2192992a274fc1a836ba3c23a3feebbd454d4423643ce80e2a9ac94fa54ca49f := by
  decide +kernel

end Sys2Proof.Tests
end

section
/-! PROOFS. Device reset and bring-up (R17, R290, R355, R380, R381). -/

namespace Sys2Proof.Machine

/-! ## The image of a slot (R381) -/

/-- A body of `n` bytes from the slot's start, with its trailer, is an image that the boot ROM takes. -/
def ImageAt (fsec : BitVec 32) (slot : List Byte) (n : Nat) : Prop :=
  n + 144 ≤ slot.length ∧ leNat ((slot.drop (n + 4)).take 4) = n ∧ fsec.toNat ≤ leNat ((slot.drop n).take 4)
    ∧ ecdsaValid Config.bootKey (sha512 (slot.take (n + 8))) ((slot.drop (n + 8)).take 132) = true

theorem imageTrailer_take {slot : List Byte} {n : Nat} (h : n + 144 ≤ slot.length) :
    imageTrailer (slot.take (n + 144)) = (slot.drop n).take 144 := by
  have hn : (slot.take (n + 144)).length - 144 = n := by rw [List.length_take]; omega
  rw [imageTrailer, hn, List.drop_take, Nat.add_sub_cancel_left]
theorem imageSecver_take {slot : List Byte} {n : Nat} (h : n + 144 ≤ slot.length) :
    imageSecver (slot.take (n + 144)) = leNat ((slot.drop n).take 4) := by
  rw [imageSecver, imageTrailer_take h, List.take_take]; rfl
theorem imageSig_take {slot : List Byte} {n : Nat} (h : n + 144 ≤ slot.length) :
    imageSig (slot.take (n + 144)) = (slot.drop (n + 8)).take 132 := by
  rw [imageSig, imageTrailer_take h, List.drop_take, List.drop_drop, List.take_take]; rfl
theorem imageDigest_take {slot : List Byte} {n : Nat} (h : n + 144 ≤ slot.length) :
    imageDigest (slot.take (n + 144)) = sha512 (slot.take (n + 8)) := by
  have hn : min ((slot.take (n + 144)).length - 136) (n + 144) = n + 8 := by rw [List.length_take]; omega
  rw [imageDigest, List.take_take, hn]
theorem imageAt_iff {fsec : BitVec 32} {slot : List Byte} {n : Nat} (h : n + 144 ≤ slot.length) :
    ImageAt fsec slot n ↔ leNat ((slot.drop (n + 4)).take 4) = n ∧ imageValid fsec (slot.take (n + 144)) = true := by
  simp only [ImageAt, imageValid, imageSecver_take h, imageSig_take h, imageDigest_take h, h, true_and, Bool.and_eq_true, decide_eq_true_eq]

/-- What the search of a slot asks of a body of `n` bytes that leaves room for its trailer. -/
def takesImageAt (fsec : BitVec 32) (slot : List Byte) (n : Nat) : Bool :=
  leNat ((slot.drop (n + 4)).take 4) == n && imageValid fsec (slot.take (n + 144))

theorem imageIn_eq_find? (fsec : BitVec 32) (slot : List Byte) :
    imageIn fsec slot = ((List.range (slot.length - 143)).find? (takesImageAt fsec slot)).map fun n => slot.take (n + 144) := by
  rw [imageIn, imagesIn, List.find?_map, List.find?_filter]
  simp only [Bool.decide_and, Bool.decide_eq_true]
  rfl
theorem takesImageAt_iff {fsec : BitVec 32} {slot : List Byte} {n : Nat} (h : n < slot.length - 143) :
    takesImageAt fsec slot n = true ↔ ImageAt fsec slot n := by
  rw [imageAt_iff (by omega), takesImageAt, Bool.and_eq_true, beq_iff_eq]
theorem imageIn_of_first {fsec : BitVec 32} {slot : List Byte} {n : Nat} (h : ImageAt fsec slot n) (hmin : ∀ j < n, ¬ImageAt fsec slot j) :
    imageIn fsec slot = some (slot.take (n + 144)) := by
  have hn : n < slot.length - 143 := by have := h.1; omega
  rw [imageIn_eq_find?, List.find?_range_eq_some.mpr, Option.map_some]
  refine ⟨(takesImageAt_iff hn).mpr h, List.mem_range.mpr hn, fun j hj => ?_⟩
  rw [Bool.not_eq_true', ← Bool.not_eq_true, takesImageAt_iff (Nat.lt_trans hj hn)]
  exact hmin j hj
theorem imageIn_of_none {fsec : BitVec 32} {slot : List Byte} (h : ∀ n, ¬ImageAt fsec slot n) : imageIn fsec slot = none := by
  rw [imageIn_eq_find?, List.find?_range_eq_none.mpr, Option.map_none]
  intro n hn
  rw [Bool.not_eq_true', ← Bool.not_eq_true, takesImageAt_iff hn]
  exact h n

/-! ## Tables built from their keys -/

/-- A table of rising keys whose values are given by a function. -/
theorem tget_map_keys {α : Type} (f : Nat → α) {l : List Nat} (h : l.Pairwise (· < ·)) (k : Nat) :
    tget (l.map fun j => (j, f j)) k = if k ∈ l then some (f k) else none := by
  induction l with
  | nil => simp [tget]
  | cons j r ih =>
    obtain ⟨hj, hr⟩ := List.pairwise_cons.mp h
    rw [List.map_cons, tget, ih hr]
    by_cases hjk : j = k
    · simp [hjk]
    · by_cases hkj : k < j
      · have hk : k ∉ r := fun hm => Nat.lt_asymm hkj (hj k hm)
        simp [hjk, Ne.symm hjk, hkj, hk]
      · simp [hjk, Ne.symm hjk, hkj]
theorem tget_map_range {α : Type} (f : Nat → α) (n k : Nat) :
    tget ((List.range n).map fun j => (j, f j)) k = if k < n then some (f k) else none := by
  simp only [tget_map_keys f List.pairwise_lt_range, List.mem_range]

/-! ## What steps 3 to 5 write (R17, R290, R355, R380) -/

theorem tget_firewalls (w n : Nat) :
    tget (firewalls w) n = if n < 8192 then some (if n % 32 < 32 - w then 0x80000000 else 0xC0000000) else none := by
  have hnut : BitVec.ofNat 32 (2 ^ 31 + (if 32 - w ≤ n % 32 then 2 ^ 30 else 0)) = if n % 32 < 32 - w then 0x80000000 else 0xC0000000 := by
    by_cases h : n % 32 < 32 - w
    · rw [if_neg (Nat.not_le.mpr h), if_pos h]; rfl
    · rw [if_pos (Nat.not_lt.mp h), if_neg h]; rfl
  rw [firewalls, tget_map_range, hnut]
theorem tget_coreTable (w : Nat) (bad : List Nat) (n : Nat) :
    tget (coreTable w bad) n = if n < 8192 ∧ n % 32 < 32 - w then some (BitVec.ofNat 32 ((if n ∈ bad then 0 else 2 ^ 31) + n)) else none := by
  have hentry : l2pEntry (!bad.contains n) n = BitVec.ofNat 32 ((if n ∈ bad then 0 else 2 ^ 31) + n) := by
    by_cases h : n ∈ bad <;> simp [l2pEntry, h]
  rw [coreTable, tget_map_keys _ (List.pairwise_lt_range.filter _), hentry]
  simp only [List.mem_filter, List.mem_range, decide_eq_true_eq]
/-- PRES of a core's entry. -/
theorem getLsbD_l2pEntry (pres : Bool) {n : Nat} (h : n < 8192) : (l2pEntry pres n).getLsbD 31 = pres := by
  have hn : n.testBit 31 = false := Nat.testBit_lt_two_pow (by omega)
  rw [l2pEntry, BitVec.getLsbD_ofNat]
  cases pres with
  | false => simpa using hn
  | true => rw [if_pos rfl, Nat.testBit_two_pow_add_eq, hn]; rfl
/-- The present entries of the table are the good cores outside the nut column. -/
theorem coreTable_present_length (w : Nat) (bad : List Nat) :
    ((coreTable w bad).filter fun e => e.2.getLsbD 31).length = ((List.range 8192).filter fun n => decide (n % 32 < 32 - w) && !bad.contains n).length := by
  rw [coreTable, List.filter_map, List.length_map, List.filter_filter]
  refine congrArg List.length (List.filter_congr fun n hn => ?_)
  rw [Function.comp_apply, getLsbD_l2pEntry _ (List.mem_range.mp hn), Bool.and_comm]

/-- A reason raised under a condition changes HSTAT at most. -/
theorem State.ite_health_eq {s t : State} (h : ∃ r, t = { s with fw := { s.fw with hstat := r } }) (c : Prop) [Decidable c] (bit : Fin 8) :
    ∃ r, (if c then t.health bit else t) = { s with fw := { s.fw with hstat := r } } := by
  obtain ⟨r, rfl⟩ := h
  by_cases hc : c
  · rw [if_pos hc]
    exact ⟨_, rfl⟩
  · rw [if_neg hc]
    exact ⟨r, rfl⟩
/-- What the tests find changes HSTAT at most: each of their three reasons does. -/
theorem State.testHealth_eq (s : State) : ∃ r, s.testHealth = { s with fw := { s.fw with hstat := r } } :=
  ite_health_eq (ite_health_eq (ite_health_eq ⟨s.fw.hstat, rfl⟩ _ 3) _ 2) _ 1

/-- The machine after step 4, with its tables and harps. -/
def State.tested (s : State) (table : List Byte) (bad : List Nat) (rows : List (Nat × Nat)) : State :=
  { s with
    fw := { s.fw with table := table, fwctl := firewalls (nutWidth table), l2p := coreTable (nutWidth table) bad }
    clusters := testedHarps rows }
/-- The machine in step 5, before HSTAT takes what the tests found. -/
def State.timed (s : State) (table : List Byte) : State :=
  { s with dies := (List.range 4).map fun d => (d, bootDie table s.poolMax d), fw := { s.fw with boot := .timing } }
/-- The machine in step 5. -/
def State.booted (s : State) (table : List Byte) (bad : List Nat) (rows : List (Nat × Nat)) : State :=
  ((s.tested table bad rows).timed table).testHealth

section
variable (s : State) (table : List Byte) (bad : List Nat) (rows : List (Nat × Nat))

theorem State.booted_eq : ∃ hstat, s.booted table bad rows
    = { (s.tested table bad rows).timed table with fw := { ((s.tested table bad rows).timed table).fw with hstat := hstat } } :=
  State.testHealth_eq ((s.tested table bad rows).timed table)
theorem State.booted_fw : (s.booted table bad rows).fw.boot = .timing ∧ (s.booted table bad rows).fw.table = table
    ∧ (s.booted table bad rows).fw.l2p = coreTable (nutWidth table) bad ∧ (s.booted table bad rows).fw.fwctl = firewalls (nutWidth table)
    ∧ (s.booted table bad rows).fw.fsec = s.fw.fsec := by
  obtain ⟨hstat, h⟩ := s.booted_eq table bad rows
  simp only [h, State.timed, State.tested, and_self]
/-- R349: every pool is full. -/
theorem State.booted_pool {d : Nat} (hd : d < 4) : ((s.booted table bad rows).dieAt d).pool
    = BitVec.ofNat 16 (if leNat ((table.drop 12).take 4) = 0 then 64 else leNat ((table.drop 12).take 4)) := by
  obtain ⟨hstat, h⟩ := s.booted_eq table bad rows
  rw [h, State.timed, State.dieAt, tget_map_range, if_pos hd]; rfl

variable {s table bad rows}

theorem State.bootWith_of_few
    (h : ((List.range 8192).filter fun n => decide (n % 32 < 32 - nutWidth table) && !bad.contains n).length < 1024) :
    s.bootWith table bad rows = (s.tested table bad rows).stopBoot 3 := by
  rw [← coreTable_present_length] at h
  simp only [State.bootWith, h, if_true, State.tested]
theorem State.bootWith_of_enough
    (h : 1024 ≤ ((List.range 8192).filter fun n => decide (n % 32 < 32 - nutWidth table) && !bad.contains n).length) :
    s.bootWith table bad rows = s.booted table bad rows := by
  rw [← coreTable_present_length] at h
  simp only [State.bootWith, Nat.not_lt.mpr h, if_false, State.booted, State.timed, State.tested]

end

/-! ## The steps of device reset (R380) -/

theorem chooseSlot_active {ok : List Byte → Bool} {active : Bool} {slot0 slot1 : List Byte} (h : ok (if active then slot1 else slot0) = true) :
    chooseSlot ok active slot0 slot1 = some (active, if active then slot1 else slot0) := if_pos h
theorem chooseSlot_none {ok : List Byte → Bool} {active : Bool} {slot0 slot1 : List Byte} (h0 : ok slot0 = false) (h1 : ok slot1 = false) :
    chooseSlot ok active slot0 slot1 = none := by
  cases active <;> simp [chooseSlot, h0, h1]

/-- The firmware slot and the table slot marked active. -/
def Firmware.activeImage (f : Firmware) : List Byte := if f.fwActive then f.fwSlot1 else f.fwSlot0
def Firmware.activeTable (f : Firmware) : List Byte := if f.tabActive then f.tabSlot1 else f.tabSlot0

/-- The machine after step 1, which runs the firmware marked active. -/
def State.imageRuns (s : State) : State := { s.afterReset with fw := { s.afterReset.fw with fwRun := s.fw.fwActive } }
/-- The machine after step 2, which takes the table marked active. -/
def State.tableRuns (s : State) : State := { s.imageRuns with fw := { s.imageRuns.fw with tabRun := s.fw.tabActive } }

section
variable {s : State} {bad : List Nat} {rows : List (Nat × Nat)}

theorem exec_deviceReset : exec (.deviceReset bad rows) s = execDeviceReset bad rows s := rfl
theorem exec_deviceReset_of_no_image (h0 : imageOk s.fw.fsec s.fw.fwSlot0 = false) (h1 : imageOk s.fw.fsec s.fw.fwSlot1 = false) :
    exec (.deviceReset bad rows) s = .next (s.afterReset.stopBoot 1) := by
  have himg : chooseSlot (imageOk s.afterReset.fw.fsec) s.afterReset.fw.fwActive s.afterReset.fw.fwSlot0 s.afterReset.fw.fwSlot1 = none :=
    chooseSlot_none h0 h1
  rw [exec_deviceReset]
  unfold execDeviceReset
  simp only [himg]

variable (himage : imageOk s.fw.fsec s.fw.activeImage = true)
include himage

theorem chooseSlot_activeImage :
    chooseSlot (imageOk s.afterReset.fw.fsec) s.afterReset.fw.fwActive s.afterReset.fw.fwSlot0 s.afterReset.fw.fwSlot1
      = some (s.fw.fwActive, s.fw.activeImage) := chooseSlot_active himage

theorem exec_deviceReset_of_no_table (h0 : tableOk s.fw.fsec s.fw.tabSlot0 = false) (h1 : tableOk s.fw.fsec s.fw.tabSlot1 = false) :
    exec (.deviceReset bad rows) s = .next (s.imageRuns.stopBoot 2) := by
  have htab : chooseSlot (tableOk s.afterReset.fw.fsec) s.afterReset.fw.tabActive s.afterReset.fw.tabSlot0 s.afterReset.fw.tabSlot1 = none :=
    chooseSlot_none h0 h1
  rw [exec_deviceReset]
  unfold execDeviceReset
  simp only [chooseSlot_activeImage himage, htab]
  rfl

theorem exec_deviceReset_of_table (htable : tableOk s.fw.fsec s.fw.activeTable = true) :
    exec (.deviceReset bad rows) s = .next (s.tableRuns.bootWith s.fw.activeTable bad rows) := by
  have htab : chooseSlot (tableOk s.afterReset.fw.fsec) s.afterReset.fw.tabActive s.afterReset.fw.tabSlot0 s.afterReset.fw.tabSlot1
      = some (s.fw.tabActive, s.fw.activeTable) := chooseSlot_active htable
  rw [exec_deviceReset]
  unfold execDeviceReset
  simp only [chooseSlot_activeImage himage, htab]
  rfl

end

/-- What every device reset leaves: nothing runs, memory is empty (log 55), and the store's slots are as before. -/
def ResetKeeps (s t : State) : Prop :=
  t.cores = [] ∧ t.contexts = [] ∧ t.lineages = [] ∧ t.frames = [] ∧ t.mem = [] ∧ t.op = [] ∧ t.lq = [] ∧ t.ft = []
    ∧ t.priv = [] ∧ t.instant = 0 ∧ t.fw.fwSlot0 = s.fw.fwSlot0 ∧ t.fw.fwSlot1 = s.fw.fwSlot1 ∧ t.fw.tabSlot0 = s.fw.tabSlot0
    ∧ t.fw.tabSlot1 = s.fw.tabSlot1

theorem State.afterReset_keeps (s : State) : ResetKeeps s s.afterReset :=
  ⟨rfl, rfl, rfl, rfl, rfl, rfl, rfl, rfl, rfl, rfl, rfl, rfl, rfl, rfl⟩
/-- Bring-up writes nothing but firmware's registers outside the slots, the harps and the dies. -/
theorem ResetKeeps.write {s t : State} (h : ResetKeeps s t) (f : Firmware) (clusters : Tab Cluster) (dies : Tab Die)
    (hfw0 : f.fwSlot0 = t.fw.fwSlot0) (hfw1 : f.fwSlot1 = t.fw.fwSlot1) (htab0 : f.tabSlot0 = t.fw.tabSlot0) (htab1 : f.tabSlot1 = t.fw.tabSlot1) :
    ResetKeeps s { t with fw := f, clusters := clusters, dies := dies } := by
  simpa only [ResetKeeps, hfw0, hfw1, htab0, htab1] using h
theorem ResetKeeps.stopBoot {s t : State} (h : ResetKeeps s t) (code : BitVec 6) : ResetKeeps s (t.stopBoot code) :=
  h.write _ t.clusters t.dies rfl rfl rfl rfl
theorem State.imageRuns_keeps (s : State) : ResetKeeps s s.imageRuns :=
  s.afterReset_keeps.write _ s.afterReset.clusters s.afterReset.dies rfl rfl rfl rfl
theorem State.tested_tableRuns_keeps (s : State) (table : List Byte) (bad : List Nat) (rows : List (Nat × Nat)) :
    ResetKeeps s (s.tableRuns.tested table bad rows) :=
  s.afterReset_keeps.write _ (testedHarps rows) s.afterReset.dies rfl rfl rfl rfl
theorem State.booted_tableRuns_keeps (s : State) (table : List Byte) (bad : List Nat) (rows : List (Nat × Nat)) :
    ResetKeeps s (s.tableRuns.booted table bad rows) := by
  obtain ⟨hstat, h⟩ := s.tableRuns.booted_eq table bad rows
  rw [h]
  exact (s.tested_tableRuns_keeps table bad rows).write _ _ _ rfl rfl rfl rfl

end Sys2Proof.Machine

open Sys2Proof Sys2Proof.Machine

/-- Settles O45: each clause is the equation of `exec (.deviceReset ..)` for its case, with what the end state holds; R381's part is a search for the
first `ImageAt`. -/
theorem bringup : Obligations.Bringup := by
  unfold Obligations.Bringup
  refine ⟨fun fsec slot => ⟨fun n hn hmin => imageIn_of_first hn hmin, fun h => imageIn_of_none h⟩,
    fun s bad rows => ⟨?noImage, fun himage => ⟨?noTable, ?boots, ?fewCores⟩⟩⟩
  case noImage =>
    intro h0 h1
    exact ⟨_, exec_deviceReset_of_no_image h0 h1, s.afterReset_keeps.stopBoot 1, rfl, rfl⟩
  case noTable =>
    intro h0 h1
    exact ⟨_, exec_deviceReset_of_no_table himage h0 h1, s.imageRuns_keeps.stopBoot 2, rfl, rfl⟩
  case boots =>
    intro htable hcores
    have hrun := exec_deviceReset_of_table (bad := bad) (rows := rows) himage htable
    rw [State.bootWith_of_enough (table := s.fw.activeTable) hcores] at hrun
    obtain ⟨hboot, htab, hl2p, hfwctl, hfsec⟩ := s.tableRuns.booted_fw s.fw.activeTable bad rows
    refine ⟨_, hrun, s.booted_tableRuns_keeps _ bad rows, hboot, htab, fun n => ?_, fun n => ?_, fun d hd => State.booted_pool _ _ bad rows hd, hfsec⟩
    · rw [hl2p]
      exact tget_coreTable _ bad n
    · rw [hfwctl]
      exact tget_firewalls _ n
  case fewCores =>
    intro htable hcores
    have hrun := exec_deviceReset_of_table (bad := bad) (rows := rows) himage htable
    rw [State.bootWith_of_few (table := s.fw.activeTable) hcores] at hrun
    exact ⟨_, hrun, (s.tested_tableRuns_keeps _ bad rows).stopBoot 3, rfl, rfl⟩

end
